-- ==== Sys2Proof/Word.lean ====
section
/-! DEFINITION. Word types of the D96: the manual's bit containers (bit 0 is the least significant, R3). -/

namespace Sys2Proof

/-- A 64-bit general register or control register value. -/
abbrev Word := BitVec 64
/-- One byte of memory. -/
abbrev Byte := BitVec 8
/-- A vector register or 64-byte line. -/
abbrev Vec := BitVec 512
/-- A 4 KiB tile register. -/
abbrev Tile := BitVec 32768
/-- A 16-byte segment descriptor (R200). -/
abbrev Seg := BitVec 128
/-- One Wiltik instruction word (R255). -/
abbrev IWord := BitVec 32

/-- A table from a natural key to a value, as a list of pairs. The canonical form (keys strictly
rising, no pair holding the value an unlisted key reads as) is `Sys2Proof.Machine.Sparse.wf`. -/
abbrev Sparse (α : Type) := List (Nat × α)

end Sys2Proof
end

