-- ==== Sys2Proof/Syntax.lean ====
section
/-! DEFINITION. The steps of the D96: one constructor per row of spec/opcode_table.json. The rows with
encodings are the Wiltik instructions, each with exactly the operand fields of its word (R255-R263). The
other rows are the module's events: the unit an event happens at and what the outside world supplies to it
(a host request, a packet, a measured time offset, a detected error) stand in an `Env`, which the state holds. -/

namespace Sys2Proof

/-- Where a word lives: the home queues of the ordering machine (R223) and the Byand egress ports (R69). -/
inductive Home where
  /-- HBM5 channel 0-255 (R46). -/
  | hbm (channel : Nat)
  /-- SRAM slice 0-127, 32 per tower. -/
  | sram (slice : Nat)
  /-- Host memory behind the PCIe function. -/
  | host
  /-- The banks of a compute core's scratchpad, behind its loop-back port. -/
  | spad (core : Nat)
  /-- eDRAM bank group 0-63 of a layer 0-31. -/
  | edram (layer group : Nat)
  /-- Byand egress port 0-63 toward another module. -/
  | egress (port : Nat)
  deriving DecidableEq, Repr

/-- The nine combinable fetch-and-operate operations (R51, R306). -/
inductive AmoOp where
  | add | and | or | xor | max | min | maxu | minu | swap
  deriving DecidableEq, Repr

/-- The four N-forms (R312). -/
inductive NOp where
  | add | fadd | max | min
  deriving DecidableEq, Repr

/-- One operation as it reaches a home queue or an update port. Widths are in bytes. -/
inductive MemOp where
  | read (n : Nat)
  | write (n : Nat) (v : Vec)
  | amo (op : AmoOp) (w : Nat) (v : Word)
  | cas (w : Nat) (cmp new : Word)
  | fadd (v : BitVec 32)
  | lr (w : Nat)
  | sc (w : Nat) (v : Word)
  | upd (op : NOp) (w : Nat) (v : Word)
  deriving DecidableEq, Repr

/-- Reply statuses: the failures of R56, R71, R74, R78, R209, R311 and R413, an access refused by its kind (R67, R71,
R295), a page that lacks a right (R212), and a lease that had expired (R214). -/
inductive Status where
  | ok | uncorrectable | byrefuse | bylost | hostError | busMaster | noTarget | refused | rights | expired
  deriving DecidableEq, Repr

/-- What the outside supplies for a reply that another module or the host returns. -/
structure RemoteReply where
  status : Status
  value  : Vec
  deriving DecidableEq, Repr

/-- Register kinds (R320, R364 CAUSE 0x0D). -/
inductive RegKind where
  | g | v | m | c
  deriving DecidableEq, Repr

/-- What an arriving packet asks: an operation on an address, a message of a type to a core,
or a register fill. -/
inductive ByBody where
  | mem (addr : Nat) (op : MemOp)
  | msg (core type : Nat) (g : List Word) (v : List Vec)
  | fill (core slot : Nat) (tid : Word) (kind : RegKind) (reg : Nat) (val : Vec)
  deriving DecidableEq, Repr

/-- A packet arriving through Byand (R71): a memory request or a message for a core, with the expiry it carries (R214). -/
structure ByPacket where
  dom    : BitVec 16
  src    : BitVec 22
  expiry : Option Nat
  body   : ByBody
  /-- Members of a combined request beyond one, and the mark that it never combines (R72). -/
  extra  : Nat := 0
  noCombine : Bool := false
  deriving DecidableEq, Repr

/-- A fetch-and-operate header at a Byand switch output (R72). -/
structure ByHeader where
  ingress   : Nat
  dom       : BitVec 16
  dest      : BitVec 22
  addr      : Nat
  op        : AmoOp
  width     : Nat
  value     : Word
  request   : Nat
  noCombine : Bool
  /-- Members, each of which is metered (R57, R72). -/
  count     : Nat := 1
  deriving DecidableEq, Repr

/-- Where an aging entry waits (R124). -/
inductive AgeSite where
  | task (p index : Nat)
  | ready (core index : Nat)
  deriving DecidableEq, Repr

/-- What a detected soft error struck (R142, R143). -/
inductive SoftHit where
  | reg (slot : Nat) (kind : RegKind) (num : Nat)
  | vmu (slot : Nat) (kind : RegKind) (num : Nat)
  | common (num : Nat)
  deriving DecidableEq, Repr

/-- What an event is given: the units it happens at, and what the outside world supplies. Each event's row below
says which of these it reads; the others mean nothing to it. -/
structure Env where
  unit   : Nat
  sub    : Nat
  third  : Nat
  val    : Word
  addr   : Word
  size   : Nat
  write  : Bool
  bad    : Bool
  offset : Int
  bytes  : List Byte
  nonce  : BitVec 256
  home   : Home
  site   : AgeSite
  hit    : SoftHit
  remote : RemoteReply
  pkt    : ByPacket
  hdr    : ByHeader
  /-- A bench core's atomic (R82). -/
  op     : Option MemOp
  deriving DecidableEq, Repr

/-- An event that is given nothing. -/
def Env.none : Env :=
  { unit := 0, sub := 0, third := 0, val := 0, addr := 0, size := 0, write := false, bad := false, offset := 0, bytes := [],
    nonce := 0, home := .host, site := .task 0 0, hit := .common 0, remote := ⟨.ok, 0⟩, pkt := { dom := 0, src := 0, expiry := Option.none, body := .mem 0 (.read 0) },
    hdr := { ingress := 0, dom := 0, dest := 0, addr := 0, op := .add, width := 0, value := 0, request := 0, noCombine := false }, op := Option.none }

/-- One step of the module: a row of spec/opcode_table.json. -/
inductive Instr where
  /-- R362. Does nothing. -/
  | nop
  /-- R366. Raises a precise trap with CAUSE 0x08 and the Q code. -/
  | trap (q : BitVec 4)
  /-- R365. Resumes a trapped thread at its RPC. -/
  | eretRetry (d a : BitVec 5)
  /-- R365. Resumes a trapped thread after its RPC. -/
  | eretSkip (d a : BitVec 5)
  /-- R365. Ends a trapped thread as ended by system software. -/
  | eretEnd (d a : BitVec 5)
  /-- R197. Empties the core's instruction buffer after the thread's earlier stores are performed. -/
  | ifence
  /-- R361. Checkpoints the live-in registers named in g[A] and opens an idempotent region. -/
  | idem (a : BitVec 5)
  /-- R361. Closes the open idempotent region. -/
  | idend
  /-- R362. Issues and records its last issue eight cycles later. -/
  | yield
  /-- R366. Raises a precise trap with CAUSE 0x09 that only ERET end can clear. -/
  | halt
  /-- R356. Reads a control or common register into g[D]. -/
  | rdctl (d : BitVec 5) (s : BitVec 4)
  /-- R356. Writes g[B] into psw or a common register. -/
  | wrctl (s : BitVec 4) (b : BitVec 5)
  /-- R360. Writes the core's LTC copy into g[D]. -/
  | rdlt (d : BitVec 5)
  /-- R360. Writes thread counter Q into g[D]. -/
  | rdcnt (d : BitVec 5) (q : BitVec 3)
  /-- R360. Writes segment sgN into g[D] and g[D+1]. -/
  | rdseg (d : BitVec 5) (g : BitVec 3)
  /-- R202. Writes g[A] and g[A+1] into sgN, narrowing only in general mode. -/
  | wrseg (a : BitVec 5) (g : BitVec 3)
  /-- R367. Sends one message described by g[B] to the core address g[A]. -/
  | send (d a b : BitVec 5)
  /-- R368. Sends a register fill of g[D], vD or a common register to a named thread. -/
  | fill (d a b : BitVec 5) (q : BitVec 4)
  /-- R369. Migrates the thread to the core address g[A]. -/
  | go (a : BitVec 5)
  /-- R370. Starts a child thread from the header at g[A], placed on the IDLE core unless deterministic. -/
  | spawn (d a b : BitVec 5)
  /-- R370. Starts a child named by path and placed at PHASH(path) mod LEN, setting its result register empty. -/
  | spawnd (d a b : BitVec 5)
  /-- R371. Parks until every outstanding child result register is full, then resets the ordinal count. -/
  | join
  /-- R372. Ends the thread after fence.sys, filling a parent's result register and freeing the slot. -/
  | exit
  /-- R373. Writes a vector table entry after reading and checking its header and copies the vector context. -/
  | setvec (a b : BitVec 5)
  /-- R373. Reads the vector table entry for a type into g[D]. -/
  | getvec (d a : BitVec 5)
  /-- R374. Moves the thread to the IDLE core when its core's load is at least 2 higher. -/
  | loadq (d : BitVec 5)
  /-- R377. Checks and pushes a 64-byte copy command to the cluster's copy unit. -/
  | epushCopy (a : BitVec 4)
  /-- R105. Pushes a launch parameter block address to the partition's launch queue. -/
  | epushLaunch (a : BitVec 4)
  /-- R382. Pushes a LEAVE request word to the layer's power governor. -/
  | epushGov (a : BitVec 4)
  /-- R376. Removes the head element of an engine output queue into g[D], waiting while empty. -/
  | epop (d : BitVec 5) (q : BitVec 4)
  /-- R376. Copies the head element of an engine output queue without removing it. -/
  | epeek (d : BitVec 5) (q : BitVec 4)
  /-- R381. Waits until any tag in the mask is set and returns them. -/
  | tagwany (d a : BitVec 5)
  /-- R381. Waits until every tag in the mask is set. -/
  | tagwall (d a : BitVec 5)
  /-- R381. Waits for a tag in the mask, returns the lowest set and clears it. -/
  | tagff (d a : BitVec 5)
  /-- R381. Clears the tags in the mask. -/
  | tagclr (a : BitVec 5)
  /-- R217. Walks the page at offset g[A] of sgN again and installs fresh TLB entries. -/
  | lease (a : BitVec 5) (g : BitVec 3)
  /-- R382. Asks the governor for explicit leave and writes its answer into g[D]. -/
  | leave (d a : BitVec 5)
  /-- R148. Emits the token in vA to its home slice and waits for insertion. -/
  | temit (a : BitVec 4)
  /-- R383. Emits the token in vA with ident g[B] and INIT set. -/
  | temiti (a : BitVec 4) (b : BitVec 5)
  /-- R384. Removes the oldest matching resident token into vD. -/
  | tgrab (d : BitVec 4) (a b : BitVec 5)
  /-- R384. Copies the oldest matching resident token into vD without removing it. -/
  | tpeek (d : BitVec 4) (a b : BitVec 5)
  /-- R152. Writes vB into a rule table entry after checking it. -/
  | rulew (a : BitVec 5) (b : BitVec 4)
  /-- R386. Starts a reaction run in the named mode and start index, or reports a refusal status. -/
  | rrun (d a : BitVec 5)
  /-- R385. Moves a RUNNING or STOPPED run to HALTED after current passes finish. -/
  | rhalt
  /-- R387. Writes one run or slice statistic into g[D]. -/
  | rstat (d a : BitVec 5)
  /-- R164. Sets or arms the firing budget, resuming a STOPPED run. -/
  | rbudg (a : BitVec 5)
  /-- R170. Gives a slice a current or next log descriptor, resuming a slice stopped on its log. -/
  | rlogm (a b : BitVec 5)
  /-- R389. Parks until the run leaves RUNNING, then writes the run status word. -/
  | stabw (d : BitVec 5)
  /-- R389. Writes the run status word without waiting. -/
  | stabq (d : BitVec 5)
  /-- R316. A member arrives in its next barrier phase and goes on. -/
  | bara (a : BitVec 5)
  /-- R316. A non-member parks until the current phase releases. -/
  | barw (a : BitVec 5)
  /-- R316. A member arrives in its next phase and parks until it releases. -/
  | bar (a : BitVec 5)
  /-- R316. A member arrives in a fuzzy phase and records it pending. -/
  | fza (a : BitVec 5)
  /-- R316. Parks until the pending fuzzy phase releases, then clears it. -/
  | fzw (a : BitVec 5)
  /-- R233. Waits until every earlier marked access is performed. -/
  | fenceRx
  /-- R233. Also waits until older near-buffer entries are in the banks. -/
  | fenceLb
  /-- R233. Also waits until earlier N-forms are applied and messages accepted. -/
  | fenceSys
  /-- R34. Waits until every earlier Col write is applied at every awake die or logged. -/
  | cfence
  /-- R320. Sets the named register empty. -/
  | wres (d : BitVec 5) (q : BitVec 4)
  /-- R281. g[D] ← a + b. -/
  | add (d a b : BitVec 5)
  /-- R281. g[D] ← a − b. -/
  | sub (d a b : BitVec 5)
  /-- R281. g[D] ← a AND b. -/
  | and (d a b : BitVec 5)
  /-- R281. g[D] ← a OR b. -/
  | or (d a b : BitVec 5)
  /-- R281. g[D] ← a XOR b. -/
  | xor (d a b : BitVec 5)
  /-- R281. g[D] ← a AND NOT b. -/
  | andn (d a b : BitVec 5)
  /-- R281. g[D] ← a OR NOT b. -/
  | orn (d a b : BitVec 5)
  /-- R281. g[D] ← NOT (a XOR b). -/
  | xnor (d a b : BitVec 5)
  /-- R281. Shifts a left by b[5:0]. -/
  | sll (d a b : BitVec 5)
  /-- R281. Shifts a right logically by b[5:0]. -/
  | srl (d a b : BitVec 5)
  /-- R281. Shifts a right arithmetically by b[5:0]. -/
  | sra (d a b : BitVec 5)
  /-- R281. Rotates a left by b[5:0]. -/
  | rol (d a b : BitVec 5)
  /-- R281. Rotates a right by b[5:0]. -/
  | ror (d a b : BitVec 5)
  /-- R281. Signed minimum of a and b. -/
  | min (d a b : BitVec 5)
  /-- R281. Signed maximum of a and b. -/
  | max (d a b : BitVec 5)
  /-- R281. Unsigned minimum of a and b. -/
  | minu (d a b : BitVec 5)
  /-- R281. Unsigned maximum of a and b. -/
  | maxu (d a b : BitVec 5)
  /-- R281. 32-bit add, sign-extended. -/
  | addw (d a b : BitVec 5)
  /-- R281. 32-bit subtract, sign-extended. -/
  | subw (d a b : BitVec 5)
  /-- R281. 1 if a < b signed, else 0. -/
  | slt (d a b : BitVec 5)
  /-- R281. 1 if a < b unsigned, else 0. -/
  | sltu (d a b : BitVec 5)
  /-- R282. Low 64 bits of a × b. -/
  | mul (d a b : BitVec 5)
  /-- R282. Upper half of the signed 128-bit product. -/
  | mulh (d a b : BitVec 5)
  /-- R282. Upper half of the unsigned 128-bit product. -/
  | mulhu (d a b : BitVec 5)
  /-- R282. 32-bit product, sign-extended. -/
  | mulw (d a b : BitVec 5)
  /-- R282. g[D] ← d + a × b. -/
  | mad (d a b : BitVec 5)
  /-- R283. Signed quotient truncated toward zero. -/
  | div (d a b : BitVec 5)
  /-- R283. Unsigned quotient. -/
  | divu (d a b : BitVec 5)
  /-- R283. Signed remainder. -/
  | rem (d a b : BitVec 5)
  /-- R283. Unsigned remainder. -/
  | remu (d a b : BitVec 5)
  /-- R284. Counts 1 bits of a. -/
  | popc (d a : BitVec 5)
  /-- R284. Counts leading zeros of a. -/
  | clz (d a : BitVec 5)
  /-- R284. Counts trailing zeros of a. -/
  | ctz (d a : BitVec 5)
  /-- R284. Reverses the bits of a. -/
  | brev (d a : BitVec 5)
  /-- R284. Reverses the bytes of a. -/
  | bswap (d a : BitVec 5)
  /-- R285. Extracts a bit field of a described by b. -/
  | bext (d a b : BitVec 5)
  /-- R285. Inserts low bits of a into a field of d described by b. -/
  | bins (d a b : BitVec 5)
  /-- R284. Sign-extends the low 8, 16 or 32 bits of a. -/
  | sext (d a : BitVec 5) (q : BitVec 2)
  /-- R284. Zero-extends the low 8, 16 or 32 bits of a. -/
  | zext (d a : BitVec 5) (q : BitVec 2)
  /-- R253. g[D] ← PHASH(a). -/
  | phash (d a : BitVec 5)
  /-- R254. g[D] ← RNDK(a, b). -/
  | rndk (d a b : BitVec 5)
  /-- R286. Adds a sign-extended immediate. -/
  | addi (d a : BitVec 5) (i : BitVec 16)
  /-- R286. ANDs a sign-extended immediate. -/
  | andi (d a : BitVec 5) (i : BitVec 16)
  /-- R286. ORs a zero-extended immediate. -/
  | ori (d a : BitVec 5) (i : BitVec 16)
  /-- R286. XORs a zero-extended immediate. -/
  | xori (d a : BitVec 5) (i : BitVec 16)
  /-- R287. Writes IMM16 into lane k of g[D], keeping the other lanes. -/
  | lih (d : BitVec 5) (k : BitVec 2) (i : BitVec 16)
  /-- R286. Shifts left by an immediate. -/
  | slli (d a : BitVec 5) (n : BitVec 6)
  /-- R286. Shifts right logically by an immediate. -/
  | srli (d a : BitVec 5) (n : BitVec 6)
  /-- R286. Shifts right arithmetically by an immediate. -/
  | srai (d a : BitVec 5) (n : BitVec 6)
  /-- R286. 1 if a < immediate signed. -/
  | slti (d a : BitVec 5) (i : BitVec 16)
  /-- R286. 1 if a < sign-extended immediate unsigned. -/
  | sltiu (d a : BitVec 5) (i : BitVec 16)
  /-- R288. Compares a with b and opens a guard window of SK instructions. -/
  | cmp (s : BitVec 2) (c : BitVec 3) (a b : BitVec 5)
  /-- R288. Compares the low 32 bits and opens a guard window. -/
  | cmpw (s : BitVec 2) (c : BitVec 3) (a b : BitVec 5)
  /-- R289. Compares FP32 or BF16 values and opens a guard window. -/
  | cmpf (s c : BitVec 2) (a b : BitVec 5) (q : BitVec 1)
  /-- R288. Compares a with an immediate and opens a guard window. -/
  | cmpi (s : BitVec 2) (c : BitVec 3) (a : BitVec 5) (i : BitVec 16)
  /-- R288. Compares the low 32 bits with an immediate and opens a guard window. -/
  | cmpiw (s : BitVec 2) (c : BitVec 3) (a : BitVec 5) (i : BitVec 16)
  /-- R292. Jumps to pc + 4 × OFF21. -/
  | j (o : BitVec 21)
  /-- R292. Jumps to pc + 4 × OFF21 and writes the link into g[D]. -/
  | jl (d : BitVec 5) (o : BitVec 21)
  /-- R292. Jumps to a + 4 × IMM16. -/
  | jr (a : BitVec 5) (i : BitVec 16)
  /-- R292. Jumps to a + 4 × IMM16 and writes the link into g[D]. -/
  | jlr (d a : BitVec 5) (i : BitVec 16)
  /-- R296. Loads a byte sign-extended. -/
  | ldb (d a : BitVec 5) (g : BitVec 3) (x : BitVec 1) (o : BitVec 10)
  /-- R296. Loads 2 bytes sign-extended. -/
  | ldh (d a : BitVec 5) (g : BitVec 3) (x : BitVec 1) (o : BitVec 10)
  /-- R296. Loads 4 bytes sign-extended. -/
  | ldw (d a : BitVec 5) (g : BitVec 3) (x : BitVec 1) (o : BitVec 10)
  /-- R296. Loads 8 bytes. -/
  | ldd (d a : BitVec 5) (g : BitVec 3) (x : BitVec 1) (o : BitVec 10)
  /-- R296. Loads a byte zero-extended. -/
  | ldbz (d a : BitVec 5) (g : BitVec 3) (x : BitVec 1) (o : BitVec 10)
  /-- R296. Loads 2 bytes zero-extended. -/
  | ldhz (d a : BitVec 5) (g : BitVec 3) (x : BitVec 1) (o : BitVec 10)
  /-- R296. Loads 4 bytes zero-extended. -/
  | ldwz (d a : BitVec 5) (g : BitVec 3) (x : BitVec 1) (o : BitVec 10)
  /-- R296. Stores the low byte of g[D]. -/
  | stb (d a : BitVec 5) (g : BitVec 3) (x : BitVec 1) (o : BitVec 10)
  /-- R296. Stores the low 2 bytes of g[D]. -/
  | sth (d a : BitVec 5) (g : BitVec 3) (x : BitVec 1) (o : BitVec 10)
  /-- R296. Stores the low 4 bytes of g[D]. -/
  | stw (d a : BitVec 5) (g : BitVec 3) (x : BitVec 1) (o : BitVec 10)
  /-- R296. Stores 8 bytes of g[D]. -/
  | std (d a : BitVec 5) (g : BitVec 3) (x : BitVec 1) (o : BitVec 10)
  /-- R299. Loads 64 bytes into a vector register. -/
  | vld (d : BitVec 4) (a : BitVec 5) (g : BitVec 3) (x : BitVec 1) (o : BitVec 10)
  /-- R299. Stores 64 bytes of a vector register. -/
  | vst (d : BitVec 4) (a : BitVec 5) (g : BitVec 3) (x : BitVec 1) (o : BitVec 10)
  /-- R301. Decodes 16 narrow codes under their block scale into 16 FP32 lanes. -/
  | ldn (d : BitVec 4) (a : BitVec 5) (g : BitVec 3) (x : BitVec 1) (p : BitVec 2) (o : BitVec 10)
  /-- R301. Encodes 16 FP32 lanes into narrow codes under their block scale. -/
  | stn (d : BitVec 4) (a : BitVec 5) (g : BitVec 3) (x : BitVec 1) (p : BitVec 2) (o : BitVec 10)
  /-- R306. Atomic fetch-and-add. -/
  | aadd (d a b : BitVec 5) (w : BitVec 1) (g : BitVec 3)
  /-- R306. Atomic fetch-and-AND. -/
  | aand (d a b : BitVec 5) (w : BitVec 1) (g : BitVec 3)
  /-- R306. Atomic fetch-and-OR. -/
  | aor (d a b : BitVec 5) (w : BitVec 1) (g : BitVec 3)
  /-- R306. Atomic fetch-and-XOR. -/
  | axor (d a b : BitVec 5) (w : BitVec 1) (g : BitVec 3)
  /-- R306. Atomic signed fetch-and-max. -/
  | amax (d a b : BitVec 5) (w : BitVec 1) (g : BitVec 3)
  /-- R306. Atomic signed fetch-and-min. -/
  | amin (d a b : BitVec 5) (w : BitVec 1) (g : BitVec 3)
  /-- R306. Atomic unsigned fetch-and-max. -/
  | amaxu (d a b : BitVec 5) (w : BitVec 1) (g : BitVec 3)
  /-- R306. Atomic unsigned fetch-and-min. -/
  | aminu (d a b : BitVec 5) (w : BitVec 1) (g : BitVec 3)
  /-- R306. Atomic swap. -/
  | aswap (d a b : BitVec 5) (w : BitVec 1) (g : BitVec 3)
  /-- R307. Atomic compare-and-swap. -/
  | acas (d a b : BitVec 5) (w : BitVec 1) (g : BitVec 3)
  /-- R310. Load-reserved at the word's home after migration. -/
  | lr (d a : BitVec 5) (w : BitVec 1) (g : BitVec 3)
  /-- R310. Store-conditional at the word's home, writing 0 on success and 1 on failure. -/
  | sc (d a b : BitVec 5) (w : BitVec 1) (g : BitVec 3)
  /-- R308. Atomic FP32 fetch-and-add. -/
  | aaddf (d a b : BitVec 5) (g : BitVec 3)
  /-- R312. Sends a remote add as a type 0x04 update. -/
  | nadd (a b : BitVec 5) (w : BitVec 1) (g : BitVec 3)
  /-- R312. Sends a remote FP32 add. -/
  | naddf (a b : BitVec 5) (g : BitVec 3)
  /-- R312. Sends a remote signed max. -/
  | nmax (a b : BitVec 5) (w : BitVec 1) (g : BitVec 3)
  /-- R312. Sends a remote signed min. -/
  | nmin (a b : BitVec 5) (w : BitVec 1) (g : BitVec 3)
  /-- R325. Lane-wise add. -/
  | vadd (d a b q : BitVec 4)
  /-- R325. Lane-wise subtract. -/
  | vsub (d a b q : BitVec 4)
  /-- R325. Lane-wise multiply. -/
  | vmul (d a b q : BitVec 4)
  /-- R325. Lane-wise fused multiply-add. -/
  | vfma (d a b q : BitVec 4)
  /-- R325. Lane-wise fused multiply-subtract. -/
  | vfms (d a b q : BitVec 4)
  /-- R325. Lane-wise minimum. -/
  | vmin (d a b q : BitVec 4)
  /-- R325. Lane-wise maximum. -/
  | vmax (d a b q : BitVec 4)
  /-- R325. Lane-wise absolute value. -/
  | vabs (d a q : BitVec 4)
  /-- R325. Lane-wise negation. -/
  | vneg (d a q : BitVec 4)
  /-- R326. Lane-wise reciprocal rounded once. -/
  | vrcp (d a : BitVec 4) (q : BitVec 1)
  /-- R326. Lane-wise reciprocal square root rounded once. -/
  | vrsq (d a : BitVec 4) (q : BitVec 1)
  /-- R326. Lane-wise 2^a rounded once. -/
  | vex2 (d a : BitVec 4) (q : BitVec 1)
  /-- R326. Lane-wise log2 rounded once. -/
  | vlg2 (d a : BitVec 4) (q : BitVec 1)
  /-- R327. Writes a three-way relation per lane. -/
  | vcmp (d a b q : BitVec 4)
  /-- R327. Selects a or b per lane by the sign of d. -/
  | vsel (d a b q : BitVec 4)
  /-- R325. Lane-wise AND. -/
  | vand (d a b q : BitVec 4)
  /-- R325. Lane-wise OR. -/
  | vor (d a b q : BitVec 4)
  /-- R325. Lane-wise XOR. -/
  | vxor (d a b q : BitVec 4)
  /-- R325. Lane-wise shift left. -/
  | vshl (d a b q : BitVec 4)
  /-- R325. Lane-wise arithmetic shift right. -/
  | vshr (d a b q : BitVec 4)
  /-- R328. Broadcasts a general value to every lane. -/
  | vbcast (d : BitVec 4) (a : BitVec 5) (q : BitVec 4)
  /-- R328. Extracts one lane into a general register. -/
  | vext (d : BitVec 5) (a : BitVec 4) (b : BitVec 5) (q : BitVec 4)
  /-- R328. Inserts a general value into one lane. -/
  | vins (d : BitVec 4) (a b : BitVec 5) (q : BitVec 4)
  /-- R328. Permutes lanes by index lanes. -/
  | vshuf (d a b q : BitVec 4)
  /-- R328. Rotates lanes by b. -/
  | vrot (d a : BitVec 4) (b : BitVec 5) (q : BitVec 4)
  /-- R329. Sums lanes under the fixed tree. -/
  | vred (d : BitVec 5) (a : BitVec 4) (b : BitVec 5) (q : BitVec 4)
  /-- R329. Maximum over lanes under the fixed tree. -/
  | vrmax (d : BitVec 5) (a : BitVec 4) (b : BitVec 5) (q : BitVec 4)
  /-- R329. Minimum over lanes under the fixed tree. -/
  | vrmin (d : BitVec 5) (a : BitVec 4) (b : BitVec 5) (q : BitVec 4)
  /-- R329. Dot product of two vectors under the fixed tree. -/
  | vdot (d : BitVec 5) (a b q : BitVec 4)
  /-- R330. Converts lanes of a source type and part into lane type Q. -/
  | vcvt (d a : BitVec 4) (b : BitVec 5) (q : BitVec 4)
  /-- R331. Writes inclusive serial prefixes of the lanes. -/
  | vscan (d a q : BitVec 4)
  /-- R333. Writes a tile shape word after checking it. -/
  | mshape (d : BitVec 4) (a : BitVec 5)
  /-- R333. Reads a tile shape word into g[D]. -/
  | mshget (d : BitVec 5) (a : BitVec 4)
  /-- R337. Zeroes every byte of a tile. -/
  | mzero (d : BitVec 4)
  /-- R334. Loads a tile row by row at a stride, with scales for a narrow tile. -/
  | mld (d : BitVec 4) (a b : BitVec 5) (g : BitVec 3)
  /-- R334. Loads a tile transposed. -/
  | mldt (d : BitVec 4) (a b : BitVec 5) (g : BitVec 3)
  /-- R334. Stores a tile row by row at a stride. -/
  | mst (d : BitVec 4) (a b : BitVec 5) (g : BitVec 3)
  /-- R337. Copies 64 bytes of a tile row into a vector register. -/
  | mrowv (d a : BitVec 4) (b : BitVec 5)
  /-- R337. Copies a vector register into 64 bytes of a tile row. -/
  | mvrow (d a : BitVec 4) (b : BitVec 5)
  /-- R338. Converts each tile element into the destination format, rounding once. -/
  | mcvt (d a : BitVec 4)
  /-- R341. Asks for leave and opens an exact accumulation chain on a tile. -/
  | chb (d : BitVec 4)
  /-- R341. Closes the chain, rounds the accumulator once into the tile and ends the leave. -/
  | che (d : BitVec 4)
  /-- R340. D += A × Bᵀ, exact and rounded once. -/
  | mma (d a b : BitVec 4)
  /-- R340. D ← A × Bᵀ summed from −0. -/
  | mmaz (d a b : BitVec 4)
  /-- R340. D += A × B with B stored K × N. -/
  | mmat (d a b : BitVec 4)
  /-- R345. Element-wise add, multiply, max or min of two tiles. -/
  | mew (d a b : BitVec 4) (q : BitVec 2)
  /-- R345. Reduces each tile column over its rows into a vector. -/
  | mred (d a : BitVec 4) (b : BitVec 5) (q : BitVec 2)
  /-- R346. Counts differing bits of two vectors. -/
  | ham (d : BitVec 5) (a b : BitVec 4)
  /-- R347. Counts differing bits between each tile row and a vector. -/
  | hamt (d a b : BitVec 4)
  /-- R348. Merges INT16 distance candidates into a top-k list. -/
  | topki (d a : BitVec 4) (b : BitVec 5)
  /-- R348. Merges another top-k list into a top-k list. -/
  | topkr (d a : BitVec 4)
  /-- R346. Writes an empty top-k list. -/
  | topkz (d : BitVec 4)
  /-- R347. Keeps lanes whose mask bit is set and fills the rest with all ones. -/
  | bmf (d a : BitVec 4) (b : BitVec 5) (q : BitVec 4)
  /-- R349. Exact inner product rounded once. -/
  | dip (d : BitVec 5) (a b : BitVec 4) (q : BitVec 1)
  /-- R349. Exact cosine similarity rounded once. -/
  | dcos (d : BitVec 5) (a b : BitVec 4) (q : BitVec 1)
  /-- R349. Exact squared Euclidean distance rounded once. -/
  | dl2 (d : BitVec 5) (a b : BitVec 4) (q : BitVec 1)
  /-- R17. PCIe conventional or fundamental reset clears every core, engine, partition and meter, discards keys, zeroes LTC and cyc, and the boot ROM waits for a firmware image. -/
  | moduleReset
  /-- R17. The boot ROM on bench core 0 loads a firmware image from the host or the bench boot loader and records its digest as measurement 1. Given: `bytes` the image. -/
  | firmwareImageLoad
  /-- R20. A layer passes self-test, its governor starts granting, its LAYERUP bit sets and it runs at 400 MHz with FP32 and BF16 only. Given: `unit` the layer. -/
  | layerJoin
  /-- R20. A unit fails self-test, FAIL sets in MSTAT and the module stays in reduced service until the next module reset. -/
  | selfTestFail
  /-- R20. When all layers, HBM5, eDRAM and the Col are ready, every layer and bench core steps to 800 MHz and FULL sets. -/
  | fullService
  /-- R16. A layer reaching 95 °C makes its governor defer every new request with REASON 2. Given: `unit` the layer. -/
  | thermalLimit
  /-- R16. Any die reaching 105 °C stops every clock within 1 µs, signals a fatal error to the host and loses all partition state. -/
  | thermalShutdown
  /-- R11. A governor receives a request for leave and answers within 1,600 cycles with a grant or a deferral, charging totals and counting deferrals in GOVST. Given: `unit` the layer. -/
  | governorRequest
  /-- R11. As budget frees, the oldest deferred request is granted and its thread, copy command or answer proceeds. Given: `unit` the layer. -/
  | deferredGrant
  /-- R382. A granted LEAVE or engine 2 leave reaches the end of DUR × 256 cycles and its charge is subtracted from the granted totals. Given: `unit` the layer. -/
  | leaveExpiry
  /-- R419. A write of a layer ceiling is applied unless it exceeds 2,400 units or takes the 32-layer sum above 60,000 units. Given: `unit` the layer, `val` the value written. -/
  | pwrceilWrite
  /-- R26. A write to a kerf map entry is held pending until the next kerf 0, replacing any earlier pending value. Given: `unit` the tower, `sub` the kerf number, `val` the value written. -/
  | kmapWrite
  /-- R27. At kerf 0 the pending kerf map writes are judged and take effect, except those that would strand a non-empty transmit queue. Given: `unit` the tower. -/
  | kmapApply
  /-- R29. A Col write enters its pair's transmit queue when an entry frees, and counts as performed. Given: `unit` the tower. -/
  | colWriteAccept
  /-- R31. At each kerf a pair owns, the head of its transmit queue is broadcast on the Col. Given: `unit` the tower. -/
  | kerfTransmit
  /-- R32. An awake listening die applies the write of a kerf to its mirror copy within 4 kerfs, in kerf order. Given: `unit` the tower, `sub` the die. -/
  | colApply
  /-- R420. Writing a SLEEP bit of 1 asks a layer to sleep once it is idle. Given: `unit` the tower, `val` the layers named. -/
  | lsleepSleep
  /-- R420. Writing a SLEEP bit of 0 asks a sleeping layer to wake at the next frame boundary. Given: `unit` the tower, `val` the layers named. -/
  | lsleepWake
  /-- R420. A layer whose SLEEP bit is 1 enters sleep at the first frame boundary at which its slots, queues, units and transmit queues are idle. Given: `unit` the layer. -/
  | layerSleep
  /-- R420. A sleeping layer wakes at a frame boundary after its SLEEP bit is cleared or an item arrives for it, and starts catch-up replay or stale handling. Given: `unit` the layer. -/
  | layerWake
  /-- R37. A waking die empties its catch-up buffer into its copy and its cores resume. Given: `unit` the layer. -/
  | colReplayDone
  /-- R40. A write to COLRLD starts a reload of each named stale and awake layer, clearing its fresh map. Given: `unit` the tower, `val` the value written. -/
  | colrldWrite
  /-- R40. A reload completes, clears STALE and RELOAD and sends a second type 0x09 message with g2 = 1. Given: `unit` the layer. -/
  | colReloadDone
  /-- R52. A header arriving at a Dovetail switch output combines with a queued request under R51 or enters the queue, and arbitration passes one header per output. Given: `unit` the network, `sub` the stage, `third` the switch. -/
  | switchHeaderArrival
  /-- R53. A reply reaching a switch with a wait-buffer entry frees it and returns V to the first member and V op v0 to the second. Given: `unit` the entry. -/
  | replySplit
  /-- R226. A home queue performs the next operation on its word in arrival order, rejecting it if its lease expiry has passed. Given: `home` and, of a scratchpad, `sub` the bank; `bad` whether the read is uncorrectable. -/
  | homeQueuePerform
  /-- R225. A reply or acknowledgement reaches the requester's port, fills or releases the thread and returns the permit. Given: `unit` the request, `remote` what an outside home returns. -/
  | accessReply
  /-- R64. A Byand flit failing its CRC is retransmitted from the replay buffer and RETRY counts. Given: `unit` the port. -/
  | flitRetransmit
  /-- R71. A remote packet arriving at a Byand ingress is admitted to a matching partition or refused with BYREFUSE. Given: `unit` the port, `pkt`. -/
  | byandIngress
  /-- R72. A request arriving at a Byand switch output combines with a queued request or is queued and forwarded. Given: `unit` the output, `hdr`. -/
  | byandSwitchHeader
  /-- R74. A remote request with no reply within the timeout completes with BYLOST. Given: `unit` the request. -/
  | byandTimeout
  /-- R75. A Byand link going down sets DOWN, raises the module interrupt and loses packets already sent. Given: `unit` the port. -/
  | linkDown
  /-- R75. A Byand link returning lets waiting requests for its port go out. Given: `unit` the port. -/
  | linkReturn
  /-- R67. The first write to BYID sets the module number and SET; later writes are ignored. Given: `val` the value written. -/
  | byidWrite
  /-- R73. A non-master module receives a time beacon and steers its LTC toward the master's, never backward. Given: `offset`. -/
  | timeBeacon
  /-- R73. The time master sends a beacon through Byand every 1 µs. -/
  | beaconSend
  /-- R73. Missing beacons for 64 µs sets SKEW in BYTIME. -/
  | beaconLoss
  /-- R216. Every 1 µs a translation unit compares its LTC copy with the reference and on a skew fault expires its leases and sets TSTAT. Given: `unit` the layer, `offset`. -/
  | translationPulse
  /-- R76. A host request outside both BARs or a configuration request to another function completes as Unsupported Request. -/
  | hostUnsupportedRequest
  /-- R77. A host access through BAR2 reaches local physical memory at APBASE plus the offset under the system key, unmetered. Given: `write` whether it stores, `addr` the offset, `size` its bytes, `val` the value stored, or `bytes` those of a store of more than 8. -/
  | apertureAccess
  /-- R80. The SPDM responder answers GET_VERSION with version 1.3. -/
  | getVersion
  /-- R80. The SPDM responder reports CERT, CHAL and MEAS capabilities. -/
  | getCapabilities
  /-- R80. The SPDM responder selects ECDSA P-384, SHA-384 and the DMTF measurement specification. -/
  | negotiateAlgorithms
  /-- R80. The SPDM responder returns the digest of the certificate chain in slot 0. -/
  | getDigests
  /-- R80. The SPDM responder returns the certificate chain of slot 0. -/
  | getCertificate
  /-- R80. The SPDM responder returns CHALLENGE_AUTH signed with the device identity key. Given: `nonce`. -/
  | challenge
  /-- R81. The SPDM responder returns the signed measurement blocks, sampling every meter snapshot in one cycle. Given: `unit` the block number, `nonce`. -/
  | getMeasurements
  /-- R80. Any other SPDM request receives ERROR with UnsupportedRequest. -/
  | spdmUnsupported
  /-- R82. A bench core load or store is decoded to local memory, host memory or device registers under its BENCHTAG tag. Given: `unit` the bench, `write` whether it stores, `addr` the address, `size` its bytes, `val` the value stored. -/
  | benchAccess
  /-- R87. A write to PART(p) is applied in full or ignored with PERR, HOSTIRQ always applied, and an accepted enabling bumps EPOCH, zeroes meters and draws keys. Given: `unit` the partition, `val` the value written. -/
  | partWrite
  /-- R101. PCMD CMD 1 starts a reset of the partition: threads stop, traffic drains, queues, slices and scratchpads clear. Given: `unit` the partition. -/
  | partitionReset
  /-- R102. PCMD CMD 2 performs a reset, then takes the closing snapshot, freezes meters, discards keys and clears EN. Given: `unit` the partition. -/
  | partitionTeardown
  /-- R101. A reset or teardown completes within 4,096 cycles, clearing BUSY, setting DONE and raising line 3. Given: `unit` the partition. -/
  | partitionResetDone
  /-- R104. An 8-byte write to LQPUSH appends a block address to the launch queue, or is discarded with LQDROP when full. Given: `unit` the partition, `val` the value written. -/
  | lqpushWrite
  /-- R110. The launch engine takes the oldest launch queue entry, reads and checks the block, header and segment table, and activates the launch or posts a failing record. Given: `unit` the partition. -/
  | launchTake
  /-- R115. The launch engine places the next work packet or whole gang into the task queue when it has room. Given: `unit` the partition. -/
  | workPacketPlace
  /-- R112. When the last work unit ends, the engine posts the completion record to the queue and/or sends the completion message. Given: `unit` the partition. -/
  | launchComplete
  /-- R114. A completion record held for a full completion queue is placed once room frees, and the engine resumes taking launches. Given: `unit` the partition. -/
  | completionPlace
  /-- R113. An 8-byte read of CQPOP removes and returns the head completion record, or 0xFF when empty. Given: `unit` the partition. -/
  | cqpopRead
  /-- R119. A write to a group table entry is applied unless it targets an active entry, exceeds 16 fuzzy entries or is malformed, in which case GERR sets. Given: `unit` the partition, `sub` the group, `val` the value written. -/
  | gtabWrite
  /-- R125. The task queue offers its head entry to layer distributors in cyclic order, which place it on the least loaded core with ready-queue room. Given: `unit` the partition. -/
  | taskQueueOffer
  /-- R124. A waiting entry completes a full AGE period and gains one level of effective priority, up to 3. Given: `site`. -/
  | agePeriod
  /-- R128. Once GANG slots are reserved, every gang member is written into its slot in the same cycle. Given: `unit` the partition. -/
  | gangPlace
  /-- R129. A gang not placed within 4,096 cycles releases its reservations and returns to the head of its priority. Given: `unit` the partition. -/
  | gangTimeout
  /-- R126. At a free slot's home turn, the head of the highest non-empty ready queue starts or begins restoring if class, granules and slot fit. Given: `unit` the core, `sub` the slot. -/
  | readyQueueStart
  /-- R130. At each cyc multiple of 1,024 a core starts a hand-over of the lowest-priority expired resident context when its ready-queue head cannot start. Given: `unit` the core. -/
  | handoverCheck
  /-- R131. A slot of an outgoing context leaves the rotation at its home turn once nothing is outstanding, and the spill engine writes its record. Given: `unit` the core, `sub` the slot. -/
  | slotLeave
  /-- R131. The spill engine finishes writing a record and frees the slot and its granules. Given: `unit` the core, `sub` the slot. -/
  | spillDone
  /-- R127. A restore finishes placing a thread's state in its slot, performing any region restart, and it issues at its next home turn. Given: `unit` the core, `sub` the slot. -/
  | restoreDone
  /-- R137. Writing PARK = 1 hands over every context of the partition on every core and places nothing more. Given: `unit` the partition. -/
  | pschedPark
  /-- R138. Writing PARK = 0 restores every record at core offset (o + SHIFT) mod LEN as hand-over entries. Given: `unit` the partition. -/
  | pschedRestore
  /-- R137. A write changing SHIFT is accepted only while PARKED = 1 and below LEN, else ignored with PERR. Given: `unit` the partition, `val` the value written. -/
  | pschedShift
  /-- R123. A write to CTXBASE is ignored while any record of the context awaits restore or a hand-over or park is in progress. Given: `unit` the partition, `sub` the context, `val` the value written. -/
  | ctxbaseWrite
  /-- R139. Every 1,024 cycles a core whose LOAD exceeds the IDLE core's by 4 packs one eligible thread into a type 0x01 message to it. Given: `unit` the core. -/
  | balanceCheck
  /-- R142. A detected soft error restarts the thread's open region, or outside a region zeroes the register and stops the thread with CAUSE 0x0D. Given: `unit` the core, `hit`. -/
  | softError
  /-- R150. A slice with fewer than 4,096 tokens inserts an arriving token with its next arrival stamp and acknowledges the emitter. Given: `unit` the partition, `sub` the slice. -/
  | tokenInsert
  /-- R151. An arrival that has waited 65,536 RUNNING cycles at a full slice stops the run with cause 1. Given: `unit` the partition, `sub` the slice. -/
  | sliceWaitTimeout
  /-- R160. A slice sweeps the valid rules from ρ, picking enabled groups within its grant, logging, holding and enqueueing them, then advances ρ. Given: `unit` the partition, `sub` the slice. -/
  | mortisePass
  /-- R157. The head of a slice's fire queue is sent as a fire message to the least loaded core with a valid entry and free slot, or stops the run with cause 3. Given: `unit` the partition, `sub` the slice. -/
  | fireSend
  /-- R165. A detection wave starts within 256 cycles of RUNNING or 256 cycles after the previous wave and samples every reporter. Given: `unit` the partition. -/
  | detectionWaveStart
  /-- R166. A completed wave's sums decide stability or replay divergence against the previous wave. Given: `unit` the partition. -/
  | detectionWaveComplete
  /-- R177. An instruction reached inside a guard window with GCOND 0 retires without issue, advancing PC and decrementing GCNT. Given: `unit` the core, `sub` the slot. -/
  | annulledRetire
  /-- R182. A type 0x02 fill message is checked against tid and allocation and writes its register full, or is discarded. Given: `unit` the message. -/
  | registerFill
  /-- R190. A core accepts a message of a vector-table type, reads its entry and makes it a ready-queue entry, or discards it under R191. Given: `unit` the message. -/
  | messageAccept
  /-- R192. A type 0x01 message of a migrating or balanced thread becomes a ready-queue entry at the target core. Given: `unit` the message. -/
  | migrationArrival
  /-- R221. A type 0x03 page wake reissues the held access named by TOKEN; a dropped thread re-enters the rotation. Given: `unit` the message. -/
  | pageWake
  /-- R312. An update port applies an arriving type 0x04 N-form as one indivisible step at the word's home. Given: `unit` the message. -/
  | remoteUpdate
  /-- R187. The VMU takes the head of the next non-empty dispatch queue round-robin into its start stage. Given: `unit` the quad. -/
  | vmuStart
  /-- R350. A VMU operation writes its result and sets the destination full, completing an MMA form. Given: `unit` the quad. -/
  | vmuResult
  /-- R227. The oldest near-buffer entry is written to its banks through the loop-back port when they are free. Given: `unit` the core. -/
  | nearBufferDrain
  /-- R208. The refreshing eDRAM bank group advances to the next group at the end of each 1,024-cycle window. Given: `unit` the layer. -/
  | edramRefreshWindow
  /-- R196. An instruction-buffer line read through sg0 arrives and the waiting thread returns to the rotation. Given: `unit` the core, `sub` the slot, `bad` whether the read is uncorrectable. -/
  | ifetchLineFill
  /-- R220. A fault waiting at a full fault queue enqueues its record when room frees. Given: `unit` the partition. -/
  | faultRecordEnqueue
  /-- R220. An 8-byte read of FQ1 returns word 1 of the head fault record and removes it. Given: `unit` the partition. -/
  | fq1Read
  /-- R221. A write to PWAKE sends a type 0x03 page wake to the core or channel core named by the record word. Given: `unit` the partition, `val` the value written. -/
  | pwakeWrite
  /-- R207. Writing LOAD = 1 enables eDRAM stores and stops launches, ignored with PERR while launches are active. Given: `unit` the partition. -/
  | edctlLoad
  /-- R218. On eviction or within 1 µs of expiry an LLT entry adds its hotness counter into the shadow word by AADD. Given: `unit` the layer, `sub` the entry. -/
  | hotnessFlush
  /-- R235. A reservation is cleared 1,024 cycles after its LR. Given: `unit` the core, `sub` the slot. -/
  | reservationExpiry
  /-- R378. A copy unit takes the next command from its FIFO, marks its tag busy and starts moving pieces. Given: `unit` the cluster. -/
  | copyCommandStart
  /-- R378. A copy command's last piece is performed or a piece fails, and its tag sets in tagr. Given: `unit` the cluster. -/
  | copyComplete
  /-- R316. A barrier phase releases once every member has arrived or ended, resuming its parked waiters. Given: `unit` the partition, `sub` the launch, `third` the group. -/
  | barrierRelease
  /-- R416. An 8-byte write to a device control register that has no row of its own writes its fields. Given: `addr` the offset, `val` the value written. -/
  | registerWrite
  /-- R266. A thread reaches a word that is a reserved encoding and takes the precise illegal-instruction trap. Given: the word is the issue cycle's (`Cur.word`). -/
  | reservedEncoding
  /-- R16. A layer's temperature falls back below 95 °C and its governor stops deferring new requests with REASON 2. Given: `unit` the layer. -/
  | thermalLimitCleared
  /-- R21. All HBM5 channels finish training, HBMRDY sets in MSTAT and the module interrupt rises. -/
  | hbm5TrainingDone
  /-- R21. eDRAM of every layer is calibrated, EDRDY sets, rfwin RUN becomes 1 and space 0x2 accesses stop faulting. -/
  | edramCalibrationDone
  /-- R21. The Col of every tower becomes ready, COLRDY sets in MSTAT and the module interrupt rises. -/
  | colReady
  /-- R78. The host writes the configuration space of function 0, for example changing Bus Master Enable, which gates every request to host memory. Given: `write` the new Bus Master Enable. -/
  | configurationWrite
  /-- R140. Every 16 cycles the loadq register takes new LOAD and IDLE values for the cluster. Given: `unit` the cluster. -/
  | loadqUpdate
  deriving DecidableEq, Repr

end Sys2Proof
end

