-- ==== Sys2Proof/Config.lean ====
section
/-! DEFINITION. What one module fixes and the values that the manual leaves open. An `opaque` constant has no body:
nothing can be proved of its value, so a statement that holds of it holds for every value (log entries 5 to 10). -/

namespace Sys2Proof.Config

/-- SHA-384 (R81). The manual names the function and not its definition. -/
opaque sha384 : List Byte → BitVec 384

/-- Boot ROM version, a raw 4-byte value (R81). -/
opaque bootRomVersion : BitVec 32

/-- The certificate chain of slot 0 (R80). -/
opaque certificateChain : List Byte

/-- An ECDSA P-384 signature by the device identity key over a transcript; `n` tells signatures apart (R80, R81). -/
opaque signature : (n : Nat) → List Byte → BitVec 768

/-- A nonce that the responder draws (R80); `n` tells draws apart. -/
opaque nonce : (n : Nat) → BitVec 256

/-- What a 64-byte SRAM-layer line written under key `k` (plus one; zero: never written) reads as under key `r`
(R90, R92, R93); `line` is its local physical address divided by 64. -/
opaque wrongKey : (k r line : Nat) → Vec → Vec

/-- The governor's estimate of the cycles until a grant, in units of 16 (R14); `n` tells estimates apart. -/
opaque waitEstimate : (n : Nat) → BitVec 16

/-- What host memory answers to a read that a unit makes at once, where the environment has fixed nothing (R311, R417); `n`
tells answers apart. -/
opaque outside : (n : Nat) → List Byte

end Sys2Proof.Config
end

