-- ==== Sys2Proof/WellFormed.lean ====
section
/-! DEFINITION. Which terms of `Instr` are steps the manual has: for a Wiltik instruction, that its operand
fields are not reserved (R256-R265); and whether the units an event is given exist (R5-R8). -/

namespace Sys2Proof

/-- Why a word or a term is refused. -/
inductive Reject where
  /-- OP 0x05-0x07, 0x22-0x27 or 0x2D-0x3F (R263). -/
  | reservedOpcode
  /-- FN above the last one listed (R264). -/
  | reservedFunction
  /-- A Q, SZ or CC value that the instruction does not list (R257, R259, R260, R261). -/
  | reservedQualifier
  /-- A reserved field that is not zero (R257, R258). -/
  | reservedField
  /-- A vector, tile or shape field with bit 4 set (R256). -/
  | shortFile
  /-- SK = 0 in a compare (R259). -/
  | guardCount
  /-- D = `g0` in a linking jump: the word is the jump without link (R262). -/
  | linkZero
  /-- Fewer than four bytes. -/
  | truncated
  deriving DecidableEq, Repr

/-- Guarded choice used by the checks. -/
def Reject.unless (c : Bool) (r : Reject) : Option Reject := if c then none else some r

/-- Compute cores 0-32,767; channel cores from 0x8000, 64 a tower (R7, R8, R66). -/
def isCore (c : Nat) : Bool := c < 32768 || (32768 ≤ c && c < 33024)

/-- Lane types 0-4 (R257). -/
def laneQ (q : BitVec 4) : Bool := q.toNat < 5
/-- Integer lane types 2-4 (R325, R346). -/
def intQ (q : BitVec 4) : Bool := 2 ≤ q.toNat && q.toNat < 5

/-- Immediate compares: under BS and BC the immediate is a bit number (R259). -/
def bitNumberOk (c : BitVec 3) (i : BitVec 16) (bits : Nat) : Bool := c.toNat < 6 || i.toNat < bits

/-- The check of R265 on an instruction's operand fields; `none` when it passes. -/
def Instr.illFormed : Instr → Option Reject
  | .cmp s .. | .cmpw s .. | .cmpf s .. => Reject.unless (s != 0) .guardCount
  | .cmpi s c _ i => if s == 0 then some .guardCount else Reject.unless (bitNumberOk c i 64) .reservedField
  | .cmpiw s c _ i => if s == 0 then some .guardCount else Reject.unless (bitNumberOk c i 32) .reservedField
  | .jl d _ | .jlr d _ _ => Reject.unless (d != 0) .linkZero
  | .sext _ _ q | .zext _ _ q => Reject.unless (q != 3) .reservedQualifier
  | .fill d _ _ q =>
    if q != 0 && q != 1 && q != 3 then some .reservedQualifier else Reject.unless (q != 1 || d.toNat < 16) .shortFile
  | .epop _ q | .epeek _ q => Reject.unless (q.toNat < 3) .reservedQualifier
  | .wres d q =>
    if q.toNat ≥ 4 then some .reservedQualifier
    else if q == 1 || q == 2 then Reject.unless (d.toNat < 16) .shortFile
    else Reject.unless (q != 3 || d.toNat < 8) .reservedField
  | .vadd _ _ _ q | .vsub _ _ _ q | .vmul _ _ _ q | .vfma _ _ _ q | .vfms _ _ _ q | .vmin _ _ _ q | .vmax _ _ _ q
  | .vcmp _ _ _ q | .vsel _ _ _ q | .vshuf _ _ _ q | .vdot _ _ _ q => Reject.unless (laneQ q) .reservedQualifier
  | .vabs _ _ q | .vneg _ _ q | .vscan _ _ q | .vbcast _ _ q => Reject.unless (laneQ q) .reservedQualifier
  | .vext _ _ _ q | .vred _ _ _ q | .vrmax _ _ _ q | .vrmin _ _ _ q | .vins _ _ _ q | .vrot _ _ _ q | .vcvt _ _ _ q =>
    Reject.unless (laneQ q) .reservedQualifier
  | .vand _ _ _ q | .vor _ _ _ q | .vxor _ _ _ q | .vshl _ _ _ q | .vshr _ _ _ q | .bmf _ _ _ q =>
    Reject.unless (intQ q) .reservedQualifier
  | .mred _ _ _ q => Reject.unless (q != 3) .reservedQualifier
  | _ => none

def Instr.wellFormed (i : Instr) : Bool := i.illFormed.isNone

/-- Whether the units that an event is given exist (R5-R8); a Wiltik instruction is given none. -/
def Instr.unitsExist (i : Instr) (e : Env) : Bool :=
  let u := e.unit
  match i with
  | .layerJoin | .thermalLimit | .thermalLimitCleared | .governorRequest | .deferredGrant | .leaveExpiry | .layerSleep
  | .layerWake | .colReplayDone | .colReloadDone | .edramRefreshWindow | .pwrceilWrite | .translationPulse | .hotnessFlush => u < 32
  | .kmapWrite => u < 4 && e.sub < 64
  | .kmapApply | .colWriteAccept | .kerfTransmit | .lsleepSleep | .lsleepWake | .colrldWrite => u < 4
  | .colApply => u < 4 && e.sub < 9
  | .switchHeaderArrival =>
    (u < 32 && e.sub < 11 && e.third < 1024) || (32 ≤ u && u < 36 && e.sub < 13 && e.third < 4096)
  | .flitRetransmit | .linkDown | .linkReturn | .byandIngress => u < 64
  | .benchAccess => u < 16 && (e.size == 1 || e.size == 2 || e.size == 4 || e.size == 8)
  | .apertureAccess => 1 ≤ e.size && e.size ≤ 64
  | .partWrite | .lqpushWrite | .pschedShift | .pwakeWrite | .partitionReset | .partitionTeardown | .partitionResetDone
  | .launchTake | .workPacketPlace | .launchComplete | .completionPlace | .cqpopRead | .taskQueueOffer | .gangPlace | .gangTimeout
  | .pschedPark | .pschedRestore | .detectionWaveStart | .detectionWaveComplete | .faultRecordEnqueue | .fq1Read | .edctlLoad =>
    u < 64
  | .gtabWrite => u < 64 && e.sub < 256
  | .ctxbaseWrite => u < 64 && e.sub < 4
  | .tokenInsert | .sliceWaitTimeout | .mortisePass | .fireSend => u < 64 && e.sub < 4096
  | .barrierRelease => u < 64 && e.third < 256
  | .readyQueueStart | .slotLeave | .spillDone | .restoreDone | .annulledRetire | .ifetchLineFill | .reservationExpiry =>
    isCore u && e.sub < 16
  | .handoverCheck | .balanceCheck | .nearBufferDrain | .softError => isCore u
  | .vmuStart | .vmuResult => u < 8192
  | .copyCommandStart | .copyComplete | .loadqUpdate => u < 4096
  | _ => true

end Sys2Proof
end

