-- ==== Sys2Proof/Decode.lean ====
section
/-! DEFINITION. Wiltik decoding and encoding (R255-R266): a total decoder on any word and any bytes, which refuses
by name, and the encoder written from the same encoding tables. -/

namespace Sys2Proof

/-- Bits [lo + n − 1 : lo] of a word (R3). -/
def fld (w : IWord) (lo n : Nat) : BitVec n := w.extractLsb' lo n

def ok (i : Instr) : Except Reject Instr := .ok i

/-- A check that must hold for the word to be an instruction. -/
def need (c : Bool) (r : Reject) (rest : Except Reject Instr) : Except Reject Instr := if c then rest else .error r

/-- SYS, OP 0x00 (R263). -/
def decodeSys (w : IWord) : Except Reject Instr :=
  match (fld w 4 7).toNat with
  | 0 => need (fld w 11 15 == 0) .reservedField <| need (fld w 0 4 == 0) .reservedQualifier <| ok .nop
  | 1 => need (fld w 11 15 == 0) .reservedField <| ok (.trap (fld w 0 4))
  | 2 =>
    match (fld w 0 4).toNat with
    | 0 => need (fld w 11 5 == 0) .reservedField <| ok (.eretRetry (fld w 21 5) (fld w 16 5))
    | 1 => need (fld w 11 5 == 0) .reservedField <| ok (.eretSkip (fld w 21 5) (fld w 16 5))
    | 2 => need (fld w 11 5 == 0) .reservedField <| ok (.eretEnd (fld w 21 5) (fld w 16 5))
    | _ => .error .reservedQualifier
  | 3 => need (fld w 11 15 == 0) .reservedField <| need (fld w 0 4 == 0) .reservedQualifier <| ok .ifence
  | 4 => need (fld w 21 5 == 0) .reservedField <| need (fld w 11 5 == 0) .reservedField <| need (fld w 0 4 == 0) .reservedQualifier <| ok (.idem (fld w 16 5))
  | 5 => need (fld w 11 15 == 0) .reservedField <| need (fld w 0 4 == 0) .reservedQualifier <| ok .idend
  | 6 => need (fld w 11 15 == 0) .reservedField <| need (fld w 0 4 == 0) .reservedQualifier <| ok .yield
  | 7 => need (fld w 11 15 == 0) .reservedField <| need (fld w 0 4 == 0) .reservedQualifier <| ok .halt
  | 8 => need (fld w 20 1 == 0) .shortFile <| need (fld w 11 5 == 0) .reservedField <| need (fld w 0 4 == 0) .reservedQualifier <| ok (.rdctl (fld w 21 5) (fld w 16 4))
  | 9 => need (fld w 20 6 == 0) .reservedField <| need (fld w 0 4 == 0) .reservedQualifier <| ok (.wrctl (fld w 16 4) (fld w 11 5))
  | 10 => need (fld w 11 10 == 0) .reservedField <| need (fld w 0 4 == 0) .reservedQualifier <| ok (.rdlt (fld w 21 5))
  | 11 => need (fld w 11 10 == 0) .reservedField <| need (fld w 3 1 == 0) .reservedQualifier <| ok (.rdcnt (fld w 21 5) (fld w 0 3))
  | 12 => need (fld w 11 10 == 0) .reservedField <| need (fld w 3 1 == 0) .reservedQualifier <| ok (.rdseg (fld w 21 5) (fld w 0 3))
  | 13 => need (fld w 21 5 == 0) .reservedField <| need (fld w 11 5 == 0) .reservedField <| need (fld w 3 1 == 0) .reservedQualifier <| ok (.wrseg (fld w 16 5) (fld w 0 3))
  | _ => .error .reservedFunction

/-- MSG, OP 0x01 (R263). -/
def decodeMsg (w : IWord) : Except Reject Instr :=
  match (fld w 4 7).toNat with
  | 0 => need (fld w 0 4 == 0) .reservedQualifier <| ok (.send (fld w 21 5) (fld w 16 5) (fld w 11 5))
  | 1 => ok (.fill (fld w 21 5) (fld w 16 5) (fld w 11 5) (fld w 0 4))
  | 2 => need (fld w 21 5 == 0) .reservedField <| need (fld w 11 5 == 0) .reservedField <| need (fld w 0 4 == 0) .reservedQualifier <| ok (.go (fld w 16 5))
  | 3 => need (fld w 0 4 == 0) .reservedQualifier <| ok (.spawn (fld w 21 5) (fld w 16 5) (fld w 11 5))
  | 4 => need (fld w 0 4 == 0) .reservedQualifier <| ok (.spawnd (fld w 21 5) (fld w 16 5) (fld w 11 5))
  | 5 => need (fld w 11 15 == 0) .reservedField <| need (fld w 0 4 == 0) .reservedQualifier <| ok .join
  | 6 => need (fld w 11 15 == 0) .reservedField <| need (fld w 0 4 == 0) .reservedQualifier <| ok .exit
  | 7 => need (fld w 21 5 == 0) .reservedField <| need (fld w 0 4 == 0) .reservedQualifier <| ok (.setvec (fld w 16 5) (fld w 11 5))
  | 8 => need (fld w 11 5 == 0) .reservedField <| need (fld w 0 4 == 0) .reservedQualifier <| ok (.getvec (fld w 21 5) (fld w 16 5))
  | 9 => need (fld w 11 10 == 0) .reservedField <| need (fld w 0 4 == 0) .reservedQualifier <| ok (.loadq (fld w 21 5))
  | _ => .error .reservedFunction

/-- ENG, OP 0x02 (R263). -/
def decodeEng (w : IWord) : Except Reject Instr :=
  match (fld w 4 7).toNat with
  | 0 =>
    match (fld w 0 4).toNat with
    | 0 => need (fld w 20 6 == 0) .reservedField <| need (fld w 11 5 == 0) .reservedField <| ok (.epushCopy (fld w 16 4))
    | 1 => need (fld w 20 6 == 0) .reservedField <| need (fld w 11 5 == 0) .reservedField <| ok (.epushLaunch (fld w 16 4))
    | 2 => need (fld w 20 6 == 0) .reservedField <| need (fld w 11 5 == 0) .reservedField <| ok (.epushGov (fld w 16 4))
    | _ => .error .reservedQualifier
  | 1 => need (fld w 11 10 == 0) .reservedField <| ok (.epop (fld w 21 5) (fld w 0 4))
  | 2 => need (fld w 11 10 == 0) .reservedField <| ok (.epeek (fld w 21 5) (fld w 0 4))
  | 3 => need (fld w 11 5 == 0) .reservedField <| need (fld w 0 4 == 0) .reservedQualifier <| ok (.tagwany (fld w 21 5) (fld w 16 5))
  | 4 => need (fld w 11 5 == 0) .reservedField <| need (fld w 0 4 == 0) .reservedQualifier <| ok (.tagwall (fld w 21 5) (fld w 16 5))
  | 5 => need (fld w 11 5 == 0) .reservedField <| need (fld w 0 4 == 0) .reservedQualifier <| ok (.tagff (fld w 21 5) (fld w 16 5))
  | 6 => need (fld w 21 5 == 0) .reservedField <| need (fld w 11 5 == 0) .reservedField <| need (fld w 0 4 == 0) .reservedQualifier <| ok (.tagclr (fld w 16 5))
  | 7 => need (fld w 21 5 == 0) .reservedField <| need (fld w 11 5 == 0) .reservedField <| need (fld w 3 1 == 0) .reservedQualifier <| ok (.lease (fld w 16 5) (fld w 0 3))
  | 8 => need (fld w 11 5 == 0) .reservedField <| need (fld w 0 4 == 0) .reservedQualifier <| ok (.leave (fld w 21 5) (fld w 16 5))
  | _ => .error .reservedFunction

/-- RXN, OP 0x03 (R263). -/
def decodeRxn (w : IWord) : Except Reject Instr :=
  match (fld w 4 7).toNat with
  | 0 => need (fld w 20 6 == 0) .reservedField <| need (fld w 11 5 == 0) .reservedField <| need (fld w 0 4 == 0) .reservedQualifier <| ok (.temit (fld w 16 4))
  | 1 => need (fld w 20 6 == 0) .reservedField <| need (fld w 0 4 == 0) .reservedQualifier <| ok (.temiti (fld w 16 4) (fld w 11 5))
  | 2 => need (fld w 25 1 == 0) .shortFile <| need (fld w 0 4 == 0) .reservedQualifier <| ok (.tgrab (fld w 21 4) (fld w 16 5) (fld w 11 5))
  | 3 => need (fld w 25 1 == 0) .shortFile <| need (fld w 0 4 == 0) .reservedQualifier <| ok (.tpeek (fld w 21 4) (fld w 16 5) (fld w 11 5))
  | 4 => need (fld w 21 5 == 0) .reservedField <| need (fld w 15 1 == 0) .shortFile <| need (fld w 0 4 == 0) .reservedQualifier <| ok (.rulew (fld w 16 5) (fld w 11 4))
  | 5 => need (fld w 11 5 == 0) .reservedField <| need (fld w 0 4 == 0) .reservedQualifier <| ok (.rrun (fld w 21 5) (fld w 16 5))
  | 6 => need (fld w 11 15 == 0) .reservedField <| need (fld w 0 4 == 0) .reservedQualifier <| ok .rhalt
  | 7 => need (fld w 11 5 == 0) .reservedField <| need (fld w 0 4 == 0) .reservedQualifier <| ok (.rstat (fld w 21 5) (fld w 16 5))
  | 8 => need (fld w 21 5 == 0) .reservedField <| need (fld w 11 5 == 0) .reservedField <| need (fld w 0 4 == 0) .reservedQualifier <| ok (.rbudg (fld w 16 5))
  | 9 => need (fld w 21 5 == 0) .reservedField <| need (fld w 0 4 == 0) .reservedQualifier <| ok (.rlogm (fld w 16 5) (fld w 11 5))
  | 10 => need (fld w 11 10 == 0) .reservedField <| need (fld w 0 4 == 0) .reservedQualifier <| ok (.stabw (fld w 21 5))
  | 11 => need (fld w 11 10 == 0) .reservedField <| need (fld w 0 4 == 0) .reservedQualifier <| ok (.stabq (fld w 21 5))
  | _ => .error .reservedFunction

/-- SYNC, OP 0x04 (R263). -/
def decodeSync (w : IWord) : Except Reject Instr :=
  match (fld w 4 7).toNat with
  | 0 => need (fld w 21 5 == 0) .reservedField <| need (fld w 11 5 == 0) .reservedField <| need (fld w 0 4 == 0) .reservedQualifier <| ok (.bara (fld w 16 5))
  | 1 => need (fld w 21 5 == 0) .reservedField <| need (fld w 11 5 == 0) .reservedField <| need (fld w 0 4 == 0) .reservedQualifier <| ok (.barw (fld w 16 5))
  | 2 => need (fld w 21 5 == 0) .reservedField <| need (fld w 11 5 == 0) .reservedField <| need (fld w 0 4 == 0) .reservedQualifier <| ok (.bar (fld w 16 5))
  | 3 => need (fld w 21 5 == 0) .reservedField <| need (fld w 11 5 == 0) .reservedField <| need (fld w 0 4 == 0) .reservedQualifier <| ok (.fza (fld w 16 5))
  | 4 => need (fld w 21 5 == 0) .reservedField <| need (fld w 11 5 == 0) .reservedField <| need (fld w 0 4 == 0) .reservedQualifier <| ok (.fzw (fld w 16 5))
  | 5 =>
    match (fld w 0 4).toNat with
    | 0 => need (fld w 11 15 == 0) .reservedField <| ok .fenceRx
    | 1 => need (fld w 11 15 == 0) .reservedField <| ok .fenceLb
    | 2 => need (fld w 11 15 == 0) .reservedField <| ok .fenceSys
    | _ => .error .reservedQualifier
  | 6 => need (fld w 11 15 == 0) .reservedField <| need (fld w 0 4 == 0) .reservedQualifier <| ok .cfence
  | 7 => need (fld w 11 10 == 0) .reservedField <| ok (.wres (fld w 21 5) (fld w 0 4))
  | _ => .error .reservedFunction

/-- ALU, OP 0x08 (R263). -/
def decodeAlu (w : IWord) : Except Reject Instr :=
  match (fld w 4 7).toNat with
  | 0 => need (fld w 0 4 == 0) .reservedQualifier <| ok (.add (fld w 21 5) (fld w 16 5) (fld w 11 5))
  | 1 => need (fld w 0 4 == 0) .reservedQualifier <| ok (.sub (fld w 21 5) (fld w 16 5) (fld w 11 5))
  | 2 => need (fld w 0 4 == 0) .reservedQualifier <| ok (.and (fld w 21 5) (fld w 16 5) (fld w 11 5))
  | 3 => need (fld w 0 4 == 0) .reservedQualifier <| ok (.or (fld w 21 5) (fld w 16 5) (fld w 11 5))
  | 4 => need (fld w 0 4 == 0) .reservedQualifier <| ok (.xor (fld w 21 5) (fld w 16 5) (fld w 11 5))
  | 5 => need (fld w 0 4 == 0) .reservedQualifier <| ok (.andn (fld w 21 5) (fld w 16 5) (fld w 11 5))
  | 6 => need (fld w 0 4 == 0) .reservedQualifier <| ok (.orn (fld w 21 5) (fld w 16 5) (fld w 11 5))
  | 7 => need (fld w 0 4 == 0) .reservedQualifier <| ok (.xnor (fld w 21 5) (fld w 16 5) (fld w 11 5))
  | 8 => need (fld w 0 4 == 0) .reservedQualifier <| ok (.sll (fld w 21 5) (fld w 16 5) (fld w 11 5))
  | 9 => need (fld w 0 4 == 0) .reservedQualifier <| ok (.srl (fld w 21 5) (fld w 16 5) (fld w 11 5))
  | 10 => need (fld w 0 4 == 0) .reservedQualifier <| ok (.sra (fld w 21 5) (fld w 16 5) (fld w 11 5))
  | 11 => need (fld w 0 4 == 0) .reservedQualifier <| ok (.rol (fld w 21 5) (fld w 16 5) (fld w 11 5))
  | 12 => need (fld w 0 4 == 0) .reservedQualifier <| ok (.ror (fld w 21 5) (fld w 16 5) (fld w 11 5))
  | 13 => need (fld w 0 4 == 0) .reservedQualifier <| ok (.min (fld w 21 5) (fld w 16 5) (fld w 11 5))
  | 14 => need (fld w 0 4 == 0) .reservedQualifier <| ok (.max (fld w 21 5) (fld w 16 5) (fld w 11 5))
  | 15 => need (fld w 0 4 == 0) .reservedQualifier <| ok (.minu (fld w 21 5) (fld w 16 5) (fld w 11 5))
  | 16 => need (fld w 0 4 == 0) .reservedQualifier <| ok (.maxu (fld w 21 5) (fld w 16 5) (fld w 11 5))
  | 17 => need (fld w 0 4 == 0) .reservedQualifier <| ok (.addw (fld w 21 5) (fld w 16 5) (fld w 11 5))
  | 18 => need (fld w 0 4 == 0) .reservedQualifier <| ok (.subw (fld w 21 5) (fld w 16 5) (fld w 11 5))
  | 19 => need (fld w 0 4 == 0) .reservedQualifier <| ok (.slt (fld w 21 5) (fld w 16 5) (fld w 11 5))
  | 20 => need (fld w 0 4 == 0) .reservedQualifier <| ok (.sltu (fld w 21 5) (fld w 16 5) (fld w 11 5))
  | _ => .error .reservedFunction

/-- MULDIV, OP 0x09 (R263). -/
def decodeMuldiv (w : IWord) : Except Reject Instr :=
  match (fld w 4 7).toNat with
  | 0 => need (fld w 0 4 == 0) .reservedQualifier <| ok (.mul (fld w 21 5) (fld w 16 5) (fld w 11 5))
  | 1 => need (fld w 0 4 == 0) .reservedQualifier <| ok (.mulh (fld w 21 5) (fld w 16 5) (fld w 11 5))
  | 2 => need (fld w 0 4 == 0) .reservedQualifier <| ok (.mulhu (fld w 21 5) (fld w 16 5) (fld w 11 5))
  | 3 => need (fld w 0 4 == 0) .reservedQualifier <| ok (.mulw (fld w 21 5) (fld w 16 5) (fld w 11 5))
  | 4 => need (fld w 0 4 == 0) .reservedQualifier <| ok (.mad (fld w 21 5) (fld w 16 5) (fld w 11 5))
  | 5 => need (fld w 0 4 == 0) .reservedQualifier <| ok (.div (fld w 21 5) (fld w 16 5) (fld w 11 5))
  | 6 => need (fld w 0 4 == 0) .reservedQualifier <| ok (.divu (fld w 21 5) (fld w 16 5) (fld w 11 5))
  | 7 => need (fld w 0 4 == 0) .reservedQualifier <| ok (.rem (fld w 21 5) (fld w 16 5) (fld w 11 5))
  | 8 => need (fld w 0 4 == 0) .reservedQualifier <| ok (.remu (fld w 21 5) (fld w 16 5) (fld w 11 5))
  | _ => .error .reservedFunction

/-- BIT, OP 0x0A (R263). -/
def decodeBit (w : IWord) : Except Reject Instr :=
  match (fld w 4 7).toNat with
  | 0 => need (fld w 11 5 == 0) .reservedField <| need (fld w 0 4 == 0) .reservedQualifier <| ok (.popc (fld w 21 5) (fld w 16 5))
  | 1 => need (fld w 11 5 == 0) .reservedField <| need (fld w 0 4 == 0) .reservedQualifier <| ok (.clz (fld w 21 5) (fld w 16 5))
  | 2 => need (fld w 11 5 == 0) .reservedField <| need (fld w 0 4 == 0) .reservedQualifier <| ok (.ctz (fld w 21 5) (fld w 16 5))
  | 3 => need (fld w 11 5 == 0) .reservedField <| need (fld w 0 4 == 0) .reservedQualifier <| ok (.brev (fld w 21 5) (fld w 16 5))
  | 4 => need (fld w 11 5 == 0) .reservedField <| need (fld w 0 4 == 0) .reservedQualifier <| ok (.bswap (fld w 21 5) (fld w 16 5))
  | 5 => need (fld w 0 4 == 0) .reservedQualifier <| ok (.bext (fld w 21 5) (fld w 16 5) (fld w 11 5))
  | 6 => need (fld w 0 4 == 0) .reservedQualifier <| ok (.bins (fld w 21 5) (fld w 16 5) (fld w 11 5))
  | 7 => need (fld w 11 5 == 0) .reservedField <| need (fld w 2 2 == 0) .reservedQualifier <| ok (.sext (fld w 21 5) (fld w 16 5) (fld w 0 2))
  | 8 => need (fld w 11 5 == 0) .reservedField <| need (fld w 2 2 == 0) .reservedQualifier <| ok (.zext (fld w 21 5) (fld w 16 5) (fld w 0 2))
  | 9 => need (fld w 11 5 == 0) .reservedField <| need (fld w 0 4 == 0) .reservedQualifier <| ok (.phash (fld w 21 5) (fld w 16 5))
  | 10 => need (fld w 0 4 == 0) .reservedQualifier <| ok (.rndk (fld w 21 5) (fld w 16 5) (fld w 11 5))
  | _ => .error .reservedFunction

/-- CMP, OP 0x15 (R263). -/
def decodeCmp (w : IWord) : Except Reject Instr :=
  match (fld w 4 7).toNat with
  | 0 => need (fld w 0 4 == 0) .reservedQualifier <| ok (.cmp (fld w 24 2) (fld w 21 3) (fld w 16 5) (fld w 11 5))
  | 1 => need (fld w 0 4 == 0) .reservedQualifier <| ok (.cmpw (fld w 24 2) (fld w 21 3) (fld w 16 5) (fld w 11 5))
  | 2 => need (fld w 23 1 == 0) .reservedQualifier <| need (fld w 1 3 == 0) .reservedQualifier <| ok (.cmpf (fld w 24 2) (fld w 21 2) (fld w 16 5) (fld w 11 5) (fld w 0 1))
  | _ => .error .reservedFunction

/-- AMO, OP 0x21 (R263). -/
def decodeAmo (w : IWord) : Except Reject Instr :=
  match (fld w 4 7).toNat with
  | 0 => ok (.aadd (fld w 21 5) (fld w 16 5) (fld w 11 5) (fld w 3 1) (fld w 0 3))
  | 1 => ok (.aand (fld w 21 5) (fld w 16 5) (fld w 11 5) (fld w 3 1) (fld w 0 3))
  | 2 => ok (.aor (fld w 21 5) (fld w 16 5) (fld w 11 5) (fld w 3 1) (fld w 0 3))
  | 3 => ok (.axor (fld w 21 5) (fld w 16 5) (fld w 11 5) (fld w 3 1) (fld w 0 3))
  | 4 => ok (.amax (fld w 21 5) (fld w 16 5) (fld w 11 5) (fld w 3 1) (fld w 0 3))
  | 5 => ok (.amin (fld w 21 5) (fld w 16 5) (fld w 11 5) (fld w 3 1) (fld w 0 3))
  | 6 => ok (.amaxu (fld w 21 5) (fld w 16 5) (fld w 11 5) (fld w 3 1) (fld w 0 3))
  | 7 => ok (.aminu (fld w 21 5) (fld w 16 5) (fld w 11 5) (fld w 3 1) (fld w 0 3))
  | 8 => ok (.aswap (fld w 21 5) (fld w 16 5) (fld w 11 5) (fld w 3 1) (fld w 0 3))
  | 9 => ok (.acas (fld w 21 5) (fld w 16 5) (fld w 11 5) (fld w 3 1) (fld w 0 3))
  | 10 => need (fld w 11 5 == 0) .reservedField <| ok (.lr (fld w 21 5) (fld w 16 5) (fld w 3 1) (fld w 0 3))
  | 11 => ok (.sc (fld w 21 5) (fld w 16 5) (fld w 11 5) (fld w 3 1) (fld w 0 3))
  | 12 => need (fld w 3 1 == 0) .reservedQualifier <| ok (.aaddf (fld w 21 5) (fld w 16 5) (fld w 11 5) (fld w 0 3))
  | 13 => need (fld w 21 5 == 0) .reservedField <| ok (.nadd (fld w 16 5) (fld w 11 5) (fld w 3 1) (fld w 0 3))
  | 14 => need (fld w 21 5 == 0) .reservedField <| need (fld w 3 1 == 0) .reservedQualifier <| ok (.naddf (fld w 16 5) (fld w 11 5) (fld w 0 3))
  | 15 => need (fld w 21 5 == 0) .reservedField <| ok (.nmax (fld w 16 5) (fld w 11 5) (fld w 3 1) (fld w 0 3))
  | 16 => need (fld w 21 5 == 0) .reservedField <| ok (.nmin (fld w 16 5) (fld w 11 5) (fld w 3 1) (fld w 0 3))
  | _ => .error .reservedFunction

/-- VALU, OP 0x28 (R263). -/
def decodeValu (w : IWord) : Except Reject Instr :=
  match (fld w 4 7).toNat with
  | 0 => need (fld w 25 1 == 0) .shortFile <| need (fld w 20 1 == 0) .shortFile <| need (fld w 15 1 == 0) .shortFile <| ok (.vadd (fld w 21 4) (fld w 16 4) (fld w 11 4) (fld w 0 4))
  | 1 => need (fld w 25 1 == 0) .shortFile <| need (fld w 20 1 == 0) .shortFile <| need (fld w 15 1 == 0) .shortFile <| ok (.vsub (fld w 21 4) (fld w 16 4) (fld w 11 4) (fld w 0 4))
  | 2 => need (fld w 25 1 == 0) .shortFile <| need (fld w 20 1 == 0) .shortFile <| need (fld w 15 1 == 0) .shortFile <| ok (.vmul (fld w 21 4) (fld w 16 4) (fld w 11 4) (fld w 0 4))
  | 3 => need (fld w 25 1 == 0) .shortFile <| need (fld w 20 1 == 0) .shortFile <| need (fld w 15 1 == 0) .shortFile <| ok (.vfma (fld w 21 4) (fld w 16 4) (fld w 11 4) (fld w 0 4))
  | 4 => need (fld w 25 1 == 0) .shortFile <| need (fld w 20 1 == 0) .shortFile <| need (fld w 15 1 == 0) .shortFile <| ok (.vfms (fld w 21 4) (fld w 16 4) (fld w 11 4) (fld w 0 4))
  | 5 => need (fld w 25 1 == 0) .shortFile <| need (fld w 20 1 == 0) .shortFile <| need (fld w 15 1 == 0) .shortFile <| ok (.vmin (fld w 21 4) (fld w 16 4) (fld w 11 4) (fld w 0 4))
  | 6 => need (fld w 25 1 == 0) .shortFile <| need (fld w 20 1 == 0) .shortFile <| need (fld w 15 1 == 0) .shortFile <| ok (.vmax (fld w 21 4) (fld w 16 4) (fld w 11 4) (fld w 0 4))
  | 7 => need (fld w 25 1 == 0) .shortFile <| need (fld w 20 1 == 0) .shortFile <| need (fld w 11 5 == 0) .reservedField <| ok (.vabs (fld w 21 4) (fld w 16 4) (fld w 0 4))
  | 8 => need (fld w 25 1 == 0) .shortFile <| need (fld w 20 1 == 0) .shortFile <| need (fld w 11 5 == 0) .reservedField <| ok (.vneg (fld w 21 4) (fld w 16 4) (fld w 0 4))
  | 9 => need (fld w 25 1 == 0) .shortFile <| need (fld w 20 1 == 0) .shortFile <| need (fld w 11 5 == 0) .reservedField <| need (fld w 1 3 == 0) .reservedQualifier <| ok (.vrcp (fld w 21 4) (fld w 16 4) (fld w 0 1))
  | 10 => need (fld w 25 1 == 0) .shortFile <| need (fld w 20 1 == 0) .shortFile <| need (fld w 11 5 == 0) .reservedField <| need (fld w 1 3 == 0) .reservedQualifier <| ok (.vrsq (fld w 21 4) (fld w 16 4) (fld w 0 1))
  | 11 => need (fld w 25 1 == 0) .shortFile <| need (fld w 20 1 == 0) .shortFile <| need (fld w 11 5 == 0) .reservedField <| need (fld w 1 3 == 0) .reservedQualifier <| ok (.vex2 (fld w 21 4) (fld w 16 4) (fld w 0 1))
  | 12 => need (fld w 25 1 == 0) .shortFile <| need (fld w 20 1 == 0) .shortFile <| need (fld w 11 5 == 0) .reservedField <| need (fld w 1 3 == 0) .reservedQualifier <| ok (.vlg2 (fld w 21 4) (fld w 16 4) (fld w 0 1))
  | 13 => need (fld w 25 1 == 0) .shortFile <| need (fld w 20 1 == 0) .shortFile <| need (fld w 15 1 == 0) .shortFile <| ok (.vcmp (fld w 21 4) (fld w 16 4) (fld w 11 4) (fld w 0 4))
  | 14 => need (fld w 25 1 == 0) .shortFile <| need (fld w 20 1 == 0) .shortFile <| need (fld w 15 1 == 0) .shortFile <| ok (.vsel (fld w 21 4) (fld w 16 4) (fld w 11 4) (fld w 0 4))
  | 15 => need (fld w 25 1 == 0) .shortFile <| need (fld w 20 1 == 0) .shortFile <| need (fld w 15 1 == 0) .shortFile <| ok (.vand (fld w 21 4) (fld w 16 4) (fld w 11 4) (fld w 0 4))
  | 16 => need (fld w 25 1 == 0) .shortFile <| need (fld w 20 1 == 0) .shortFile <| need (fld w 15 1 == 0) .shortFile <| ok (.vor (fld w 21 4) (fld w 16 4) (fld w 11 4) (fld w 0 4))
  | 17 => need (fld w 25 1 == 0) .shortFile <| need (fld w 20 1 == 0) .shortFile <| need (fld w 15 1 == 0) .shortFile <| ok (.vxor (fld w 21 4) (fld w 16 4) (fld w 11 4) (fld w 0 4))
  | 18 => need (fld w 25 1 == 0) .shortFile <| need (fld w 20 1 == 0) .shortFile <| need (fld w 15 1 == 0) .shortFile <| ok (.vshl (fld w 21 4) (fld w 16 4) (fld w 11 4) (fld w 0 4))
  | 19 => need (fld w 25 1 == 0) .shortFile <| need (fld w 20 1 == 0) .shortFile <| need (fld w 15 1 == 0) .shortFile <| ok (.vshr (fld w 21 4) (fld w 16 4) (fld w 11 4) (fld w 0 4))
  | _ => .error .reservedFunction

/-- VPERM, OP 0x29 (R263). -/
def decodeVperm (w : IWord) : Except Reject Instr :=
  match (fld w 4 7).toNat with
  | 0 => need (fld w 25 1 == 0) .shortFile <| need (fld w 11 5 == 0) .reservedField <| ok (.vbcast (fld w 21 4) (fld w 16 5) (fld w 0 4))
  | 1 => need (fld w 20 1 == 0) .shortFile <| ok (.vext (fld w 21 5) (fld w 16 4) (fld w 11 5) (fld w 0 4))
  | 2 => need (fld w 25 1 == 0) .shortFile <| ok (.vins (fld w 21 4) (fld w 16 5) (fld w 11 5) (fld w 0 4))
  | 3 => need (fld w 25 1 == 0) .shortFile <| need (fld w 20 1 == 0) .shortFile <| need (fld w 15 1 == 0) .shortFile <| ok (.vshuf (fld w 21 4) (fld w 16 4) (fld w 11 4) (fld w 0 4))
  | 4 => need (fld w 25 1 == 0) .shortFile <| need (fld w 20 1 == 0) .shortFile <| ok (.vrot (fld w 21 4) (fld w 16 4) (fld w 11 5) (fld w 0 4))
  | 5 => need (fld w 20 1 == 0) .shortFile <| ok (.vred (fld w 21 5) (fld w 16 4) (fld w 11 5) (fld w 0 4))
  | 6 => need (fld w 20 1 == 0) .shortFile <| ok (.vrmax (fld w 21 5) (fld w 16 4) (fld w 11 5) (fld w 0 4))
  | 7 => need (fld w 20 1 == 0) .shortFile <| ok (.vrmin (fld w 21 5) (fld w 16 4) (fld w 11 5) (fld w 0 4))
  | 8 => need (fld w 20 1 == 0) .shortFile <| need (fld w 15 1 == 0) .shortFile <| ok (.vdot (fld w 21 5) (fld w 16 4) (fld w 11 4) (fld w 0 4))
  | 9 => need (fld w 25 1 == 0) .shortFile <| need (fld w 20 1 == 0) .shortFile <| ok (.vcvt (fld w 21 4) (fld w 16 4) (fld w 11 5) (fld w 0 4))
  | 10 => need (fld w 25 1 == 0) .shortFile <| need (fld w 20 1 == 0) .shortFile <| need (fld w 11 5 == 0) .reservedField <| ok (.vscan (fld w 21 4) (fld w 16 4) (fld w 0 4))
  | _ => .error .reservedFunction

/-- TILE, OP 0x2A (R263). -/
def decodeTile (w : IWord) : Except Reject Instr :=
  match (fld w 4 7).toNat with
  | 0 => need (fld w 25 1 == 0) .shortFile <| need (fld w 11 5 == 0) .reservedField <| need (fld w 0 4 == 0) .reservedQualifier <| ok (.mshape (fld w 21 4) (fld w 16 5))
  | 1 => need (fld w 20 1 == 0) .shortFile <| need (fld w 11 5 == 0) .reservedField <| need (fld w 0 4 == 0) .reservedQualifier <| ok (.mshget (fld w 21 5) (fld w 16 4))
  | 2 => need (fld w 25 1 == 0) .shortFile <| need (fld w 11 10 == 0) .reservedField <| need (fld w 0 4 == 0) .reservedQualifier <| ok (.mzero (fld w 21 4))
  | 3 => need (fld w 25 1 == 0) .shortFile <| need (fld w 3 1 == 0) .reservedQualifier <| ok (.mld (fld w 21 4) (fld w 16 5) (fld w 11 5) (fld w 0 3))
  | 4 => need (fld w 25 1 == 0) .shortFile <| need (fld w 3 1 == 0) .reservedQualifier <| ok (.mldt (fld w 21 4) (fld w 16 5) (fld w 11 5) (fld w 0 3))
  | 5 => need (fld w 25 1 == 0) .shortFile <| need (fld w 3 1 == 0) .reservedQualifier <| ok (.mst (fld w 21 4) (fld w 16 5) (fld w 11 5) (fld w 0 3))
  | 6 => need (fld w 25 1 == 0) .shortFile <| need (fld w 20 1 == 0) .shortFile <| need (fld w 0 4 == 0) .reservedQualifier <| ok (.mrowv (fld w 21 4) (fld w 16 4) (fld w 11 5))
  | 7 => need (fld w 25 1 == 0) .shortFile <| need (fld w 20 1 == 0) .shortFile <| need (fld w 0 4 == 0) .reservedQualifier <| ok (.mvrow (fld w 21 4) (fld w 16 4) (fld w 11 5))
  | 8 => need (fld w 25 1 == 0) .shortFile <| need (fld w 20 1 == 0) .shortFile <| need (fld w 11 5 == 0) .reservedField <| need (fld w 0 4 == 0) .reservedQualifier <| ok (.mcvt (fld w 21 4) (fld w 16 4))
  | _ => .error .reservedFunction

/-- MMA, OP 0x2B (R263). -/
def decodeMma (w : IWord) : Except Reject Instr :=
  match (fld w 4 7).toNat with
  | 0 => need (fld w 25 1 == 0) .shortFile <| need (fld w 11 10 == 0) .reservedField <| need (fld w 0 4 == 0) .reservedQualifier <| ok (.chb (fld w 21 4))
  | 1 => need (fld w 25 1 == 0) .shortFile <| need (fld w 11 10 == 0) .reservedField <| need (fld w 0 4 == 0) .reservedQualifier <| ok (.che (fld w 21 4))
  | 2 => need (fld w 25 1 == 0) .shortFile <| need (fld w 20 1 == 0) .shortFile <| need (fld w 15 1 == 0) .shortFile <| need (fld w 0 4 == 0) .reservedQualifier <| ok (.mma (fld w 21 4) (fld w 16 4) (fld w 11 4))
  | 3 => need (fld w 25 1 == 0) .shortFile <| need (fld w 20 1 == 0) .shortFile <| need (fld w 15 1 == 0) .shortFile <| need (fld w 0 4 == 0) .reservedQualifier <| ok (.mmaz (fld w 21 4) (fld w 16 4) (fld w 11 4))
  | 4 => need (fld w 25 1 == 0) .shortFile <| need (fld w 20 1 == 0) .shortFile <| need (fld w 15 1 == 0) .shortFile <| need (fld w 0 4 == 0) .reservedQualifier <| ok (.mmat (fld w 21 4) (fld w 16 4) (fld w 11 4))
  | 5 => need (fld w 25 1 == 0) .shortFile <| need (fld w 20 1 == 0) .shortFile <| need (fld w 15 1 == 0) .shortFile <| need (fld w 2 2 == 0) .reservedQualifier <| ok (.mew (fld w 21 4) (fld w 16 4) (fld w 11 4) (fld w 0 2))
  | 6 => need (fld w 25 1 == 0) .shortFile <| need (fld w 20 1 == 0) .shortFile <| need (fld w 2 2 == 0) .reservedQualifier <| ok (.mred (fld w 21 4) (fld w 16 4) (fld w 11 5) (fld w 0 2))
  | _ => .error .reservedFunction

/-- SEARCH, OP 0x2C (R263). -/
def decodeSearch (w : IWord) : Except Reject Instr :=
  match (fld w 4 7).toNat with
  | 0 => need (fld w 20 1 == 0) .shortFile <| need (fld w 15 1 == 0) .shortFile <| need (fld w 0 4 == 0) .reservedQualifier <| ok (.ham (fld w 21 5) (fld w 16 4) (fld w 11 4))
  | 1 => need (fld w 25 1 == 0) .shortFile <| need (fld w 20 1 == 0) .shortFile <| need (fld w 15 1 == 0) .shortFile <| need (fld w 0 4 == 0) .reservedQualifier <| ok (.hamt (fld w 21 4) (fld w 16 4) (fld w 11 4))
  | 2 => need (fld w 25 1 == 0) .shortFile <| need (fld w 20 1 == 0) .shortFile <| need (fld w 0 4 == 0) .reservedQualifier <| ok (.topki (fld w 21 4) (fld w 16 4) (fld w 11 5))
  | 3 => need (fld w 25 1 == 0) .shortFile <| need (fld w 20 1 == 0) .shortFile <| need (fld w 11 5 == 0) .reservedField <| need (fld w 0 4 == 0) .reservedQualifier <| ok (.topkr (fld w 21 4) (fld w 16 4))
  | 4 => need (fld w 25 1 == 0) .shortFile <| need (fld w 11 10 == 0) .reservedField <| need (fld w 0 4 == 0) .reservedQualifier <| ok (.topkz (fld w 21 4))
  | 5 => need (fld w 25 1 == 0) .shortFile <| need (fld w 20 1 == 0) .shortFile <| ok (.bmf (fld w 21 4) (fld w 16 4) (fld w 11 5) (fld w 0 4))
  | 6 => need (fld w 20 1 == 0) .shortFile <| need (fld w 15 1 == 0) .shortFile <| need (fld w 1 3 == 0) .reservedQualifier <| ok (.dip (fld w 21 5) (fld w 16 4) (fld w 11 4) (fld w 0 1))
  | 7 => need (fld w 20 1 == 0) .shortFile <| need (fld w 15 1 == 0) .shortFile <| need (fld w 1 3 == 0) .reservedQualifier <| ok (.dcos (fld w 21 5) (fld w 16 4) (fld w 11 4) (fld w 0 1))
  | 8 => need (fld w 20 1 == 0) .shortFile <| need (fld w 15 1 == 0) .shortFile <| need (fld w 1 3 == 0) .reservedQualifier <| ok (.dl2 (fld w 21 5) (fld w 16 4) (fld w 11 4) (fld w 0 1))
  | _ => .error .reservedFunction

/-- The whole word: the opcode map of R263 and the check of R265 up to the operand values. -/
def decodeFields (w : IWord) : Except Reject Instr :=
  match (fld w 26 6).toNat with
  | 0 => decodeSys w
  | 1 => decodeMsg w
  | 2 => decodeEng w
  | 3 => decodeRxn w
  | 4 => decodeSync w
  | 8 => decodeAlu w
  | 9 => decodeMuldiv w
  | 10 => decodeBit w
  | 21 => decodeCmp w
  | 33 => decodeAmo w
  | 40 => decodeValu w
  | 41 => decodeVperm w
  | 42 => decodeTile w
  | 43 => decodeMma w
  | 44 => decodeSearch w
  | 11 => ok (.addi (fld w 21 5) (fld w 16 5) (fld w 0 16))
  | 12 => ok (.andi (fld w 21 5) (fld w 16 5) (fld w 0 16))
  | 13 => ok (.ori (fld w 21 5) (fld w 16 5) (fld w 0 16))
  | 14 => ok (.xori (fld w 21 5) (fld w 16 5) (fld w 0 16))
  | 15 => need (fld w 18 3 == 0) .reservedField <| ok (.lih (fld w 21 5) (fld w 16 2) (fld w 0 16))
  | 16 => need (fld w 11 5 == 0) .reservedField <| need (fld w 6 5 == 0) .reservedField <| ok (.slli (fld w 21 5) (fld w 16 5) (fld w 0 6))
  | 17 => need (fld w 11 5 == 0) .reservedField <| need (fld w 6 5 == 0) .reservedField <| ok (.srli (fld w 21 5) (fld w 16 5) (fld w 0 6))
  | 18 => need (fld w 11 5 == 0) .reservedField <| need (fld w 6 5 == 0) .reservedField <| ok (.srai (fld w 21 5) (fld w 16 5) (fld w 0 6))
  | 19 => ok (.slti (fld w 21 5) (fld w 16 5) (fld w 0 16))
  | 20 => ok (.sltiu (fld w 21 5) (fld w 16 5) (fld w 0 16))
  | 22 => ok (.cmpi (fld w 24 2) (fld w 21 3) (fld w 16 5) (fld w 0 16))
  | 23 => ok (.cmpiw (fld w 24 2) (fld w 21 3) (fld w 16 5) (fld w 0 16))
  | 24 => if fld w 21 5 == 0 then ok (.j (fld w 0 21)) else ok (.jl (fld w 21 5) (fld w 0 21))
  | 25 => if fld w 21 5 == 0 then ok (.jr (fld w 16 5) (fld w 0 16)) else ok (.jlr (fld w 21 5) (fld w 16 5) (fld w 0 16))
  | 26 =>
    match (fld w 10 2).toNat with
    | 0 => ok (.ldb (fld w 21 5) (fld w 16 5) (fld w 13 3) (fld w 12 1) (fld w 0 10))
    | 1 => ok (.ldh (fld w 21 5) (fld w 16 5) (fld w 13 3) (fld w 12 1) (fld w 0 10))
    | 2 => ok (.ldw (fld w 21 5) (fld w 16 5) (fld w 13 3) (fld w 12 1) (fld w 0 10))
    | _ => ok (.ldd (fld w 21 5) (fld w 16 5) (fld w 13 3) (fld w 12 1) (fld w 0 10))
  | 27 =>
    match (fld w 10 2).toNat with
    | 0 => ok (.ldbz (fld w 21 5) (fld w 16 5) (fld w 13 3) (fld w 12 1) (fld w 0 10))
    | 1 => ok (.ldhz (fld w 21 5) (fld w 16 5) (fld w 13 3) (fld w 12 1) (fld w 0 10))
    | 2 => ok (.ldwz (fld w 21 5) (fld w 16 5) (fld w 13 3) (fld w 12 1) (fld w 0 10))
    | _ => .error .reservedQualifier
  | 28 =>
    match (fld w 10 2).toNat with
    | 0 => ok (.stb (fld w 21 5) (fld w 16 5) (fld w 13 3) (fld w 12 1) (fld w 0 10))
    | 1 => ok (.sth (fld w 21 5) (fld w 16 5) (fld w 13 3) (fld w 12 1) (fld w 0 10))
    | 2 => ok (.stw (fld w 21 5) (fld w 16 5) (fld w 13 3) (fld w 12 1) (fld w 0 10))
    | _ => ok (.std (fld w 21 5) (fld w 16 5) (fld w 13 3) (fld w 12 1) (fld w 0 10))
  | 29 => need (fld w 25 1 == 0) .shortFile <| need (fld w 11 1 == 0) .reservedField <| need (fld w 10 1 == 0) .reservedField <| ok (.vld (fld w 21 4) (fld w 16 5) (fld w 13 3) (fld w 12 1) (fld w 0 10))
  | 30 => need (fld w 25 1 == 0) .shortFile <| need (fld w 11 1 == 0) .reservedField <| need (fld w 10 1 == 0) .reservedField <| ok (.vst (fld w 21 4) (fld w 16 5) (fld w 13 3) (fld w 12 1) (fld w 0 10))
  | 31 => need (fld w 25 1 == 0) .shortFile <| ok (.ldn (fld w 21 4) (fld w 16 5) (fld w 13 3) (fld w 12 1) (fld w 10 2) (fld w 0 10))
  | 32 => need (fld w 25 1 == 0) .shortFile <| ok (.stn (fld w 21 4) (fld w 16 5) (fld w 13 3) (fld w 12 1) (fld w 10 2) (fld w 0 10))
  | _ => .error .reservedOpcode

/-- CheckWord (R265): one instruction of the table, or the reason why the word is a reserved encoding. -/
def decodeWord (w : IWord) : Except Reject Instr :=
  match decodeFields w with
  | .error r => .error r
  | .ok i => match i.illFormed with
    | some r => .error r
    | none => .ok i

/-- A little-endian word from its four bytes (R255). -/
def wordOfBytes (b0 b1 b2 b3 : Byte) : IWord := b3 ++ b2 ++ b1 ++ b0

/-- Decoding from bytes: the instruction and the bytes that follow it. -/
def decodeBytes : List Byte → Except Reject (Instr × List Byte)
  | b0 :: b1 :: b2 :: b3 :: rest =>
    match decodeWord (wordOfBytes b0 b1 b2 b3) with
    | .ok i => .ok (i, rest)
    | .error r => .error r
  | _ => .error .truncated

/-- The bytes of a word, least significant first (R255). -/
def bytesOfWord (w : IWord) : List Byte := [fld w 0 8, fld w 8 8, fld w 16 8, fld w 24 8]

/-- The instruction that the decoder reads from a table word of `nbits` bits `w`, stored as the hardware stores it. -/
def decodeTableWord (nbits w : Nat) : Option Instr :=
  match decodeBytes (bytesOfWord (BitVec.ofNat 32 (w % 2 ^ nbits))) with
  | .ok (i, _) => some i
  | .error _ => none


/-- The word of an instruction, from the encoding tables (R255-R263, R281-R292, R313, R325-R346, R353); the events have none. -/
def encode : Instr → Option IWord
  | .nop => some (0#6 ++ 0#5 ++ 0#5 ++ 0#5 ++ 0#7 ++ 0#4)
  | .trap q => some (0#6 ++ 0#5 ++ 0#5 ++ 0#5 ++ 1#7 ++ q)
  | .eretRetry d a => some (0#6 ++ d ++ a ++ 0#5 ++ 2#7 ++ 0#4)
  | .eretSkip d a => some (0#6 ++ d ++ a ++ 0#5 ++ 2#7 ++ 1#4)
  | .eretEnd d a => some (0#6 ++ d ++ a ++ 0#5 ++ 2#7 ++ 2#4)
  | .ifence => some (0#6 ++ 0#5 ++ 0#5 ++ 0#5 ++ 3#7 ++ 0#4)
  | .idem a => some (0#6 ++ 0#5 ++ a ++ 0#5 ++ 4#7 ++ 0#4)
  | .idend => some (0#6 ++ 0#5 ++ 0#5 ++ 0#5 ++ 5#7 ++ 0#4)
  | .yield => some (0#6 ++ 0#5 ++ 0#5 ++ 0#5 ++ 6#7 ++ 0#4)
  | .halt => some (0#6 ++ 0#5 ++ 0#5 ++ 0#5 ++ 7#7 ++ 0#4)
  | .rdctl d s => some (0#6 ++ d ++ 0#1 ++ s ++ 0#5 ++ 8#7 ++ 0#4)
  | .wrctl s b => some (0#6 ++ 0#5 ++ 0#1 ++ s ++ b ++ 9#7 ++ 0#4)
  | .rdlt d => some (0#6 ++ d ++ 0#5 ++ 0#5 ++ 10#7 ++ 0#4)
  | .rdcnt d q => some (0#6 ++ d ++ 0#5 ++ 0#5 ++ 11#7 ++ 0#1 ++ q)
  | .rdseg d g => some (0#6 ++ d ++ 0#5 ++ 0#5 ++ 12#7 ++ 0#1 ++ g)
  | .wrseg a g => some (0#6 ++ 0#5 ++ a ++ 0#5 ++ 13#7 ++ 0#1 ++ g)
  | .send d a b => some (1#6 ++ d ++ a ++ b ++ 0#7 ++ 0#4)
  | .fill d a b q => some (1#6 ++ d ++ a ++ b ++ 1#7 ++ q)
  | .go a => some (1#6 ++ 0#5 ++ a ++ 0#5 ++ 2#7 ++ 0#4)
  | .spawn d a b => some (1#6 ++ d ++ a ++ b ++ 3#7 ++ 0#4)
  | .spawnd d a b => some (1#6 ++ d ++ a ++ b ++ 4#7 ++ 0#4)
  | .join => some (1#6 ++ 0#5 ++ 0#5 ++ 0#5 ++ 5#7 ++ 0#4)
  | .exit => some (1#6 ++ 0#5 ++ 0#5 ++ 0#5 ++ 6#7 ++ 0#4)
  | .setvec a b => some (1#6 ++ 0#5 ++ a ++ b ++ 7#7 ++ 0#4)
  | .getvec d a => some (1#6 ++ d ++ a ++ 0#5 ++ 8#7 ++ 0#4)
  | .loadq d => some (1#6 ++ d ++ 0#5 ++ 0#5 ++ 9#7 ++ 0#4)
  | .epushCopy a => some (2#6 ++ 0#5 ++ 0#1 ++ a ++ 0#5 ++ 0#7 ++ 0#4)
  | .epushLaunch a => some (2#6 ++ 0#5 ++ 0#1 ++ a ++ 0#5 ++ 0#7 ++ 1#4)
  | .epushGov a => some (2#6 ++ 0#5 ++ 0#1 ++ a ++ 0#5 ++ 0#7 ++ 2#4)
  | .epop d q => some (2#6 ++ d ++ 0#5 ++ 0#5 ++ 1#7 ++ q)
  | .epeek d q => some (2#6 ++ d ++ 0#5 ++ 0#5 ++ 2#7 ++ q)
  | .tagwany d a => some (2#6 ++ d ++ a ++ 0#5 ++ 3#7 ++ 0#4)
  | .tagwall d a => some (2#6 ++ d ++ a ++ 0#5 ++ 4#7 ++ 0#4)
  | .tagff d a => some (2#6 ++ d ++ a ++ 0#5 ++ 5#7 ++ 0#4)
  | .tagclr a => some (2#6 ++ 0#5 ++ a ++ 0#5 ++ 6#7 ++ 0#4)
  | .lease a g => some (2#6 ++ 0#5 ++ a ++ 0#5 ++ 7#7 ++ 0#1 ++ g)
  | .leave d a => some (2#6 ++ d ++ a ++ 0#5 ++ 8#7 ++ 0#4)
  | .temit a => some (3#6 ++ 0#5 ++ 0#1 ++ a ++ 0#5 ++ 0#7 ++ 0#4)
  | .temiti a b => some (3#6 ++ 0#5 ++ 0#1 ++ a ++ b ++ 1#7 ++ 0#4)
  | .tgrab d a b => some (3#6 ++ 0#1 ++ d ++ a ++ b ++ 2#7 ++ 0#4)
  | .tpeek d a b => some (3#6 ++ 0#1 ++ d ++ a ++ b ++ 3#7 ++ 0#4)
  | .rulew a b => some (3#6 ++ 0#5 ++ a ++ 0#1 ++ b ++ 4#7 ++ 0#4)
  | .rrun d a => some (3#6 ++ d ++ a ++ 0#5 ++ 5#7 ++ 0#4)
  | .rhalt => some (3#6 ++ 0#5 ++ 0#5 ++ 0#5 ++ 6#7 ++ 0#4)
  | .rstat d a => some (3#6 ++ d ++ a ++ 0#5 ++ 7#7 ++ 0#4)
  | .rbudg a => some (3#6 ++ 0#5 ++ a ++ 0#5 ++ 8#7 ++ 0#4)
  | .rlogm a b => some (3#6 ++ 0#5 ++ a ++ b ++ 9#7 ++ 0#4)
  | .stabw d => some (3#6 ++ d ++ 0#5 ++ 0#5 ++ 10#7 ++ 0#4)
  | .stabq d => some (3#6 ++ d ++ 0#5 ++ 0#5 ++ 11#7 ++ 0#4)
  | .bara a => some (4#6 ++ 0#5 ++ a ++ 0#5 ++ 0#7 ++ 0#4)
  | .barw a => some (4#6 ++ 0#5 ++ a ++ 0#5 ++ 1#7 ++ 0#4)
  | .bar a => some (4#6 ++ 0#5 ++ a ++ 0#5 ++ 2#7 ++ 0#4)
  | .fza a => some (4#6 ++ 0#5 ++ a ++ 0#5 ++ 3#7 ++ 0#4)
  | .fzw a => some (4#6 ++ 0#5 ++ a ++ 0#5 ++ 4#7 ++ 0#4)
  | .fenceRx => some (4#6 ++ 0#5 ++ 0#5 ++ 0#5 ++ 5#7 ++ 0#4)
  | .fenceLb => some (4#6 ++ 0#5 ++ 0#5 ++ 0#5 ++ 5#7 ++ 1#4)
  | .fenceSys => some (4#6 ++ 0#5 ++ 0#5 ++ 0#5 ++ 5#7 ++ 2#4)
  | .cfence => some (4#6 ++ 0#5 ++ 0#5 ++ 0#5 ++ 6#7 ++ 0#4)
  | .wres d q => some (4#6 ++ d ++ 0#5 ++ 0#5 ++ 7#7 ++ q)
  | .add d a b => some (8#6 ++ d ++ a ++ b ++ 0#7 ++ 0#4)
  | .sub d a b => some (8#6 ++ d ++ a ++ b ++ 1#7 ++ 0#4)
  | .and d a b => some (8#6 ++ d ++ a ++ b ++ 2#7 ++ 0#4)
  | .or d a b => some (8#6 ++ d ++ a ++ b ++ 3#7 ++ 0#4)
  | .xor d a b => some (8#6 ++ d ++ a ++ b ++ 4#7 ++ 0#4)
  | .andn d a b => some (8#6 ++ d ++ a ++ b ++ 5#7 ++ 0#4)
  | .orn d a b => some (8#6 ++ d ++ a ++ b ++ 6#7 ++ 0#4)
  | .xnor d a b => some (8#6 ++ d ++ a ++ b ++ 7#7 ++ 0#4)
  | .sll d a b => some (8#6 ++ d ++ a ++ b ++ 8#7 ++ 0#4)
  | .srl d a b => some (8#6 ++ d ++ a ++ b ++ 9#7 ++ 0#4)
  | .sra d a b => some (8#6 ++ d ++ a ++ b ++ 10#7 ++ 0#4)
  | .rol d a b => some (8#6 ++ d ++ a ++ b ++ 11#7 ++ 0#4)
  | .ror d a b => some (8#6 ++ d ++ a ++ b ++ 12#7 ++ 0#4)
  | .min d a b => some (8#6 ++ d ++ a ++ b ++ 13#7 ++ 0#4)
  | .max d a b => some (8#6 ++ d ++ a ++ b ++ 14#7 ++ 0#4)
  | .minu d a b => some (8#6 ++ d ++ a ++ b ++ 15#7 ++ 0#4)
  | .maxu d a b => some (8#6 ++ d ++ a ++ b ++ 16#7 ++ 0#4)
  | .addw d a b => some (8#6 ++ d ++ a ++ b ++ 17#7 ++ 0#4)
  | .subw d a b => some (8#6 ++ d ++ a ++ b ++ 18#7 ++ 0#4)
  | .slt d a b => some (8#6 ++ d ++ a ++ b ++ 19#7 ++ 0#4)
  | .sltu d a b => some (8#6 ++ d ++ a ++ b ++ 20#7 ++ 0#4)
  | .mul d a b => some (9#6 ++ d ++ a ++ b ++ 0#7 ++ 0#4)
  | .mulh d a b => some (9#6 ++ d ++ a ++ b ++ 1#7 ++ 0#4)
  | .mulhu d a b => some (9#6 ++ d ++ a ++ b ++ 2#7 ++ 0#4)
  | .mulw d a b => some (9#6 ++ d ++ a ++ b ++ 3#7 ++ 0#4)
  | .mad d a b => some (9#6 ++ d ++ a ++ b ++ 4#7 ++ 0#4)
  | .div d a b => some (9#6 ++ d ++ a ++ b ++ 5#7 ++ 0#4)
  | .divu d a b => some (9#6 ++ d ++ a ++ b ++ 6#7 ++ 0#4)
  | .rem d a b => some (9#6 ++ d ++ a ++ b ++ 7#7 ++ 0#4)
  | .remu d a b => some (9#6 ++ d ++ a ++ b ++ 8#7 ++ 0#4)
  | .popc d a => some (10#6 ++ d ++ a ++ 0#5 ++ 0#7 ++ 0#4)
  | .clz d a => some (10#6 ++ d ++ a ++ 0#5 ++ 1#7 ++ 0#4)
  | .ctz d a => some (10#6 ++ d ++ a ++ 0#5 ++ 2#7 ++ 0#4)
  | .brev d a => some (10#6 ++ d ++ a ++ 0#5 ++ 3#7 ++ 0#4)
  | .bswap d a => some (10#6 ++ d ++ a ++ 0#5 ++ 4#7 ++ 0#4)
  | .bext d a b => some (10#6 ++ d ++ a ++ b ++ 5#7 ++ 0#4)
  | .bins d a b => some (10#6 ++ d ++ a ++ b ++ 6#7 ++ 0#4)
  | .sext d a q => some (10#6 ++ d ++ a ++ 0#5 ++ 7#7 ++ 0#2 ++ q)
  | .zext d a q => some (10#6 ++ d ++ a ++ 0#5 ++ 8#7 ++ 0#2 ++ q)
  | .phash d a => some (10#6 ++ d ++ a ++ 0#5 ++ 9#7 ++ 0#4)
  | .rndk d a b => some (10#6 ++ d ++ a ++ b ++ 10#7 ++ 0#4)
  | .addi d a i => some (11#6 ++ d ++ a ++ i)
  | .andi d a i => some (12#6 ++ d ++ a ++ i)
  | .ori d a i => some (13#6 ++ d ++ a ++ i)
  | .xori d a i => some (14#6 ++ d ++ a ++ i)
  | .lih d k i => some (15#6 ++ d ++ 0#3 ++ k ++ i)
  | .slli d a n => some (16#6 ++ d ++ a ++ 0#5 ++ 0#5 ++ n)
  | .srli d a n => some (17#6 ++ d ++ a ++ 0#5 ++ 0#5 ++ n)
  | .srai d a n => some (18#6 ++ d ++ a ++ 0#5 ++ 0#5 ++ n)
  | .slti d a i => some (19#6 ++ d ++ a ++ i)
  | .sltiu d a i => some (20#6 ++ d ++ a ++ i)
  | .cmp s c a b => some (21#6 ++ s ++ c ++ a ++ b ++ 0#7 ++ 0#4)
  | .cmpw s c a b => some (21#6 ++ s ++ c ++ a ++ b ++ 1#7 ++ 0#4)
  | .cmpf s c a b q => some (21#6 ++ s ++ 0#1 ++ c ++ a ++ b ++ 2#7 ++ 0#3 ++ q)
  | .cmpi s c a i => some (22#6 ++ s ++ c ++ a ++ i)
  | .cmpiw s c a i => some (23#6 ++ s ++ c ++ a ++ i)
  | .j o => some (24#6 ++ 0#5 ++ o)
  | .jl d o => some (24#6 ++ d ++ o)
  | .jr a i => some (25#6 ++ 0#5 ++ a ++ i)
  | .jlr d a i => some (25#6 ++ d ++ a ++ i)
  | .ldb d a g x o => some (26#6 ++ d ++ a ++ g ++ x ++ 0#2 ++ o)
  | .ldh d a g x o => some (26#6 ++ d ++ a ++ g ++ x ++ 1#2 ++ o)
  | .ldw d a g x o => some (26#6 ++ d ++ a ++ g ++ x ++ 2#2 ++ o)
  | .ldd d a g x o => some (26#6 ++ d ++ a ++ g ++ x ++ 3#2 ++ o)
  | .ldbz d a g x o => some (27#6 ++ d ++ a ++ g ++ x ++ 0#2 ++ o)
  | .ldhz d a g x o => some (27#6 ++ d ++ a ++ g ++ x ++ 1#2 ++ o)
  | .ldwz d a g x o => some (27#6 ++ d ++ a ++ g ++ x ++ 2#2 ++ o)
  | .stb d a g x o => some (28#6 ++ d ++ a ++ g ++ x ++ 0#2 ++ o)
  | .sth d a g x o => some (28#6 ++ d ++ a ++ g ++ x ++ 1#2 ++ o)
  | .stw d a g x o => some (28#6 ++ d ++ a ++ g ++ x ++ 2#2 ++ o)
  | .std d a g x o => some (28#6 ++ d ++ a ++ g ++ x ++ 3#2 ++ o)
  | .vld d a g x o => some (29#6 ++ 0#1 ++ d ++ a ++ g ++ x ++ 0#2 ++ o)
  | .vst d a g x o => some (30#6 ++ 0#1 ++ d ++ a ++ g ++ x ++ 0#2 ++ o)
  | .ldn d a g x p o => some (31#6 ++ 0#1 ++ d ++ a ++ g ++ x ++ p ++ o)
  | .stn d a g x p o => some (32#6 ++ 0#1 ++ d ++ a ++ g ++ x ++ p ++ o)
  | .aadd d a b w g => some (33#6 ++ d ++ a ++ b ++ 0#7 ++ w ++ g)
  | .aand d a b w g => some (33#6 ++ d ++ a ++ b ++ 1#7 ++ w ++ g)
  | .aor d a b w g => some (33#6 ++ d ++ a ++ b ++ 2#7 ++ w ++ g)
  | .axor d a b w g => some (33#6 ++ d ++ a ++ b ++ 3#7 ++ w ++ g)
  | .amax d a b w g => some (33#6 ++ d ++ a ++ b ++ 4#7 ++ w ++ g)
  | .amin d a b w g => some (33#6 ++ d ++ a ++ b ++ 5#7 ++ w ++ g)
  | .amaxu d a b w g => some (33#6 ++ d ++ a ++ b ++ 6#7 ++ w ++ g)
  | .aminu d a b w g => some (33#6 ++ d ++ a ++ b ++ 7#7 ++ w ++ g)
  | .aswap d a b w g => some (33#6 ++ d ++ a ++ b ++ 8#7 ++ w ++ g)
  | .acas d a b w g => some (33#6 ++ d ++ a ++ b ++ 9#7 ++ w ++ g)
  | .lr d a w g => some (33#6 ++ d ++ a ++ 0#5 ++ 10#7 ++ w ++ g)
  | .sc d a b w g => some (33#6 ++ d ++ a ++ b ++ 11#7 ++ w ++ g)
  | .aaddf d a b g => some (33#6 ++ d ++ a ++ b ++ 12#7 ++ 0#1 ++ g)
  | .nadd a b w g => some (33#6 ++ 0#5 ++ a ++ b ++ 13#7 ++ w ++ g)
  | .naddf a b g => some (33#6 ++ 0#5 ++ a ++ b ++ 14#7 ++ 0#1 ++ g)
  | .nmax a b w g => some (33#6 ++ 0#5 ++ a ++ b ++ 15#7 ++ w ++ g)
  | .nmin a b w g => some (33#6 ++ 0#5 ++ a ++ b ++ 16#7 ++ w ++ g)
  | .vadd d a b q => some (40#6 ++ 0#1 ++ d ++ 0#1 ++ a ++ 0#1 ++ b ++ 0#7 ++ q)
  | .vsub d a b q => some (40#6 ++ 0#1 ++ d ++ 0#1 ++ a ++ 0#1 ++ b ++ 1#7 ++ q)
  | .vmul d a b q => some (40#6 ++ 0#1 ++ d ++ 0#1 ++ a ++ 0#1 ++ b ++ 2#7 ++ q)
  | .vfma d a b q => some (40#6 ++ 0#1 ++ d ++ 0#1 ++ a ++ 0#1 ++ b ++ 3#7 ++ q)
  | .vfms d a b q => some (40#6 ++ 0#1 ++ d ++ 0#1 ++ a ++ 0#1 ++ b ++ 4#7 ++ q)
  | .vmin d a b q => some (40#6 ++ 0#1 ++ d ++ 0#1 ++ a ++ 0#1 ++ b ++ 5#7 ++ q)
  | .vmax d a b q => some (40#6 ++ 0#1 ++ d ++ 0#1 ++ a ++ 0#1 ++ b ++ 6#7 ++ q)
  | .vabs d a q => some (40#6 ++ 0#1 ++ d ++ 0#1 ++ a ++ 0#5 ++ 7#7 ++ q)
  | .vneg d a q => some (40#6 ++ 0#1 ++ d ++ 0#1 ++ a ++ 0#5 ++ 8#7 ++ q)
  | .vrcp d a q => some (40#6 ++ 0#1 ++ d ++ 0#1 ++ a ++ 0#5 ++ 9#7 ++ 0#3 ++ q)
  | .vrsq d a q => some (40#6 ++ 0#1 ++ d ++ 0#1 ++ a ++ 0#5 ++ 10#7 ++ 0#3 ++ q)
  | .vex2 d a q => some (40#6 ++ 0#1 ++ d ++ 0#1 ++ a ++ 0#5 ++ 11#7 ++ 0#3 ++ q)
  | .vlg2 d a q => some (40#6 ++ 0#1 ++ d ++ 0#1 ++ a ++ 0#5 ++ 12#7 ++ 0#3 ++ q)
  | .vcmp d a b q => some (40#6 ++ 0#1 ++ d ++ 0#1 ++ a ++ 0#1 ++ b ++ 13#7 ++ q)
  | .vsel d a b q => some (40#6 ++ 0#1 ++ d ++ 0#1 ++ a ++ 0#1 ++ b ++ 14#7 ++ q)
  | .vand d a b q => some (40#6 ++ 0#1 ++ d ++ 0#1 ++ a ++ 0#1 ++ b ++ 15#7 ++ q)
  | .vor d a b q => some (40#6 ++ 0#1 ++ d ++ 0#1 ++ a ++ 0#1 ++ b ++ 16#7 ++ q)
  | .vxor d a b q => some (40#6 ++ 0#1 ++ d ++ 0#1 ++ a ++ 0#1 ++ b ++ 17#7 ++ q)
  | .vshl d a b q => some (40#6 ++ 0#1 ++ d ++ 0#1 ++ a ++ 0#1 ++ b ++ 18#7 ++ q)
  | .vshr d a b q => some (40#6 ++ 0#1 ++ d ++ 0#1 ++ a ++ 0#1 ++ b ++ 19#7 ++ q)
  | .vbcast d a q => some (41#6 ++ 0#1 ++ d ++ a ++ 0#5 ++ 0#7 ++ q)
  | .vext d a b q => some (41#6 ++ d ++ 0#1 ++ a ++ b ++ 1#7 ++ q)
  | .vins d a b q => some (41#6 ++ 0#1 ++ d ++ a ++ b ++ 2#7 ++ q)
  | .vshuf d a b q => some (41#6 ++ 0#1 ++ d ++ 0#1 ++ a ++ 0#1 ++ b ++ 3#7 ++ q)
  | .vrot d a b q => some (41#6 ++ 0#1 ++ d ++ 0#1 ++ a ++ b ++ 4#7 ++ q)
  | .vred d a b q => some (41#6 ++ d ++ 0#1 ++ a ++ b ++ 5#7 ++ q)
  | .vrmax d a b q => some (41#6 ++ d ++ 0#1 ++ a ++ b ++ 6#7 ++ q)
  | .vrmin d a b q => some (41#6 ++ d ++ 0#1 ++ a ++ b ++ 7#7 ++ q)
  | .vdot d a b q => some (41#6 ++ d ++ 0#1 ++ a ++ 0#1 ++ b ++ 8#7 ++ q)
  | .vcvt d a b q => some (41#6 ++ 0#1 ++ d ++ 0#1 ++ a ++ b ++ 9#7 ++ q)
  | .vscan d a q => some (41#6 ++ 0#1 ++ d ++ 0#1 ++ a ++ 0#5 ++ 10#7 ++ q)
  | .mshape d a => some (42#6 ++ 0#1 ++ d ++ a ++ 0#5 ++ 0#7 ++ 0#4)
  | .mshget d a => some (42#6 ++ d ++ 0#1 ++ a ++ 0#5 ++ 1#7 ++ 0#4)
  | .mzero d => some (42#6 ++ 0#1 ++ d ++ 0#5 ++ 0#5 ++ 2#7 ++ 0#4)
  | .mld d a b g => some (42#6 ++ 0#1 ++ d ++ a ++ b ++ 3#7 ++ 0#1 ++ g)
  | .mldt d a b g => some (42#6 ++ 0#1 ++ d ++ a ++ b ++ 4#7 ++ 0#1 ++ g)
  | .mst d a b g => some (42#6 ++ 0#1 ++ d ++ a ++ b ++ 5#7 ++ 0#1 ++ g)
  | .mrowv d a b => some (42#6 ++ 0#1 ++ d ++ 0#1 ++ a ++ b ++ 6#7 ++ 0#4)
  | .mvrow d a b => some (42#6 ++ 0#1 ++ d ++ 0#1 ++ a ++ b ++ 7#7 ++ 0#4)
  | .mcvt d a => some (42#6 ++ 0#1 ++ d ++ 0#1 ++ a ++ 0#5 ++ 8#7 ++ 0#4)
  | .chb d => some (43#6 ++ 0#1 ++ d ++ 0#5 ++ 0#5 ++ 0#7 ++ 0#4)
  | .che d => some (43#6 ++ 0#1 ++ d ++ 0#5 ++ 0#5 ++ 1#7 ++ 0#4)
  | .mma d a b => some (43#6 ++ 0#1 ++ d ++ 0#1 ++ a ++ 0#1 ++ b ++ 2#7 ++ 0#4)
  | .mmaz d a b => some (43#6 ++ 0#1 ++ d ++ 0#1 ++ a ++ 0#1 ++ b ++ 3#7 ++ 0#4)
  | .mmat d a b => some (43#6 ++ 0#1 ++ d ++ 0#1 ++ a ++ 0#1 ++ b ++ 4#7 ++ 0#4)
  | .mew d a b q => some (43#6 ++ 0#1 ++ d ++ 0#1 ++ a ++ 0#1 ++ b ++ 5#7 ++ 0#2 ++ q)
  | .mred d a b q => some (43#6 ++ 0#1 ++ d ++ 0#1 ++ a ++ b ++ 6#7 ++ 0#2 ++ q)
  | .ham d a b => some (44#6 ++ d ++ 0#1 ++ a ++ 0#1 ++ b ++ 0#7 ++ 0#4)
  | .hamt d a b => some (44#6 ++ 0#1 ++ d ++ 0#1 ++ a ++ 0#1 ++ b ++ 1#7 ++ 0#4)
  | .topki d a b => some (44#6 ++ 0#1 ++ d ++ 0#1 ++ a ++ b ++ 2#7 ++ 0#4)
  | .topkr d a => some (44#6 ++ 0#1 ++ d ++ 0#1 ++ a ++ 0#5 ++ 3#7 ++ 0#4)
  | .topkz d => some (44#6 ++ 0#1 ++ d ++ 0#5 ++ 0#5 ++ 4#7 ++ 0#4)
  | .bmf d a b q => some (44#6 ++ 0#1 ++ d ++ 0#1 ++ a ++ b ++ 5#7 ++ q)
  | .dip d a b q => some (44#6 ++ d ++ 0#1 ++ a ++ 0#1 ++ b ++ 6#7 ++ 0#3 ++ q)
  | .dcos d a b q => some (44#6 ++ d ++ 0#1 ++ a ++ 0#1 ++ b ++ 7#7 ++ 0#3 ++ q)
  | .dl2 d a b q => some (44#6 ++ d ++ 0#1 ++ a ++ 0#1 ++ b ++ 8#7 ++ 0#3 ++ q)
  | .moduleReset | .firmwareImageLoad | .layerJoin | .selfTestFail | .fullService | .thermalLimit | .thermalShutdown
  | .governorRequest | .deferredGrant | .leaveExpiry | .pwrceilWrite | .kmapWrite | .kmapApply | .colWriteAccept
  | .kerfTransmit | .colApply | .lsleepSleep | .lsleepWake | .layerSleep | .layerWake | .colReplayDone | .colrldWrite
  | .colReloadDone | .switchHeaderArrival | .replySplit | .homeQueuePerform | .accessReply | .flitRetransmit
  | .byandIngress | .byandSwitchHeader | .byandTimeout | .linkDown | .linkReturn | .byidWrite | .timeBeacon
  | .beaconSend | .beaconLoss | .translationPulse | .hostUnsupportedRequest | .apertureAccess | .getVersion
  | .getCapabilities | .negotiateAlgorithms | .getDigests | .getCertificate | .challenge | .getMeasurements
  | .spdmUnsupported | .benchAccess | .partWrite | .partitionReset | .partitionTeardown | .partitionResetDone
  | .lqpushWrite | .launchTake | .workPacketPlace | .launchComplete | .completionPlace | .cqpopRead | .gtabWrite
  | .taskQueueOffer | .agePeriod | .gangPlace | .gangTimeout | .readyQueueStart | .handoverCheck | .slotLeave
  | .spillDone | .restoreDone | .pschedPark | .pschedRestore | .pschedShift | .ctxbaseWrite | .balanceCheck
  | .softError | .tokenInsert | .sliceWaitTimeout | .mortisePass | .fireSend | .detectionWaveStart
  | .detectionWaveComplete | .annulledRetire | .registerFill | .messageAccept | .migrationArrival | .pageWake
  | .remoteUpdate | .vmuStart | .vmuResult | .nearBufferDrain | .edramRefreshWindow | .ifetchLineFill
  | .faultRecordEnqueue | .fq1Read | .pwakeWrite | .edctlLoad | .hotnessFlush | .reservationExpiry | .copyCommandStart
  | .copyComplete | .barrierRelease | .registerWrite | .reservedEncoding | .thermalLimitCleared | .hbm5TrainingDone
  | .edramCalibrationDone | .colReady | .configurationWrite | .loadqUpdate => none

/-- Whether a step is an event of the module and not a Wiltik instruction. -/
def Instr.isEvent (i : Instr) : Bool := (encode i).isNone

end Sys2Proof
end

