-- ==== Sys2Proof/Machine/Sparse.lean ====
section
/-! DEFINITION. Tables keyed by natural numbers, kept in one canonical form: keys strictly rising, and (for a table
with a value for every key) no entry equal to what an unlisted key reads as. Memory is such a table of bytes. -/

namespace Sys2Proof.Machine

variable {α : Type}

/-- The listed value of key `i`, if there is one. -/
def Sparse.find? : Sparse α → Nat → Option α
  | [], _ => none
  | (k, a) :: r, i => if i = k then some a else Sparse.find? r i

/-- The value of key `i`: the listed one, or `d`. -/
def Sparse.get (d : α) (t : Sparse α) (i : Nat) : α := (Sparse.find? t i).getD d

/-- Lists key `i` with value `a`. -/
def Sparse.insert (t : Sparse α) (i : Nat) (a : α) : Sparse α :=
  match t with
  | [] => [(i, a)]
  | (k, b) :: r =>
    if i < k then (i, a) :: (k, b) :: r
    else if i = k then (i, a) :: r
    else (k, b) :: Sparse.insert r i a

/-- Removes key `i`. -/
def Sparse.erase (t : Sparse α) (i : Nat) : Sparse α := t.filter (fun e => e.1 != i)

/-- Writes key `i`; writing what an unlisted key reads as removes the entry. -/
def Sparse.put [DecidableEq α] (d : α) (t : Sparse α) (i : Nat) (a : α) : Sparse α :=
  if a = d then Sparse.erase t i else Sparse.insert t i a

/-- Removes every listed key in `lo` to `hi − 1`. -/
def Sparse.clear (t : Sparse α) (lo hi : Nat) : Sparse α := t.filter (fun e => e.1 < lo || hi ≤ e.1)

/-- Keys above `b`, strictly rising, with no entry equal to `d`. -/
def Sparse.wfFrom [DecidableEq α] (d : α) (b : Option Nat) : Sparse α → Bool
  | [] => true
  | (k, a) :: r => (b.all (· < k)) && decide (a ≠ d) && Sparse.wfFrom d (some k) r

/-- The canonical form. -/
def Sparse.wf [DecidableEq α] (d : α) (t : Sparse α) : Bool := Sparse.wfFrom d none t

/-- The canonical form of memory: addresses strictly rising, and no byte listed that is zero, which is what an unlisted address
reads as (log entry 3). -/
def Memory.wf (m : List Host.Cell) : Bool := Sparse.wf (0 : BitVec 8) m

end Sys2Proof.Machine
end

