-- ==== Sys2Proof/Machine/State.lean ====
section
/-! DEFINITION. The state of a D96 module as plain data: everything the manual gives the machine, unit by
unit, with whatever is in flight between units; and the state right after module reset. A table that is
`Sparse` holds only the entries that differ from the stated value of an unlisted key. -/

namespace Sys2Proof.Machine

/-- Why a step stops. -/
inductive Fault where
  /-- Raised by `step` once the thermal shutdown has stopped every clock (R16): nothing but a module reset can
  follow. Safe: the manual says the clocks stop. -/
  | clocksStopped
  deriving DecidableEq, Repr

/-- Why an instruction has no meaning. -/
inductive Refusal where
  /-- Raised by an arm of `exec` that has no meaning yet, with the row's mnemonic. Safe: nothing is proved of it. -/
  | notModelled (mnemonic : String)
  deriving DecidableEq, Repr

/-- An exact value of the matrix path and of lane arithmetic before rounding (R243, R250): `fin neg m e` is
(-1)^neg times m times 2^e, with the sign kept for zero. -/
inductive XVal where
  | nan
  | inf (neg : Bool)
  | fin (neg : Bool) (m : Nat) (e : Int)
  deriving DecidableEq, Repr

/-- The states of R179, with the trapped state of R363 and the spill in progress of R131. -/
inductive Avail where
  /-- In the rotation. -/
  | rotation
  /-- Out of the rotation, memory, until a reply or a line arrives. -/
  | memory
  /-- Out of the rotation, memory, until the condition of a fence or a like wait holds (R233, R318, R319, R362). -/
  | fence
  /-- Out of the rotation, matrix. -/
  | matrix
  /-- Out of the rotation, admission. -/
  | admission
  /-- Parked on an empty register, a result due, JOIN or a barrier. -/
  | parked
  /-- Dropped on a page fault, until the page wake of this token. -/
  | dropped (token : Nat)
  /-- Trapped, with its resume PC; `halt` after HALT. -/
  | trapped (rpc : Word) (halt : Bool)
  /-- Being written out by the spill engine. -/
  | spilling
  deriving DecidableEq, Repr

/-- An open idempotent region: start, live-in mask and checkpoint (R142, R361). -/
structure Region where
  rstart   : Word
  mask     : Word
  g        : Sparse Word
  v        : Sparse Vec
  deriving DecidableEq, Repr

/-- An open CHB chain and its exact accumulator, row by row (R341). -/
structure Chain where
  tile  : Nat
  rows  : Nat
  cols  : Nat
  acc   : List XVal
  leave : Nat
  deriving DecidableEq, Repr

/-- A trap report's words before the message is built (R364). -/
structure Report where
  cause : Nat
  g1    : Word
  g2    : Word
  g4    : Word
  g5    : IWord
  deriving DecidableEq, Repr

/-- Where a LEAVE-asking instruction of a thread stands (R10, R12, R382). -/
inductive Asking where
  | no
  | asked
  | granted (leave : Nat)
  | answered (word : Word)
  deriving DecidableEq, Repr

/-- A thread in a slot. Registers not listed read zero; `gEmpty`, `vEmpty` and `mEmpty` hold a 1 for each empty
register (R180), the `Due` masks a 1 for each register with a result due (R181). -/
structure Thread where
  part    : Nat
  pc      : Word
  mode    : Bool
  gcnt    : BitVec 2
  gcond   : Bool
  prio    : BitVec 2
  tid     : Word
  supv    : Bool
  gregs   : Nat
  vregs   : Nat
  tiles   : Nat
  migrate : Bool
  named   : Bool
  g       : Sparse Word
  v       : Sparse Vec
  m       : Sparse Tile
  md      : Sparse (BitVec 32)
  gEmpty  : BitVec 32
  vEmpty  : BitVec 16
  mEmpty  : BitVec 16
  gDue    : BitVec 32
  vDue    : BitVec 16
  mDue    : BitVec 16
  sg      : Sparse Seg
  fm      : Sparse (BitVec 32)
  sc      : Sparse Word
  cnt     : Sparse Word
  avail   : Avail
  /-- The recorded last issue, as cycle plus one; 0 for none (R175, R362). -/
  last    : Nat
  /-- The first cycle at which the thread may issue (R127). -/
  from_   : Nat
  region  : Option Region
  chain   : Option Chain
  asking  : Asking
  /-- Reservation: location of the naturally aligned 8-byte word, and the LR's cycle (R235). -/
  resv    : Option (Nat × Nat)
  /-- Identity of the youngest near-buffer entry that a waiting fence or release must see drained. -/
  fence   : Option Nat
  reports : List Report
  deriving DecidableEq, Repr

/-- What a thread's life carries beside its record (R121, R141, R314): it is keyed by `tid` and does not travel. -/
structure Life where
  part    : Nat
  /-- Launch identity and work-unit identifier; members are the threads started from work packets. -/
  launch  : Option Nat
  unit    : Option Nat
  path    : Word
  ord     : Nat
  /-- Result registers of children still outstanding. -/
  kids    : BitVec 32
  /-- Parent's `tid` and result register. -/
  parent  : Option (Word × Nat)
  /-- Rule body: slice, firing ordinal, products made, run number (R147, R157). -/
  body    : Option (Nat × Nat × Nat × Nat)
  /-- Barrier that the thread waits in: group and phase (R316). -/
  bar     : Option (Nat × Nat)
  /-- Word delivered to a thread that waited in STABW (R167). -/
  stab    : Option Word
  inStabw : Bool
  /-- Restarts that soft errors have caused with no IDEND between them (R142). -/
  softs   : Nat
  deriving DecidableEq, Repr

/-- The state a started thread begins with (R116, R157, R190, R370). -/
structure Start where
  part    : Nat
  prio    : BitVec 2
  supv    : Bool
  entry   : Word
  gregs   : Nat
  vregs   : Nat
  tiles   : Nat
  migrate : Bool
  named   : Bool
  g       : Sparse Word
  v       : Sparse Vec
  sg      : Sparse Seg
  fm      : Sparse (BitVec 32)
  sc      : Sparse Word
  life    : Life
  deriving DecidableEq, Repr

/-- The three kinds of ready-queue entry (R126): a thread to start, a packed thread, a context's records. -/
inductive EntryKind where
  | start (st : Start)
  | moved (t : Thread)
  /-- Records of one context: the record's core offset, and the slots still to restore. -/
  | restore (part : Nat) (prio : BitVec 2) (off : Nat) (slots : List Nat)
  deriving DecidableEq, Repr

/-- A ready-queue entry, with when its waiting began and the levels it has gained (R124). -/
structure Entry where
  kind  : EntryKind
  prio  : BitVec 2
  since : Nat
  lvl   : Nat
  unit  : Nat
  deriving DecidableEq, Repr

/-- Bodies of messages (R189) and of the start messages of children and fire messages. -/
inductive MsgBody where
  /-- 0x01: a migrated or balanced thread. -/
  | thread (t : Thread)
  /-- 0x02: slot, tid, kind, register number, value. -/
  | fill (slot : Nat) (tid : Word) (kind : RegKind) (reg : Nat) (val : Vec)
  /-- 0x03: token of the held access. -/
  | wake (token : Nat)
  /-- 0x04: location and N-form. -/
  | update (loc : Nat) (op : NOp) (w : Nat) (val : Word) (expiry : Option Nat) (acc : Nat)
  /-- A type that uses the vector table, with general and vector payload. -/
  | table (type : Nat) (g : List Word) (v : List Vec)
  /-- A fire message: type, rule priority, body, tokens. -/
  | fire (type : Nat) (prio : BitVec 2) (g : List Word) (v : List Vec) (life : Life) (sg : Sparse Seg)
      (fm : Sparse (BitVec 32)) (sc : Sparse Word)
  /-- The start of a spawned child. -/
  | child (st : Start)
  /-- A child's result for its parent's register. -/
  | result (tid : Word) (reg : Nat) (val : Word)
  deriving DecidableEq, Repr

/-- What a release waits for (R230, R233): accesses and messages of the thread by identity, and the youngest near-buffer
entry of its core. -/
structure Release where
  accs : List Nat
  msgs : List Nat
  core : Nat
  near : Option Nat
  deriving DecidableEq, Repr

/-- The unit that sends a message: a thread or its core, a Mortise unit of the core's cluster (R41), a partition's launch engine (R112),
another unit of the Carcass die of tower `t`, or Byand port `q` for one that another module sent (R71). -/
inductive MsgFrom where
  | core | mortise | launch
  | service (t : Nat)
  | byand (q : Nat)
  deriving DecidableEq, Repr

/-- Where a message is: in the port it leaves by, on its path through the networks, or at the path's end, with its place among the
arrivals (R226). -/
inductive Transit where
  | port | path
  | come (n : Nat)
  deriving DecidableEq, Repr

/-- A message in flight. `from_` is the sending thread's `tid`; `via` the cluster that holds or awaits its permit,
none for a unit that lies in no cluster; `frm` the unit it comes from, `src` that unit's core, and `slot` the slot there; `target` a core
identity. -/
structure Msg where
  id     : Nat
  part   : Nat
  from_  : Option Word
  src    : Option Nat
  slot   : Nat
  via    : Option Nat
  permit : Bool
  /-- The cycle in which it began to wait for its permit (R47). -/
  asked  : Nat
  way    : Transit
  frm    : MsgFrom
  target : Nat
  /-- For a core of another module: egress port, module, and the LTC at leaving once it has left (R66, R69, R74). -/
  away   : Option (Nat × BitVec 22 × Option Nat)
  /-- What must be performed before the message leaves (R230). -/
  rel    : Option Release
  body   : MsgBody
  /-- The sender's domain, which a packet carries once it has left (R71); and whether its link has gone down since (R75). -/
  dom    : BitVec 16
  lost   : Bool
  deriving DecidableEq, Repr

/-- One line of an instruction buffer with its tag (R196). -/
structure Line where
  part  : Nat
  base  : Nat
  off   : Nat
  bytes : Vec
  deriving DecidableEq, Repr

/-- A near-buffer entry: an alias store not yet drained (R204), with the access and the thread that it comes from. -/
structure NearEntry where
  id   : Nat
  acc  : Nat
  tid  : Word
  off  : Nat
  n    : Nat
  val  : Vec
  deriving DecidableEq, Repr

/-- A dispatched VMU operation with its sources as they stood at issue (R186, R322). -/
structure VmuOp where
  id   : Nat
  core : Nat
  slot : Nat
  tid  : Word
  part : Nat
  ins  : Instr
  a    : Word
  b    : Word
  va   : Vec
  vb   : Vec
  vd   : Vec
  md   : Sparse (BitVec 32)
  fm   : Sparse (BitVec 32)
  sc   : Sparse Word
  /-- The access of a tile transfer, or the leave of a matrix operation. -/
  ref  : Option Nat
  /-- The chain that a CHE closes (R341). -/
  chain : Option Chain
  /-- Start-stage cycles of the parts already taken, and when the last part leaves the start stage (R343, R350). -/
  done : Nat
  ends : Nat
  deriving DecidableEq, Repr

/-- A hand-over or park in progress on a core (R130-R134, R137). -/
structure HandOver where
  part  : Nat
  prio  : BitVec 2
  park  : Bool
  /-- Slots that are to leave, with their threads. -/
  slots : List (Nat × Word)
  /-- Slots written out, with their priorities. -/
  gone  : List (BitVec 2 × Nat)
  deriving DecidableEq, Repr

/-- The vector context that SETVEC copies (R188), also kept for a run's owner (R157). -/
structure Ctx where
  sg : Sparse Seg
  fm : Sparse (BitVec 32)
  sc : Sparse Word
  deriving DecidableEq, Repr

/-- A kernel header as read (R109). -/
structure KHdr where
  gregs   : Nat
  vregs   : Nat
  tiles   : Nat
  migrate : Bool
  supv    : Bool
  entry   : Word
  deriving DecidableEq, Repr

/-- A barrel core (compute or channel). `cEmpty` holds a 1 for each empty common register. -/
structure Core where
  slots    : Sparse Thread
  /-- Slots reserved for a gang: the launch (R128). -/
  reserved : Sparse Nat
  starts   : Nat
  c        : Sparse Word
  cEmpty   : BitVec 8
  tagr     : Word
  busy     : Word
  vec      : Sparse Word
  /-- Headers of the valid vector-table entries, as SETVEC read them (R373). -/
  vhdr     : Sparse KHdr
  vctx     : Ctx
  ready    : List Entry
  /-- Hand-over entries that wait for ready-queue room ahead of messages (R134). -/
  readyHo  : List Entry
  ibuf     : List Line
  /-- Slots whose line is being read, with the line's `sg0` offset. -/
  fetching : Sparse Nat
  near     : List NearEntry
  disp     : List VmuOp
  errQ     : List Word
  errLost  : Bool
  govIn    : List (Nat × Word)
  govQ     : List Word
  /-- Answers the governor holds for a full answer queue (R382). -/
  govHeld  : List Word
  handOver : Option HandOver
  /-- For each context (4p + q) with a resident thread: the cycle since which it is resident. -/
  resident : Sparse Nat
  loadq    : Word
  /-- On a channel core: the partition whose ready entry started last (R194). -/
  turnPart : Nat
  deriving DecidableEq, Repr

/-- Bytes for a register of a thread that is being written out, is written out or is read back: `n` bytes of `val` at byte `off` of the
register, after which it is full where `full` says so (R132, R142, R379). -/
structure RegFill where
  kind   : RegKind
  reg    : Nat
  off    : Nat
  n      : Nat
  val    : Vec
  full   : Bool
  deriving DecidableEq, Repr

/-- A spilled or restoring thread's place (R132, R136): its record, and whether the write or read is under way. -/
structure Spill where
  part : Nat
  prio : BitVec 2
  off  : Nat
  slot : Nat
  core : Nat
  tid  : Word
  /-- 0 being written, 1 waiting in its save record, 2 being read back. -/
  phase : Nat
  t    : Thread
  /-- The LTC at its turn of leaving, which its record holds (R136). -/
  ltc  : Word
  held : Option Nat
  /-- Fills that have not reached the record yet (R132). -/
  fills : List RegFill
  /-- Blocks of the record that the restore has read, and what it read there (R131). -/
  seen  : Nat
  buf   : Sparse Byte
  deriving DecidableEq, Repr

/-- A quad's vector-matrix unit (R187). -/
structure Vmu where
  next    : Nat
  freeAt  : Nat
  running : List VmuOp
  deriving DecidableEq, Repr

/-- A copy command with the snapshot it carries (R375, R377); `own` when it delivers into its own thread (R180). -/
structure CopyCmd where
  core : Nat
  part : Nat
  cmd  : Vec
  ctx  : Ctx
  own  : Bool
  /-- A restart of the thread's region has discarded the delivery (R142). -/
  void : Bool
  deriving DecidableEq, Repr

/-- The running copy: run considered (j), runs selected before it (k), source bytes of the run moved, the bitmap byte in
use, the access under way and what it is for (1 bitmap, 2 source, 3 destination), and the first failure's code. -/
structure CopyRun where
  cmd    : CopyCmd
  j      : Nat
  k      : Nat
  at_    : Nat
  byte   : Option Byte
  acc    : Option Nat
  stage  : Nat
  leave  : Option Nat
  asked  : Bool
  failed : Option Nat
  deriving DecidableEq, Repr

/-- A translation held by a TLB (R213, R214, R218). -/
structure TlbEntry where
  part   : Nat
  epoch  : BitVec 16
  va     : Nat
  leaf   : Word
  leafAt : Nat
  expiry : Nat
  hot    : Nat
  deriving DecidableEq, Repr

/-- A cluster: its copy unit and its TLB, and the partition that received the last permit of each slice. -/
structure Cluster where
  fifo : List CopyCmd
  run  : Option CopyRun
  tlb  : List TlbEntry
  turn : List (Home × Nat)
  deriving DecidableEq, Repr

/-- A request for leave, as it waits in a governor (R11). `who` says what it starts. -/
inductive Asker where
  | chain (core slot : Nat) (tid : Word)
  | mma (core slot : Nat) (tid : Word)
  | copy (cluster : Nat)
  | leave (core slot : Nat) (tid : Word)
  | engine (core : Nat)
  deriving DecidableEq, Repr

structure GovReq where
  who    : Asker
  core   : Nat
  part   : Nat
  charge : Nat
  dur    : Nat
  deriving DecidableEq, Repr

/-- A granted leave: its charge and, for LEAVE and engine 2, the cycle at which it ends. -/
structure Leave where
  id     : Nat
  part   : Nat
  charge : Nat
  until_ : Option Nat
  deriving DecidableEq, Repr

/-- A compute layer: governor, last-level TLB, refresh window (R13, R208, R213). -/
structure Layer where
  ceil    : BitVec 12
  alw     : Sparse (BitVec 12)
  impdef  : BitVec 32
  lvdef   : BitVec 16
  lastr   : BitVec 3
  asks    : List GovReq
  queue   : List GovReq
  leaves  : List Leave
  hotDie  : Bool
  group   : Nat
  winEnd  : Nat
  llt     : List TlbEntry
  /-- Two in-bound pulses are needed before the unit caches again (R216): pulses still wanted. -/
  skewed  : Nat
  deriving DecidableEq, Repr

/-- A Col write (R28, R31). -/
structure ColWrite where
  id    : Nat
  part  : Nat
  layer : Nat
  tid   : Word
  off   : Nat
  n     : Nat
  val   : Vec
  kerf  : Nat
  deriving DecidableEq, Repr

/-- A Col write of a thread that waits for its pair's queue (R29). -/
structure ColWait where
  core : Nat
  slot : Nat
  /-- The cycle in which it reached the queue. -/
  since : Nat
  /-- An entry of the queue is kept for it, and it may issue. -/
  ok    : Bool
  w    : ColWrite
  deriving DecidableEq, Repr

/-- A tower's Col: kerf map, queues, total order, copies' progress, sleep and reload (R23-R40, R420). Dies 0-7 are
the layers, die 8 is the Carcass. -/
structure Tower where
  kmap    : Sparse (BitVec 10)
  pending : Sparse (BitVec 10)
  /-- Transmit queue of pair (8 × partition + layer). -/
  queues  : Sparse (List ColWrite)
  waiting : List ColWait
  kerf    : Nat
  /-- Transmitted writes in kerf order, still to be applied by some die. -/
  order   : List ColWrite
  /-- Per die: writes of `order` already applied (or logged or dropped by a sleeping die). -/
  applied : Sparse Nat
  awake   : BitVec 8
  stale   : BitVec 8
  reload  : BitVec 8
  kbusy   : Bool
  sleep   : BitVec 8
  /-- Layers that are waking and replay their catch-up buffer. -/
  replay  : BitVec 8
  catchup : Sparse (List ColWrite)
  logged  : Sparse Nat
  fresh   : Sparse (List Nat)
  deriving DecidableEq, Repr

/-- The kinds of access that a fault record names (R220). -/
inductive AccKind where
  | load | store | atomic | fetch | copyRead | copyWrite | lease
  deriving DecidableEq, Repr

/-- How far a piece of an access has come. -/
inductive PieceSt where
  | todo | sent | performed | done
  deriving DecidableEq, Repr

/-- A piece of an access: device address, bytes, its place in the access's buffer. -/
structure Piece where
  da  : Nat
  n   : Nat
  off : Nat
  st  : PieceSt
  deriving DecidableEq, Repr

/-- What hardware reads or writes memory for itself for: an instruction line or a kernel header of a thread, a save record, a slice's log,
a launch engine's parameter block, a thread's access to a slice, or the page-table entries of its LEASE. `over` is one that has been given up
on its way. -/
inductive Errand where
  | line (core slot : Nat)
  | header (core slot : Nat)
  | record (core slot : Nat)
  | log (part slice : Nat)
  | launch (part : Nat)
  | slice (core slot : Nat)
  | lease (core slot : Nat)
  | over
  deriving DecidableEq, Repr

/-- What an access does once all its pieces have replied. -/
inductive Cont where
  /-- Load into a general register: size and sign extension. -/
  | gen (d size : Nat) (signed : Bool)
  | vec (d : Nat)
  | store
  /-- AMO result: destination, width, sign extension. -/
  | amo (d w : Nat) (signed : Bool)
  | lr (d w : Nat) (loc : Nat)
  | sc (d : Nat)
  /-- Narrow load: destination, format word, scale bit position (none: unit scale). -/
  | ldn (d : Nat) (f : BitVec 32) (scale : Option Nat)
  /-- Narrow store, first stage (scale read): element address, format word, scale bit position, lanes. -/
  | stn (da : Nat) (f : BitVec 32) (scale : Option Nat) (v : Vec)
  /-- Tile load: destination, shape word, format word, scale pointer, companion, row offsets' base and stride. -/
  | mld (d : Nat) (md f : BitVec 32) (sc : Word) (comp : Option Nat) (base stride : Word)
  | mldt (d : Nat) (md : BitVec 32)
  | mst
  /-- N-form: nothing returns. -/
  | upd
  /-- A piece of a copy of this cluster. -/
  | copy (cluster : Nat)
  /-- Nothing returns. -/
  | lease
  /-- A read of another module's memory that hardware makes for a thread: what returns is kept for it. -/
  | errand (key : Errand)
  deriving DecidableEq, Repr

/-- An access of a thread or a copy unit, from issue until its last reply. -/
structure Access where
  id     : Nat
  core   : Nat
  slot   : Nat
  tid    : Word
  part   : Nat
  kind   : AccKind
  marked : Bool
  nform  : Bool
  op     : Option MemOp
  pieces : List Piece
  buf    : Sparse Byte
  cont   : Cont
  pc     : Word
  word   : IWord
  /-- Token of the fault that holds it (R219). -/
  held   : Option Nat
  /-- First failure met: status, DA. -/
  failed : Option (Status × Nat)
  /-- A page-rights failure of a marked access (R212). -/
  rights : Option Nat
  deriving DecidableEq, Repr

/-- A request's place with its requester: access and piece, and the permit it holds (R46, R47). -/
structure Req where
  id      : Nat
  acc     : Nat
  piece   : Nat
  part    : Nat
  cluster : Nat
  slice   : Home
  core    : Nat
  slot    : Nat
  /-- The cycle in which it began to wait for its permit (R47). -/
  asked   : Nat
  deriving DecidableEq, Repr

/-- What made a header. -/
inductive HdrSrc where
  /-- A thread's or a copy unit's request, or a packet of another module. -/
  | cluster
  /-- A drained near-buffer entry in the loop-back port (R227), with the access and the thread that it comes from. -/
  | loop (acc : Nat) (tid : Word)
  /-- A bench core, and whether its tag makes it a system access (R82, R83). -/
  | bench (i : Nat) (sys : Bool)
  /-- A token transfer to a slice, and the emitter's `tid` (R148). -/
  | token (slice : Nat) (tid : Word)
  /-- A message (R46). -/
  | msg
  /-- A read or write that hardware makes of memory for itself: its turn there. -/
  | direct
  /-- A host access through the aperture (R76, R77). -/
  | aperture
  deriving DecidableEq, Repr

/-- A header in the network: the operation, its word, and its members when combined (R44, R53, R59). -/
structure Header where
  id     : Nat
  part   : Nat
  op     : MemOp
  loc    : Nat
  home   : Home
  /-- The module that an egress header is for (R65). -/
  dest   : BitVec 22
  expiry : Option Nat
  uncmb  : Bool
  mems   : List Nat
  /-- Members of a packet that was combined before it was admitted, beyond one (R72). -/
  extra  : Nat
  /-- Where the header does not come from a cluster: a near-buffer entry on its way through the loop-back port (R227), or a bench
  core's access (R82), with its number and whether it is a system access. -/
  src    : HdrSrc
  deriving DecidableEq, Repr

/-- A header on its path: the network (0-31 layers, 32-35 crossbars), its stage and line there, its destination port,
and the networks still to cross, each with its source and destination port (R42, R45, R410). -/
structure Packet where
  hdr   : Header
  net   : Nat
  stage : Nat
  pos   : Nat
  /-- In the output queue of `stage` (true), or on an input line of it (false). -/
  queued : Bool
  dst   : Nat
  rest  : List (Nat × Nat × Nat)
  deriving DecidableEq, Repr

/-- A wait-buffer entry of a switch output (R53); `out` is its (network, stage, line). -/
structure WaitEntry where
  id    : Nat
  out   : Nat × Nat × Nat
  part  : Nat
  comb  : Nat
  first : Nat
  second : Nat
  op    : AmoOp
  w     : Nat
  v0    : Word
  deriving DecidableEq, Repr

/-- A reply travelling back (R43, R56). -/
structure Reply where
  id     : Nat
  status : Status
  val    : Vec
  deriving DecidableEq, Repr

/-- An active launch (R108, R112, R115). -/
structure Launch where
  id     : Nat
  prio   : BitVec 2
  cdest  : BitVec 2
  mtype  : Nat
  ncore  : Word
  count  : Nat
  gang   : Nat
  tag    : BitVec 32
  arg0   : Word
  arg1   : Word
  /-- The kernel header: its address, which the launch's packets carry, and its contents (R116). -/
  khdr   : Nat
  hdr    : KHdr
  ctx    : Ctx
  glist  : List Nat
  placed : Nat
  /-- Identifiers of ended work units, and how many ended other than by EXIT. -/
  ended  : List Nat
  bad    : Nat
  deriving DecidableEq, Repr

/-- A task-queue entry: a work packet, or a gang of `n` units from `first` (R125). -/
structure Task where
  launch : Nat
  /-- The kernel header's address and the gang number, as the packets carry them (R116). -/
  khdr   : Nat
  gang   : Nat
  first  : Nat
  n      : Nat
  prio   : BitVec 2
  since  : Nat
  lvl    : Nat
  deriving DecidableEq, Repr

/-- A member's arrivals in a group of a launch (R314, R316). -/
structure Member where
  launch  : Nat
  group   : Nat
  unit    : Nat
  /-- Arrivals made (the next phase), and of these how many have left the thread. -/
  made    : Nat
  left    : Nat
  fuzzy   : Option Nat
  deriving DecidableEq, Repr

/-- An arrival that has not left its thread: what it still waits for (R234). -/
structure Arrival where
  launch : Nat
  group  : Nat
  unit   : Nat
  tid    : Word
  rel     : Release
  deriving DecidableEq, Repr

/-- A fault record (R220). -/
structure FaultRec where
  kind   : Nat
  rx     : Bool
  cause  : Bool
  rights : Bool
  spill  : Bool
  da     : Nat
  core   : Nat
  copy   : Bool
  slot   : Nat
  chan   : Bool
  token  : Nat
  deriving DecidableEq, Repr

/-- A resident token and its stamp (R150). -/
structure Token where
  word  : Vec
  stamp : Nat
  deriving DecidableEq, Repr

/-- A token transfer on its way to or waiting at its home slice (R148, R151). -/
structure Transfer where
  word   : Vec
  core   : Nat
  slot   : Nat
  tid    : Word
  /-- The request whose permit it holds, and RUNNING cycles waited at a full slice (R151). -/
  req    : Nat
  waited : Nat
  /-- The cycle in which it reached the slice (R150). -/
  at_    : Nat
  deriving DecidableEq, Repr

/-- A picked group in a fire queue (R157). -/
structure Fire where
  rule    : Nat
  mtype   : Nat
  prio    : BitVec 2
  run     : BitVec 32
  ordinal : Nat
  toks    : List Vec
  /-- The context of the run that picked it (R157). -/
  ctx     : Ctx
  deriving DecidableEq, Repr

/-- A log descriptor and how many of its records are used (R170). -/
structure Log where
  base : Nat
  len  : Nat
  used : Nat
  deriving DecidableEq, Repr

/-- A Plain slice and its Mortise unit (R144-R174). -/
structure Slice where
  tokens  : List Token
  stamp   : Nat
  inbox   : List Transfer
  rho     : Nat
  ordinal : Nat
  fire    : List Fire
  bodies  : Nat
  recv    : Nat
  /-- A pass may begin (R159). -/
  due     : Bool
  cur     : Option Log
  nxt     : Option Log
  /-- Waits for RLOGM: log full, log exhausted or a lost record. -/
  logStop : Bool
  written : Nat
  /-- Records taken in the run in replay mode. -/
  head    : Nat
  /-- The head record of a replayed slice, once it has been read and until it is taken (R173). -/
  headRec : Option Nat
  /-- Its last pass ended in log full with the budget's last group, and holds its grant until the next (R164, R398). -/
  holds   : Bool
  deriving DecidableEq, Repr

/-- The run states (R155). -/
inductive RunState where
  | idle | running | stable | stopped | diverged | halted
  deriving DecidableEq, Repr

/-- What a detection wave found (R165, R166). -/
structure Wave where
  sent    : Nat
  recv    : Nat
  passive : Bool
  quiet   : Bool
  waits   : List Nat
  deriving DecidableEq, Repr

/-- A partition's reaction run (R155, R164, R168). -/
structure Run where
  number    : BitVec 32
  st        : RunState
  cause     : Nat
  slice     : Nat
  owner     : Nat
  ctx       : Ctx
  mode      : Nat
  armed     : Option Nat
  left      : Option Nat
  picked    : Nat
  /-- The wave in progress, and the result of the one before. -/
  wave      : Option Wave
  prev      : Option Wave
  /-- Local time before which no wave starts: 256 cycles after the one before completed (R165). -/
  waveDue   : Nat
  deriving DecidableEq, Repr

/-- An EPUSH command on its way to a launch queue: when and by which core, slot and thread it was pushed (R105, R106). -/
structure Push where
  since : Nat
  core  : Nat
  slot  : Nat
  tid   : Word
  word  : Word
  deriving DecidableEq, Repr

/-- A partition: registers, queues, launches, meters and its reaction program. -/
structure Part where
  base    : Nat
  len     : Nat
  en      : Bool
  det     : Bool
  hostirq : Bool
  key     : Option Nat
  epoch   : BitVec 16
  busy    : Bool
  done    : Bool
  perr    : Bool
  tearing : Bool
  meters  : Sparse Word
  frozen  : Bool
  snaps   : Nat
  closing : Option (List Byte)
  cmboff  : Bool
  lq      : List Word
  /-- Bench cores whose pushes of this cycle stand at the end of `lq`; EPUSH commands of this cycle, which follow them (R106). -/
  lqNew   : List Nat
  lqIn    : List Push
  lqdrop  : Bool
  gerr    : Bool
  cq      : List Word
  cqHeld  : List Word
  msgHeld : List (Nat × Word × Nat)
  gtab    : Sparse Word
  launches : List Launch
  tasks   : List Task
  /-- The layer served last by the distributors, plus one; zero for none (R125). -/
  lastLayer : Nat
  /-- A gang being placed: its task, when it started, reserved (core, slot) pairs. -/
  gang    : Option (Task × Nat × List (Nat × Nat))
  deriving DecidableEq, Repr

/-- A partition's scheduling, translation and barrier state, beside `Part`. -/
structure PartAux where
  sched   : Sparse (BitVec 32)
  ctxbase : Sparse Word
  park    : Bool
  bal     : Bool
  shift   : BitVec 16
  loadSt  : Bool
  edwin   : Sparse (BitVec 34)
  ptroot  : Word
  ptshad  : Word
  fq      : List FaultRec
  fqWait  : List FaultRec
  rules   : Sparse Vec
  run     : Run
  slices  : Sparse Slice
  sent    : Nat
  members : List Member
  arrivals : List Arrival
  /-- Released phases of (launch, group). -/
  phases  : List (Nat × Nat × Nat)
  bypart  : BitVec 17
  bywin   : Sparse Word
  /-- Records that await restore: (context, record offset, slot). -/
  parked  : List (Nat × Nat × Nat)
  deriving DecidableEq, Repr

/-- Module-wide state (R13-R22, R67, R73, R77, R78, R91, R216). -/
structure Mod where
  layerUp  : BitVec 32
  hbmRdy   : Bool
  edRdy    : Bool
  colRdy   : Bool
  narrow   : Bool
  full     : Bool
  fail     : Bool
  cyc      : Word
  ltc      : Word
  /-- Quarter nanoseconds past the last LTC tick. -/
  ltcQ     : Nat
  /-- Nanoseconds for which the LTC holds still (R418). -/
  hold     : Nat
  /-- Quarter nanoseconds since the last whole microsecond, by which pulses and beacons fall due (R73, R216). -/
  us       : Nat
  apbase   : Word
  bme      : Bool
  image    : Option (List Byte)
  digest   : BitVec 384
  shutdown : Bool
  sysKey   : Nat
  keys     : Nat
  tstat    : BitVec 32
  bench    : Sparse (BitVec 7)
  /-- The word that each bench core's LR has reserved (R82). -/
  benchLr  : Sparse Nat
  /-- The MSI-X table and its pending bits, by 8-byte word (R76). -/
  msixTab  : Sparse Word
  deriving DecidableEq, Repr

/-- A Byand port (R62-R75). -/
structure Port where
  up     : Bool
  retry  : BitVec 16
  refuse : BitVec 16
  lost   : BitVec 16
  deriving DecidableEq, Repr

/-- A request that has left through Byand: its request identity, port, and LTC at leaving (R74). -/
structure Remote where
  req  : Nat
  port : Nat
  hdr  : Header
  sent : Nat
  /-- The domain that the packet carries (R71), and whether its link has gone down since (R75). -/
  dom  : BitVec 16
  lost : Bool
  deriving DecidableEq, Repr

/-- What the module has admitted from outside and not yet answered (R71): the header or message, the source module, the partition,
and the payload bytes of the reply (R94). -/
structure Inside where
  id    : Nat
  src   : Nat
  part  : Nat
  bytes : Nat
  deriving DecidableEq, Repr

/-- Byand state: identity, time, ports, packets outside the module, and the switch outputs of the system that this
module's traffic crosses. -/
structure Byand where
  mod_     : BitVec 22
  set      : Bool
  master   : BitVec 22
  isMaster : Bool
  skew     : Bool
  goodBeacons : Nat
  missed   : Nat
  beacons  : Nat
  tmo      : BitVec 4
  ports    : Sparse Port
  out      : List Remote
  inside   : List Inside
  /-- The egress table (R75): ports to which firmware has redirected others. -/
  egress   : Sparse Nat
  /-- Replies, refusals and messages handed to Byand: (destination module, status, value). -/
  sentOut  : List (Nat × Status × Vec)
  /-- Per switch output: queued headers with their cycle of arrival; its wait-buffer entries (R72). -/
  queues   : Sparse (List (Nat × ByHeader))
  waits    : List (Nat × Nat × ByHeader × ByHeader)
  /-- Per switch output: the last cycle in which headers arrived, and these by ingress port, not yet in the queue (R72). -/
  arrived  : Sparse (Nat × List ByHeader)
  /-- Headers that a switch output has passed on, and replies that a switch has split: (request, status, value). -/
  passed   : List (Nat × ByHeader)
  split    : List (Nat × Status × Vec)
  deriving DecidableEq, Repr

/-- The last SPDM response (R80, R81). -/
inductive Spdm where
  | version (v : Nat)
  | capabilities (cert chal meas : Bool)
  | algorithms (p384 sha384 dmtf : Bool)
  | digests (d : BitVec 384)
  | certificate (chain : List Byte)
  | challengeAuth (nonce : BitVec 256) (sig : BitVec 768)
  | measurements (blocks : List (Nat × List Byte)) (nonce : BitVec 256) (sig : BitVec 768)
  | unsupportedRequest
  deriving DecidableEq, Repr

/-- What the module last returned to the outside (host or bench). -/
inductive Ext where
  | none
  | data (size : Nat) (v : Word)
  /-- More than 8 bytes, from a read through the aperture. -/
  | wide (size : Nat) (v : Vec)
  | ack
  | unsupported
  | accessFault
  | spdm (r : Spdm)
  | fatal
  deriving DecidableEq, Repr

/-- Whose turn is fixed: an event, or an attempt by the thread whose turn it is on a core, with what it is given. -/
inductive Turn where
  | event (i : Instr) (e : Env)
  | issue (core : Nat) (e : Env)
  deriving DecidableEq, Repr

/-- The instruction being executed: core, slot, word, and whether it has used the cycle (R176, R412). -/
structure Cur where
  core   : Nat
  slot   : Nat
  word   : IWord
  used   : Bool
  deriving DecidableEq, Repr

/-- The rotation's place: the core whose turn it is and the slots already tried in this cycle; core 2^16 once every core has had
its turn and the cycle's events have been fixed. -/
structure Rotor where
  core  : Nat
  tried : Nat
  deriving DecidableEq, Repr

/-- How far a line of such an access is: it waits for its permit, its header is on its way, or it has had its turn at its home. -/
inductive TicketSt where
  | waits | goes | done
  deriving DecidableEq, Repr

/-- One 64-byte line of such an access in its turn for a permit and at its home (R46, R47, R49), or a piece of it that goes over Byand (R65):
`port` is the port whose permit it takes, none for a launch engine's. -/
structure Ticket where
  id    : Nat
  key   : Errand
  part  : Nat
  core  : Nat
  slot  : Nat
  port  : Option Nat
  home  : Home
  loc   : Nat
  /-- The cycle in which it began to wait. -/
  asked : Nat
  st    : TicketSt
  /-- Of a piece that goes over Byand: what it does in which module, until when its lease holds, and what has come back. -/
  op    : MemOp := .read 0
  dest  : BitVec 22 := 0
  expiry : Option Nat := none
  got   : Option (Status × Vec) := none
  deriving DecidableEq, Repr

/-- The network and everything in flight (R41-R61, R223). -/
structure Net where
  accs    : List Access
  reqs    : List Req
  /-- Headers that wait in their cluster's port for a permit, oldest first (R47). -/
  port    : List Header
  /-- Headers that hold a permit and wait in their cluster's port for their link (R75). -/
  linkWait : List Header
  /-- Lines that hardware reads or writes for itself. -/
  tickets : List Ticket
  packets : List Packet
  waits   : List WaitEntry
  /-- Per output (network, stage, line): the input that lost the last conflict (R49). -/
  lost    : List ((Nat × Nat × Nat) × Bool)
  /-- The partition that each crossbar output and each slice ingress served last (R49). -/
  turns   : List ((Nat × Nat × Nat) × Nat)
  homeTurn : List (Home × Nat)
  homeQ   : List Header
  /-- Requests emitted on the PCIe link, whose completions are awaited (R78, R311). -/
  hostOut : List Header
  replies : List Reply
  msgs    : List Msg
  spills  : List Spill
  deriving DecidableEq, Repr

/-- The state of one D96 module. -/
structure State where
  cur      : Cur
  /-- What the event being performed is given. -/
  env      : Env
  rotor    : Rotor
  /-- What the environment and the timing have fixed to happen next, oldest first. -/
  agenda   : List Turn
  md       : Mod
  cores    : Sparse Core
  vmus     : Sparse Vmu
  clusters : Sparse Cluster
  layers   : Sparse Layer
  towers   : Sparse Tower
  parts    : Sparse Part
  auxs     : Sparse PartAux
  lives    : Sparse Life
  /-- Every byte of storage, by location: local physical addresses, scratchpads, eDRAM, Col copies. -/
  mem      : List Host.Cell
  /-- For each SRAM-layer line written: the key it was written under, plus one (R90). -/
  keyed    : Sparse Nat
  net      : Net
  by_      : Byand
  msix     : List Nat
  aplic    : List Nat
  ext      : Ext
  /-- The next identity for requests, messages, launches and tokens. -/
  fresh    : Nat
  /-- The model's own: how many free values have been drawn. -/
  drawn    : Nat
  deriving DecidableEq, Repr

def Ctx.reset : Ctx := { sg := [], fm := [], sc := [] }

/-- A core after module reset: no thread, every register zero and full (R17). -/
def Core.reset : Core :=
  { slots := [], reserved := [], starts := 0, c := [], cEmpty := 0, tagr := 0, busy := 0, vec := [], vhdr := [], vctx := .reset, ready := [],
    readyHo := [], ibuf := [], fetching := [], near := [], disp := [], errQ := [], errLost := false, govIn := [], govQ := [],
    govHeld := [], handOver := none, resident := [], loadq := 0, turnPart := 63 }

def Vmu.reset : Vmu := { next := 0, freeAt := 0, running := [] }

def Cluster.reset : Cluster := { fifo := [], run := none, tlb := [], turn := [] }

/-- A layer after module reset: ceiling 0x753 (R419), nothing asked, granted or deferred (R13). -/
def Layer.reset : Layer :=
  { ceil := 0x753, alw := [], impdef := 0, lvdef := 0, lastr := 0, asks := [], queue := [], leaves := [], hotDie := false,
    group := 0, winEnd := 0, llt := [], skewed := 0 }

/-- A tower's Col after module reset: AWAKE 0xFF, everything else zero (R25, R39, R420). -/
def Tower.reset : Tower :=
  { kmap := [], pending := [], queues := [], waiting := [], kerf := 0, order := [], applied := [], awake := 0xFF, stale := 0,
    reload := 0, kbusy := false, sleep := 0, replay := 0, catchup := [], logged := [], fresh := [] }

def Part.reset : Part :=
  { base := 0, len := 0, en := false, det := false, hostirq := false, key := none, epoch := 0, busy := false, done := false,
    perr := false, tearing := false, meters := [], frozen := false, snaps := 0, closing := none, cmboff := false, lq := [], lqNew := [], lqIn := [],
    lqdrop := false, gerr := false, cq := [], cqHeld := [], msgHeld := [], gtab := [], launches := [], tasks := [],
    lastLayer := 0, gang := none }

def Slice.reset : Slice :=
  { tokens := [], stamp := 0, inbox := [], rho := 0, ordinal := 0, fire := [], bodies := 0, recv := 0, due := false, cur := none,
    nxt := none, logStop := false, written := 0, head := 0, headRec := none, holds := false }

def Run.reset : Run :=
  { number := 0, st := .idle, cause := 0, slice := 0, owner := 0, ctx := .reset, mode := 0, armed := none, left := none,
    picked := 0, wave := none, prev := none, waveDue := 0 }

/-- A partition's further state after module reset; BAL is 1 (R137). -/
def PartAux.reset : PartAux :=
  { sched := [], ctxbase := [], park := false, bal := true, shift := 0, loadSt := false, edwin := [], ptroot := 0, ptshad := 0,
    fq := [], fqWait := [], rules := [], run := .reset, slices := [], sent := 0, members := [], arrivals := [], phases := [],
    bypart := 0, bywin := [], parked := [] }

def Life.reset : Life :=
  { part := 0, launch := none, unit := none, path := 0, ord := 0, kids := 0, parent := none, body := none, bar := none,
    stab := none, inStabw := false, softs := 0 }

/-- Module registers after reset (R21, R77, R83, R418): reduced service with T0 L0 alone able to run; LTC and `cyc` zero. -/
def Mod.reset : Mod :=
  { layerUp := 0, hbmRdy := false, edRdy := false, colRdy := false, narrow := false, full := false, fail := false, cyc := 0,
    ltc := 0, ltcQ := 0, hold := 0, us := 0, apbase := 0, bme := false, image := none, digest := 0, shutdown := false, sysKey := 0,
    keys := 1, tstat := 0, bench := [], benchLr := [], msixTab := [] }

/-- A Byand port after module reset: DOWN is 1 (R75). -/
def Port.reset : Port := { up := false, retry := 0, refuse := 0, lost := 0 }

/-- Byand after module reset (R67, R73, R75): TMO is 0xA. -/
def Byand.reset : Byand :=
  { mod_ := 0, set := false, master := 0, isMaster := false, skew := false, goodBeacons := 0, missed := 0, beacons := 0,
    tmo := 0xA, ports := [], out := [], inside := [], egress := [], sentOut := [], queues := [], waits := [], arrived := [], passed := [], split := [] }

def Net.reset : Net :=
  { accs := [], reqs := [], port := [], linkWait := [], tickets := [], packets := [], waits := [], lost := [], turns := [], homeTurn := [], homeQ := [], hostOut := [], replies := [], msgs := [], spills := [] }

/-- The module right after module reset (R17, R418): no core, engine, partition or meter holds anything. -/
def State.reset : State :=
  { cur := { core := 0, slot := 0, word := 0, used := false }, env := .none, rotor := { core := 0, tried := 0 }, agenda := [], md := .reset,
    cores := [], vmus := [], clusters := [], layers := [], towers := [], parts := [], auxs := [], lives := [], mem := [],
    keyed := [], net := .reset, by_ := .reset, msix := [], aplic := [], ext := .none, fresh := 1, drawn := 0 }

end Sys2Proof.Machine
end

