-- ==== Sys2Proof/Machine/Ops.lean ====
section
/-! DEFINITION. Named operations over the state: numbering of units, access to one unit's record, bytes of storage,
registers of a thread, meters, messages, and taking a trap. -/

namespace Sys2Proof.Machine

/-! ### Bits and bytes -/

/-- Bits [hi:lo] of a word as a number (R3). -/
def bitsOf {w : Nat} (v : BitVec w) (hi lo : Nat) : Nat := (v.toNat >>> lo) % 2 ^ (hi + 1 - lo)

/-- `v` with bit `i` set. -/
def bset {w : Nat} (v : BitVec w) (i : Nat) : BitVec w := v ||| (1#w <<< i)

/-- `v` with bit `i` clear. -/
def bclr {w : Nat} (v : BitVec w) (i : Nat) : BitVec w := v &&& ~~~(1#w <<< i)

/-- `v` with bit `i` as `b`. -/
def bput {w : Nat} (v : BitVec w) (i : Nat) (b : Bool) : BitVec w := if b then bset v i else bclr v i

/-- The low `n` bits sign-extended to 64 (n ≥ 1). -/
def sext64 (n : Nat) (v : Word) : Word := BitVec.signExtend 64 (v.setWidth n)

/-- The low `n` bits zero-extended to 64. -/
def zext64 (n : Nat) (v : Word) : Word := BitVec.setWidth 64 (v.setWidth n)

/-- A little-endian number from its bytes (R3). -/
def leNat : List Byte → Nat
  | [] => 0
  | b :: r => b.toNat + 256 * leNat r

/-- The low `n` bytes of a number, least significant first (R3). -/
def leBytes : Nat → Nat → List Byte
  | 0, _ => []
  | n + 1, v => BitVec.ofNat 8 v :: leBytes n (v / 256)

/-- Bytes `[n − 1 : 0]` of a word of any width. -/
def bytesOf {w : Nat} (n : Nat) (v : BitVec w) : List Byte := leBytes n v.toNat

/-! ### Numbering (R5-R9) -/

/-- Channel cores are numbered from 0x8000, 64 a tower, after the compute cores: their core address (R66). -/
def isChan (c : Nat) : Bool := 32768 ≤ c

def layerOf (c : Nat) : Nat := c / 1024
def towerOf (c : Nat) : Nat := if isChan c then (c - 32768) / 64 else c / 8192
def clusterOf (c : Nat) : Nat := c / 8
def quadOf (c : Nat) : Nat := c / 4
/-- Port index of a channel core. -/
def portOf (c : Nat) : Nat := (c - 32768) % 64
/-- The channel core of HBM5 channel `ch` (R8, R199): stack ch div 32, tower stack div 2. -/
def chanCore (ch : Nat) : Nat := 32768 + ch

/-- One pass of the procedure of R6 on `x` (column) and `y` (row). -/
def hilbertStep (st : Nat × Nat × Nat) (s : Nat) : Nat × Nat × Nat :=
  let (x, y, h) := st
  let bx := if x &&& s != 0 then 1 else 0
  let by_ := if y &&& s != 0 then 1 else 0
  let h := h + s * s * ((3 * bx) ^^^ by_)
  if by_ = 0 then
    if bx = 1 then (31 - y, 31 - x, h) else (y, x, h)
  else (x, y, h)

/-- The Hilbert index of mesh coordinates (R6). -/
def hilbert (row col : Nat) : Nat := ([16, 8, 4, 2, 1].foldl hilbertStep (col, row, 0)).2.2

/-- The mesh coordinates (row, column) of a Hilbert index. -/
def meshOf (h : Nat) : Nat × Nat :=
  match (List.range 1024).find? (fun rc => hilbert (rc / 32) (rc % 32) == h) with
  | some rc => (rc / 32, rc % 32)
  | none => (0, 0)

/-! ### Locations of storage

Local physical addresses lie below 2^42 (R199); scratchpads, eDRAM stores and Col copies follow. -/

def spadLoc (core off : Nat) : Nat := 2 ^ 43 + core * 2 ^ 17 + off
def edramLoc (layer off : Nat) : Nat := 2 ^ 44 + layer * 2 ^ 29 + off
def colLoc (tower die off : Nat) : Nat := 2 ^ 45 + (tower * 9 + die) * 2 ^ 20 + off

/-- HBM5 addresses (R199). -/
def isHbm (a : Nat) : Bool := a < 0xC000000000
/-- SRAM-layer addresses (R199). -/
def isSram (a : Nat) : Bool := 0x10000000000 ≤ a && a < 0x10200000000
/-- Host memory addresses (R199). -/
def isHostMem (a : Nat) : Bool := 0x20000000000 ≤ a && a < 0x40000000000
def isSpad (a : Nat) : Bool := 2 ^ 43 ≤ a && a < 2 ^ 44
def isEdram (a : Nat) : Bool := 2 ^ 44 ≤ a && a < 2 ^ 45

/-- The home of a location of this module; none where nothing is. -/
def homeOf (a : Nat) : Option Home :=
  if isHbm a then some (.hbm (32 * (a / 0x1800000000) + (a / 256) % 32))
  else if isSram a then
    let o := a - 0x10000000000
    some (.sram (32 * (o / 2 ^ 31) + (o / 256) % 32))
  else if isHostMem a then some .host
  else if isSpad a then some (.spad ((a - 2 ^ 43) / 2 ^ 17))
  else if isEdram a then some (.edram ((a - 2 ^ 44) / 2 ^ 29) ((a / 256) % 64))
  else none

/-! ### One unit's record -/

def State.core (s : State) (c : Nat) : Core := Sparse.get .reset s.cores c
def State.setCore (s : State) (c : Nat) (k : Core) : State := { s with cores := Sparse.put .reset s.cores c k }
def State.modCore (s : State) (c : Nat) (f : Core → Core) : State := s.setCore c (f (s.core c))

def State.vmu (s : State) (q : Nat) : Vmu := Sparse.get .reset s.vmus q
def State.modVmu (s : State) (q : Nat) (f : Vmu → Vmu) : State :=
  { s with vmus := Sparse.put .reset s.vmus q (f (s.vmu q)) }

def State.cluster (s : State) (c : Nat) : Cluster := Sparse.get .reset s.clusters c
def State.modCluster (s : State) (c : Nat) (f : Cluster → Cluster) : State :=
  { s with clusters := Sparse.put .reset s.clusters c (f (s.cluster c)) }

def State.layer (s : State) (l : Nat) : Layer := Sparse.get .reset s.layers l
def State.modLayer (s : State) (l : Nat) (f : Layer → Layer) : State :=
  { s with layers := Sparse.put .reset s.layers l (f (s.layer l)) }

def State.tower (s : State) (t : Nat) : Tower := Sparse.get .reset s.towers t
def State.modTower (s : State) (t : Nat) (f : Tower → Tower) : State :=
  { s with towers := Sparse.put .reset s.towers t (f (s.tower t)) }

def State.part (s : State) (p : Nat) : Part := Sparse.get .reset s.parts p
def State.modPart (s : State) (p : Nat) (f : Part → Part) : State :=
  { s with parts := Sparse.put .reset s.parts p (f (s.part p)) }

def State.aux (s : State) (p : Nat) : PartAux := Sparse.get .reset s.auxs p
def State.modAux (s : State) (p : Nat) (f : PartAux → PartAux) : State :=
  { s with auxs := Sparse.put .reset s.auxs p (f (s.aux p)) }

def State.life (s : State) (tid : Word) : Life := Sparse.get .reset s.lives tid.toNat
def State.modLife (s : State) (tid : Word) (f : Life → Life) : State :=
  { s with lives := Sparse.put .reset s.lives tid.toNat (f (s.life tid)) }

def State.modNet (s : State) (f : Net → Net) : State := { s with net := f s.net }
def State.modMod (s : State) (f : Mod → Mod) : State := { s with md := f s.md }
def State.modByand (s : State) (f : Byand → Byand) : State := { s with by_ := f s.by_ }

def PartAux.slice (a : PartAux) (i : Nat) : Slice := Sparse.get .reset a.slices i
def PartAux.modSlice (a : PartAux) (i : Nat) (f : Slice → Slice) : PartAux :=
  { a with slices := Sparse.put .reset a.slices i (f (a.slice i)) }
def State.modSlice (s : State) (p i : Nat) (f : Slice → Slice) : State := s.modAux p (·.modSlice i f)

def State.now (s : State) : Nat := s.md.cyc.toNat

/-- A fresh identity, and the state that has given it out. -/
def State.draw (s : State) : Nat × State := (s.fresh, { s with fresh := s.fresh + 1 })

/-- A fresh index for a free value. -/
def State.drawFree (s : State) : Nat × State := (s.drawn, { s with drawn := s.drawn + 1 })

/-! ### Partitions (R86, R88) -/

/-- Whether core `c` belongs to partition record `x`. -/
def Part.owns (x : Part) (c : Nat) : Bool := x.en && x.base ≤ c && c < x.base + x.len

/-- The partition of a compute core (R88). -/
def State.partOf (s : State) (c : Nat) : Option Nat :=
  (s.parts.find? (fun e => e.2.owns c)).map (·.1)

/-- The partition's cores, in ascending order. -/
def State.coresOf (s : State) (p : Nat) : List Nat :=
  let x := s.part p
  if x.en then (List.range x.len).map (x.base + ·) else []

/-- The layers that hold cores of the partition. -/
def State.layersOf (s : State) (p : Nat) : List Nat :=
  let x := s.part p
  if x.en ∧ x.len > 0 then
    (List.range 32).filter (fun l => layerOf x.base ≤ l && l ≤ layerOf (x.base + x.len - 1))
  else []

/-- Whole clusters of the partition, in ascending order: its Plain slices (R89). -/
def State.sliceClusters (s : State) (p : Nat) : List Nat :=
  let x := s.part p
  if x.en then
    let lo := (x.base + 7) / 8
    let hi := (x.base + x.len) / 8
    (List.range (hi - lo)).map (lo + ·)
  else []

def State.sliceCount (s : State) (p : Nat) : Nat := (s.sliceClusters p).length

/-- Layer in service: LAYERUP, and T0 L0, which runs from the start (R18, R20). -/
def State.inService (s : State) (l : Nat) : Bool := l == 0 || s.md.layerUp.getLsbD l

/-! ### Meters (R94-R96) -/

/-- The partition has been enabled since module reset. -/
def Part.known (x : Part) : Bool := x.en || x.key.isSome || x.epoch != 0

/-- The partition's meters count: a torn-down partition's are frozen (R102), and those of a partition never enabled stay zero (R97). -/
def Part.counts (x : Part) : Bool := !x.frozen && x.known

/-- Adds `n` to meter `i` of the partition, saturating. -/
def State.charge (s : State) (p i n : Nat) : State :=
  if n = 0 || !(s.part p).counts then s
  else s.modPart p fun x =>
    { x with meters := Sparse.put 0 x.meters i (BitVec.ofNat 64 (Nat.min (2 ^ 64 - 1) ((Sparse.get 0 x.meters i).toNat + n))) }

/-- Bytes read or written at a location, in its memory class (R94). -/
def State.chargeBytes (s : State) (p a : Nat) (write : Bool) (n : Nat) : State :=
  if isHbm a then s.charge p (if write then 9 else 8) n
  else if isSram a then s.charge p 10 n
  else if isEdram a then (if write then s else s.charge p 11 n)
  else if isHostMem a then s.charge p 12 n
  else s

/-! ### Bytes of storage -/

/-- A stored byte, as an unencrypted unit holds it; a byte never written reads zero (log entry 3). -/
def State.raw (s : State) (a : Nat) : Byte := Sparse.get 0 s.mem a

/-- The line of 64 bytes at `line × 64`. -/
def State.rawLine (s : State) (line : Nat) : Vec :=
  BitVec.ofNat 512 (leNat ((List.range 64).map fun i => s.raw (64 * line + i)))

/-- A byte as key `k` reads it (R90, R92): in the SRAM layer, only a line written under `k` decrypts. -/
def State.readByte (s : State) (k a : Nat) : Byte :=
  if isSram a then
    let w := Sparse.get 0 s.keyed (a / 64)
    if w = k + 1 then s.raw a
    else (Config.wrongKey w k (a / 64) (s.rawLine (a / 64))).extractLsb' (8 * (a % 64)) 8
  else s.raw a

/-- Reads `n` bytes at `a` under key `k`, in ascending order. -/
def State.readBytes (s : State) (k a : Nat) : Nat → List Byte
  | 0 => []
  | n + 1 => s.readByte k a :: s.readBytes k (a + 1) n

/-- A little-endian number of `n` bytes. -/
def State.readLE (s : State) (k a n : Nat) : Nat := leNat (s.readBytes k a n)

/-- Stores one byte as it stands. -/
def State.putByte (s : State) (a : Nat) (b : Byte) : State := { s with mem := Sparse.put 0 s.mem a b }

/-- Stores bytes as they stand. -/
def State.putBytes (s : State) (a : Nat) : List Byte → State
  | [] => s
  | b :: r => (s.putByte a b).putBytes (a + 1) r

/-- Brings an SRAM-layer line under key `k`: its other bytes are those that `k` reads (R90). -/
def State.rekey (s : State) (k line : Nat) : State :=
  if Sparse.get 0 s.keyed line = k + 1 then s
  else
    let bs := s.readBytes k (64 * line) 64
    { s.putBytes (64 * line) bs with keyed := Sparse.put 0 s.keyed line (k + 1) }

/-- Writes bytes at `a` under key `k`. The bytes lie within one 64-byte line where `a` is in the SRAM layer. -/
def State.writeBytes (s : State) (k a : Nat) (bs : List Byte) : State :=
  if bs.isEmpty then s
  else if isSram a then (s.rekey k (a / 64)).putBytes a bs
  else s.putBytes a bs

/-- Writes the low `n` bytes of `v` at `a`. -/
def State.writeLE (s : State) (k a n v : Nat) : State := s.writeBytes k a (leBytes n v)

/-- The key of partition `p` (R91). A partition that holds no keys is given an identity that no drawn key has (log entry 20). -/
def State.keyOf (s : State) (p : Nat) : Nat := ((s.part p).key).getD (2 ^ 64 + p)

/-- Zeroes a range of storage. -/
def State.zeroRange (s : State) (lo hi : Nat) : State := { s with mem := Sparse.clear s.mem lo hi }

/-! ### Threads and their registers (R180-R184) -/

def Core.thread (k : Core) (slot : Nat) : Option Thread := Sparse.find? k.slots slot
def State.thread (s : State) (c slot : Nat) : Option Thread := (s.core c).thread slot
def State.setThread (s : State) (c slot : Nat) (t : Thread) : State :=
  s.modCore c fun k => { k with slots := Sparse.insert k.slots slot t }
def State.dropThread (s : State) (c slot : Nat) : State :=
  s.modCore c fun k => { k with slots := Sparse.erase k.slots slot }
/-- Changes the thread of a slot, if there is one. -/
def State.modThread (s : State) (c slot : Nat) (f : Thread → Thread) : State :=
  match s.thread c slot with
  | some t => s.setThread c slot (f t)
  | none => s

/-- The slot of `core` that holds the thread `tid`. -/
def Core.slotOf (k : Core) (tid : Word) : Option Nat := (k.slots.find? (fun e => e.2.tid == tid)).map (·.1)

/-- Where a thread is: core and slot. -/
def State.findThread (s : State) (tid : Word) : Option (Nat × Nat) :=
  s.cores.findSome? fun e => (e.2.slotOf tid).map fun k => (e.1, k)

/-- General register `n`; `g0` reads zero (R181). -/
def Thread.gr (t : Thread) (n : Nat) : Word := if n = 0 then 0 else Sparse.get 0 t.g n
def Thread.vr (t : Thread) (n : Nat) : Vec := Sparse.get 0 t.v n
def Thread.mr (t : Thread) (n : Nat) : Tile := Sparse.get 0 t.m n
def Thread.shape (t : Thread) (n : Nat) : BitVec 32 := Sparse.get 0 t.md n
def Thread.seg (t : Thread) (n : Nat) : Seg := Sparse.get 0 t.sg n

/-- Writes a register and sets it full (R180); a write to `g0` is discarded (R181). -/
def Thread.setG (t : Thread) (n : Nat) (v : Word) : Thread :=
  if n = 0 then t else { t with g := Sparse.put 0 t.g n v, gEmpty := bclr t.gEmpty n }
def Thread.setV (t : Thread) (n : Nat) (v : Vec) : Thread :=
  { t with v := Sparse.put 0 t.v n v, vEmpty := bclr t.vEmpty n }
def Thread.setM (t : Thread) (n : Nat) (v : Tile) : Thread :=
  { t with m := Sparse.put 0 t.m n v, mEmpty := bclr t.mEmpty n }
def Thread.setShape (t : Thread) (n : Nat) (v : BitVec 32) : Thread := { t with md := Sparse.put 0 t.md n v }

/-- Sets a register empty with a result due (R180, R181); `g0` is always full. -/
def Thread.owe (t : Thread) (k : RegKind) (n : Nat) : Thread :=
  match k with
  | .g => if n = 0 then t else { t with gEmpty := bset t.gEmpty n, gDue := bset t.gDue n }
  | .v => { t with vEmpty := bset t.vEmpty n, vDue := bset t.vDue n }
  | .m => { t with mEmpty := bset t.mEmpty n, mDue := bset t.mDue n }
  | .c => t

/-- The due result of a register arrives (R181): it is written, the register is full and nothing is due. -/
def Thread.payG (t : Thread) (n : Nat) (v : Word) : Thread := let t := t.setG n v; { t with gDue := bclr t.gDue n }
def Thread.payV (t : Thread) (n : Nat) (v : Vec) : Thread := let t := t.setV n v; { t with vDue := bclr t.vDue n }
def Thread.payM (t : Thread) (n : Nat) (v : Tile) : Thread := let t := t.setM n v; { t with mDue := bclr t.mDue n }

/-- A result is due to some register. -/
def Thread.due (t : Thread) : Bool := t.gDue != 0 || t.vDue != 0 || t.mDue != 0

/-- Context priority and partition: the context's index 4p + q (R121). -/
def Thread.context (t : Thread) : Nat := 4 * t.part + t.prio.toNat

/-- `psw` (R357). -/
def State.psw (s : State) (t : Thread) : Word :=
  BitVec.ofNat 64 ((if t.mode then 1 else 0) + 2 * t.gcnt.toNat + (if t.gcond then 8 else 0)
    + (if t.region.isSome then 16 else 0) + (if t.chain.isSome then 32 else 0) + 64 * t.prio.toNat
    + (if (s.part t.part).det then 256 else 0))

/-- Adds to a thread counter (R135), modulo 2^64. -/
def Thread.count (t : Thread) (n k : Nat) : Thread :=
  { t with cnt := Sparse.put 0 t.cnt n (Sparse.get 0 t.cnt n + BitVec.ofNat 64 k) }

/-- A register of a parked thread has become full: the thread is eligible from the next cycle (R179). -/
def State.wakeSlot (s : State) (c slot : Nat) : State :=
  s.modThread c slot fun t => if t.avail = .parked then { t with from_ := Nat.max t.from_ (s.now + 1) } else t

/-- The thread re-enters the rotation and is eligible from the next cycle (R179). -/
def State.resume (s : State) (c slot : Nat) : State :=
  s.modThread c slot fun t => { t with avail := .rotation, from_ := Nat.max t.from_ (s.now + 1) }

/-! ### Reservations (R235) -/

/-- The core at which a word is reserved: the channel core of an HBM5 word, the owner of a scratchpad word. -/
def homeCore (a : Nat) : Option Nat :=
  match homeOf a with
  | some (.hbm ch) => some (chanCore ch)
  | some (.spad c) => some c
  | _ => none

/-- A write to bytes `a` to `a + n − 1` clears the reservations of bench cores on a word that holds one of them (R82). -/
def State.clearBench (s : State) (a n : Nat) : State :=
  if s.md.benchLr.isEmpty then s
  else { s with md := { s.md with benchLr := s.md.benchLr.filter fun e => !(e.2 < a + n && a < e.2 + 8) } }

/-- A write performed on bytes `a` to `a + n − 1` clears every reservation on a word that holds one of them. -/
def State.clearResv (s : State) (a n : Nat) : State :=
  let s := s.clearBench a n
  match homeCore a with
  | none => s
  | some c =>
    if (s.core c).slots.any fun e => e.2.resv.isSome then
      s.modCore c fun k => { k with slots := k.slots.map fun e =>
        match e.2.resv with
        | some (w, _) => if w < a + n ∧ a < w + 8 then (e.1, { e.2 with resv := none }) else e
        | none => e }
    else s

/-- A write performed at its home, by whatever agent. -/
def State.store (s : State) (k a : Nat) (bs : List Byte) : State := (s.writeBytes k a bs).clearResv a bs.length

/-! ### Common registers (R185) -/

def Core.common (k : Core) (n : Nat) : Word := Sparse.get 0 k.c n
def Core.setCommon (k : Core) (n : Nat) (v : Word) : Core :=
  { k with c := Sparse.put 0 k.c n v, cEmpty := bclr k.cEmpty n }

/-! ### Core addresses and thread words (R66, R358) -/

/-- The address of a core of this module. -/
def State.coreAddr (s : State) (c : Nat) : Word := BitVec.ofNat 64 (c + s.by_.mod_.toNat * 2 ^ 16)

def threadWord (slot : Nat) (tid : Word) : Word := BitVec.ofNat 64 (slot + 16 * bitsOf tid 42 0)

/-! ### Messages (R46, R189) -/

/-- The port whose permits a core's requests draw on: its cluster's. A channel core lies in no cluster, and draws on a port of its own with
as many permits: DESIGN CHOICE, log entry 91. -/
def permitPort (core : Nat) : Nat := if isChan core then 4096 + (core - 32768) else clusterOf core

/-- Sends a message of a unit: one of core `src` or of its cluster waits for a permit of the core's port (R47), and of a unit that lies in
no cluster needs none. Among those that began to wait in one cycle it stands at slot 0 of the core, a trap report too: DESIGN CHOICE, log
entry 115. -/
def State.postOwn (s : State) (p : Nat) (frm : MsgFrom) (src : Option Nat) (target : Nat) (body : MsgBody) : State :=
  let m : Msg := { id := s.fresh, part := p, from_ := none, src := src, slot := 0, via := src.map permitPort, permit := src.isNone,
                   asked := s.now, way := .port, frm := frm, target := target, away := none, rel := none, body := body, dom := 0, lost := false }
  { s with fresh := s.fresh + 1, net := { s.net with msgs := s.net.msgs ++ [m] } }

/-- An access that hardware makes for itself is over, or given up; a line of it that is under way ends at its home. -/
def State.dropTicket (s : State) (key : Errand) : State :=
  s.modNet fun n => { n with tickets := n.tickets.filterMap fun k =>
    if k.key != key then some k else if k.st = .goes then some { k with key := .over } else none }

/-- A read of another module's memory that hardware makes for itself is over, or given up. -/
def State.dropFar (s : State) (key : Errand) : State := s.modNet fun n => { n with accs := n.accs.filter fun a => a.cont != .errand key }

/-- A thread's own reads of a header, a slice or page-table entries are given up. -/
def State.dropErrands (s : State) (c slot : Nat) : State :=
  (((s.dropTicket (.header c slot)).dropTicket (.slice c slot)).dropTicket (.lease c slot)).dropFar (.header c slot)

/-- The thread waits no more for its instruction line. -/
def State.endFetch (s : State) (c slot : Nat) : State :=
  ((s.modCore c fun k => { k with fetching := Sparse.erase k.fetching slot }).dropTicket (.line c slot)).dropFar (.line c slot)

/-- An access of the slot's thread to a slice or to page-table entries is under way (R355). -/
def State.awaits (s : State) (c slot : Nat) : Bool :=
  s.net.tickets.any fun k => k.key == .header c slot || k.key == .slice c slot || k.key == .lease c slot

/-! ### Leaves and requests for leave (R10, R419) -/

/-- The end of a leave subtracts its charge (R419). -/
def State.endLeave (s : State) (id : Nat) : State :=
  match s.layers.find? fun e => e.2.leaves.any (·.id == id) with
  | some (l, _) => s.modLayer l fun y => { y with leaves := y.leaves.filter (·.id != id) }
  | none => s

/-- The request was made by the thread's own CHB or MMA form. -/
def GovReq.implicitBy (r : GovReq) (tid : Word) : Bool :=
  match r.who with
  | .chain _ _ u => u == tid
  | .mma _ _ u => u == tid
  | _ => false

/-- A thread gives up an instruction that asks: a leave granted to its CHB or MMA form ends, and a request that waits is withdrawn; the
instruction asks anew, which may count another deferral. Of a LEAVE the answer is dropped, and its request or charge stands: DESIGN CHOICE, log
entry 98. -/
def State.stopAsking (s : State) (t : Thread) : State :=
  match t.asking with
  | .granted id => s.endLeave id
  | .asked =>
    match s.layers.find? fun e => (e.2.asks ++ e.2.queue).any (·.implicitBy t.tid) with
    | some (l, _) => s.modLayer l fun y => { y with asks := y.asks.filter fun r => !r.implicitBy t.tid,
                                                    queue := y.queue.filter fun r => !r.implicitBy t.tid }
    | none => s
  | _ => s

/-- A Col write of the thread that waits for its queue is given up; the instruction comes to the queue anew (R29). -/
def State.dropColWait (s : State) (c : Nat) (tid : Word) : State :=
  if (s.tower (towerOf c)).waiting.any fun w => w.w.tid == tid then
    s.modTower (towerOf c) fun t => { t with waiting := t.waiting.filter fun w => w.w.tid != tid }
  else s

/-- The thread waits in no STABW, and no word is kept for it (R167). -/
def State.dropStab (s : State) (tid : Word) : State :=
  if (s.life tid).inStabw then s.modLife tid fun l => { l with inStabw := false, stab := none } else s

/-- A thread of core `c` gives up the instruction that it has not issued. -/
def State.giveUp (s : State) (c : Nat) (t : Thread) : State := ((s.stopAsking t).dropColWait c t.tid).dropStab t.tid

/-! ### Traps (R363, R364) -/

/-- The general payload of a trap report. -/
def reportWords (s : State) (cause : Nat) (g1 g2 pc : Word) (word : IWord) (tword : Word) (core : Nat) : List Word :=
  let precise := (1 ≤ cause && cause ≤ 9) || cause == 0xC
  [g1, g2, BitVec.ofNat 64 (cause + if precise then 256 else 0), pc, word.setWidth 64, tword, s.coreAddr core]

/-- Sends a trap report (type 0x06): to the core itself, or from a channel core to the lowest-numbered core of the
partition (R195, R363). -/
def State.report (s : State) (p core : Nat) (ws : List Word) : State :=
  let target := if isChan core then (s.part p).base else core
  s.postOwn p .core (some core) target (.table 6 ws [])

/-- A report for which no thread stops (causes 0x10-0x12, and 0x0D for a common register). -/
def State.reportCore (s : State) (p core cause : Nat) (g1 g2 : Word) : State :=
  s.report p core (reportWords s cause g1 g2 0 0 0 core)

/-- TAKING A TRAP (R363, R364): the thread leaves the rotation with its registers, full bits and `psw` as they stood,
keeps `rpc`, gives up what its instruction waits for, loses its reservation (R235), and a report goes out with the reported PC and word. -/
def State.trapThread (s : State) (c slot : Nat) (rpc : Word) (cause : Nat) (g1 g2 pc : Word) (word : IWord) : State :=
  match s.thread c slot with
  | none => s
  | some t =>
    let s := ((s.giveUp c t).dropErrands c slot).setThread c slot { t with avail := .trapped rpc (cause == 9), resv := none, asking := .no, fence := none }
    s.report t.part c (reportWords s cause g1 g2 pc word (threadWord slot t.tid) c)

/-- RETURNING FROM A TRAP (R365): `retry` resumes at RPC, `skip` after it with one place of the guard window used. -/
def Thread.eret (t : Thread) (rpc : Word) (skip : Bool) (now : Nat) : Thread :=
  { t with
    avail := .rotation
    pc := if skip then rpc + 4 else rpc
    gcnt := if skip ∧ t.gcnt ≠ 0 then t.gcnt - 1 else t.gcnt
    from_ := Nat.max t.from_ (now + 1) }

end Sys2Proof.Machine
end

