-- ==== Sys2Proof/Machine/Num.lean ====
section
/-! DEFINITION. Number formats and exact arithmetic (R239-R254): exact values, the two register formats, narrow codes
and block scales, reductions, the placement hash and the keyed mixer. -/

namespace Sys2Proof.Machine

/-! ### Exact values -/

namespace Exact

def zero (neg : Bool) : XVal := .fin neg 0 0

def isNan : XVal → Bool
  | .nan => true
  | _ => false

def isInf : XVal → Bool
  | .inf _ => true
  | _ => false

def isZero : XVal → Bool
  | .fin _ 0 _ => true
  | _ => false

def isNeg : XVal → Bool
  | .nan => false
  | .inf n => n
  | .fin n _ _ => n

def neg : XVal → XVal
  | .nan => .nan
  | .inf n => .inf (!n)
  | .fin n m e => .fin (!n) m e

def abs : XVal → XVal
  | .nan => .nan
  | .inf _ => .inf false
  | .fin _ m e => .fin false m e

/-- An integer times 2^e. -/
def ofInt (i : Int) (e : Int) : XVal := .fin (i < 0) i.natAbs e

/-- Signed magnitude of a finite value on the grid 2^e, for e no larger than its own exponent. -/
def onGrid (n : Bool) (m : Nat) (e e0 : Int) : Int :=
  let k := (m * 2 ^ (e - e0).toNat : Nat)
  if n then -(k : Int) else k

/-- The exact sum; an exact zero is +0 unless both terms are −0 (R239, R252). -/
def add : XVal → XVal → XVal
  | .nan, _ => .nan
  | _, .nan => .nan
  | .inf a, .inf b => if a = b then .inf a else .nan
  | .inf a, .fin .. => .inf a
  | .fin .., .inf b => .inf b
  | .fin a m e, .fin b n f =>
    if m = 0 ∧ n = 0 then .fin (a && b) 0 0
    else
      let g := min e f
      ofInt (onGrid a m e g + onGrid b n f g) g

/-- The exact product: ∞ times zero is NaN, and the sign is the XOR of the signs (R250). -/
def mul : XVal → XVal → XVal
  | .nan, _ => .nan
  | _, .nan => .nan
  | .inf a, .inf b => .inf (a ^^ b)
  | .inf a, .fin b n _ => if n = 0 then .nan else .inf (a ^^ b)
  | .fin a m _, .inf b => if m = 0 then .nan else .inf (a ^^ b)
  | .fin a m e, .fin b n f => .fin (a ^^ b) (m * n) (e + f)

/-- Times 2^k. -/
def scale (x : XVal) (k : Int) : XVal :=
  match x with
  | .fin n m e => .fin n m (e + k)
  | y => y

/-- Order by numeric value; none when either is NaN (R289). -/
def cmp : XVal → XVal → Option Ordering
  | .nan, _ => none
  | _, .nan => none
  | .inf a, .inf b => some (if a = b then .eq else if a then .lt else .gt)
  | .inf a, .fin .. => some (if a then .lt else .gt)
  | .fin .., .inf b => some (if b then .gt else .lt)
  | .fin a m e, .fin b n f =>
    let g := min e f
    some (compare (onGrid a m e g) (onGrid b n f g))

end Exact

/-! ### Rounding -/

/-- Nearest-even choice: `hi` or `hi + 1`, by the remainder `rem` of `den`, with `more` for a non-zero tail below it. -/
def nearestEven (hi rem den : Nat) (more : Bool) : Nat :=
  if 2 * rem > den || (2 * rem == den && (more || hi % 2 == 1)) then hi + 1 else hi

/-- A significand and its exponent after rounding m × 2^e (with a non-zero tail below the last bit of `m` when `more`)
to `p` fraction bits, subnormals kept on the grid 2^(emin − p). -/
def roundSig (p : Nat) (emin : Int) (m : Nat) (e : Int) (more : Bool) : Nat × Int :=
  if m = 0 then (0, emin - p)
  else
    let q := max ((Nat.log2 m : Int) + e - p) (emin - p)
    if q ≤ e then (m * 2 ^ (e - q).toNat, q)
    else
      let k := (q - e).toNat
      (nearestEven (m / 2 ^ k) (m % 2 ^ k) (2 ^ k) more, q)

/-- The bits of an 8-bit-exponent format with `p` fraction bits: RNE, overflow to ∞, subnormals kept (R239). `more`
says that a non-zero tail lies below the last bit of `m`; `m` has then more than `p` + 2 bits. -/
def packFloat (p : Nat) (neg : Bool) (m : Nat) (e : Int) (more : Bool) : Nat :=
  let sign := if neg then 2 ^ (p + 8) else 0
  let (sig, q) := roundSig p (-126) m e more
  let (sig, q) := if sig = 2 ^ (p + 1) then (2 ^ p, q + 1) else (sig, q)
  if sig < 2 ^ p then sign + sig
  else
    let x := q + p + 127
    if x ≥ 255 then sign + 255 * 2 ^ p else sign + x.toNat * 2 ^ p + (sig - 2 ^ p)

/-- The exact value of the bits of such a format. -/
def unpackFloat (p : Nat) (v : Nat) : XVal :=
  let neg := (v / 2 ^ (p + 8)) % 2 == 1
  let x := (v / 2 ^ p) % 256
  let f := v % 2 ^ p
  if x = 255 then (if f = 0 then .inf neg else .nan)
  else if x = 0 then .fin neg f (-126 - p)
  else .fin neg (2 ^ p + f) ((x : Int) - 127 - p)

/-- An FP32 or BF16 value as an exact value (R239, R240). -/
def ofFp32 (v : BitVec 32) : XVal := unpackFloat 23 v.toNat
def ofBf16 (v : BitVec 16) : XVal := unpackFloat 7 v.toNat

/-- RoundNE to FP32; every NaN is canonical (R239). -/
def toFp32 : XVal → BitVec 32
  | .nan => 0x7FC00000
  | .inf n => if n then 0xFF800000 else 0x7F800000
  | .fin n m e => BitVec.ofNat 32 (packFloat 23 n m e false)

/-- RoundNE to BF16. -/
def toBf16 : XVal → BitVec 16
  | .nan => 0x7FC0
  | .inf n => if n then 0xFF80 else 0x7F80
  | .fin n m e => BitVec.ofNat 16 (packFloat 7 n m e false)

/-- RoundNE of num / den × 2^e to `p` fraction bits. -/
def packRatio (p : Nat) (neg : Bool) (num den : Nat) (e : Int) : Nat :=
  let k := p + 4 + Nat.log2 den
  packFloat p neg (num * 2 ^ k / den) (e - k) (num * 2 ^ k % den != 0)

/-- Integer square root, by `fuel` bits from the top. -/
def isqrtAux : Nat → Nat → Nat → Nat
  | 0, _, r => r
  | k + 1, n, r =>
    let c := r + 2 ^ k
    isqrtAux k n (if c * c ≤ n then c else r)

def isqrt (n : Nat) : Nat := isqrtAux (Nat.log2 n / 2 + 1) n 0

/-! ### Narrow formats (R241-R243, R248) -/

structure Fmt where
  width : Nat
  sign  : Bool
  exp   : Nat
  bias  : Int
  spec  : Nat
  sub   : Bool
  rz    : Bool
  deriving DecidableEq, Repr

/-- The fields of a format word (R241). -/
def Fmt.ofWord (w : BitVec 32) : Fmt :=
  { width := bitsOf w 3 0, sign := w.getLsbD 4, exp := bitsOf w 7 5, bias := (w.extractLsb' 8 8).toInt, spec := bitsOf w 17 16,
    sub := w.getLsbD 18, rz := w.getLsbD 19 }

/-- Mantissa bits. -/
def Fmt.man (f : Fmt) : Nat := f.width - (if f.sign then 1 else 0) - f.exp

/-- R242: whether an instruction may use the word. -/
def fmtOk (w : BitVec 32) : Bool :=
  let f := Fmt.ofWord w
  w != 0 && 2 ≤ f.width && f.width ≤ 8 && (if f.sign then 1 else 0) + f.exp ≤ f.width && f.spec != 3
    && !(f.spec == 1 && (f.exp < 2 || f.man < 1)) && !(f.spec == 2 && !f.sign)
    && !(f.exp == 0 && (f.spec != 0 || f.sub)) && bitsOf w 31 20 == 0

/-- Decode(f, c) (R243). -/
def Fmt.decode (f : Fmt) (c : Nat) : XVal :=
  let m := f.man
  if f.exp = 0 then
    let i : Int := if f.sign ∧ c ≥ 2 ^ (f.width - 1) then (c : Int) - 2 ^ f.width else c
    Exact.ofInt i (-f.bias)
  else
    let s := f.sign && c / 2 ^ (f.width - 1) % 2 == 1
    let x := c / 2 ^ m % 2 ^ f.exp
    let t := c % 2 ^ m
    if f.spec = 2 ∧ c = 2 ^ (f.width - 1) then .nan
    else if f.spec = 1 ∧ x = 2 ^ f.exp - 1 then (if t = 0 then .inf s else .nan)
    else if x = 0 then
      if f.sub then .fin s t (1 - f.bias - m) else .fin s 0 0
    else .fin s (2 ^ m + t) ((x : Int) - f.bias - m)

/-- Code of a sign, exponent field and mantissa field. -/
def Fmt.code (f : Fmt) (s : Bool) (x t : Nat) : Nat :=
  (if s && f.sign then 2 ^ (f.width - 1) else 0) + x * 2 ^ f.man + t

/-- The code of MaxFinite, as significand bits without sign (R243). -/
def Fmt.maxCode (f : Fmt) : Nat :=
  if f.spec = 1 then (2 ^ f.exp - 2) * 2 ^ f.man + (2 ^ f.man - 1)
  else 2 ^ (f.exp + f.man) - 1

/-- Code of ±MaxFinite; a negative integer is its two's complement. -/
def Fmt.limit (f : Fmt) (s : Bool) : Nat :=
  if f.exp = 0 ∧ s ∧ f.sign then 2 ^ f.width - f.maxCode else f.maxCode + if s && f.sign then 2 ^ (f.width - 1) else 0

/-- num × 2^e / den on the grid 2^q: RNE or toward zero. -/
def gridRound (rz : Bool) (num den : Nat) (e q : Int) : Nat :=
  let a := num * 2 ^ (e - q).toNat
  let b := den * 2 ^ (q - e).toNat
  if rz then a / b else nearestEven (a / b) (a % b) b false

/-- floor(log2(num × 2^e / den)) for num ≠ 0. -/
def ratioLog (num den : Nat) (e : Int) : Int :=
  let k := Nat.log2 den + 1
  (Nat.log2 (num * 2 ^ k / den) : Int) - k + e

/-- The code of a finite non-negative x = num / den × 2^e with sign `s` (R248, from RoundToGrid on). -/
def Fmt.encodeFin (f : Fmt) (s : Bool) (num den : Nat) (e : Int) : Nat :=
  if f.sign = false ∧ s ∧ num ≠ 0 then 0
  else if f.exp = 0 then
    let y := gridRound f.rz num den e (-f.bias)
    if y > f.maxCode then f.limit s
    else if s ∧ y ≠ 0 then 2 ^ f.width - y else y
  else
    let lo := 1 - f.bias - f.man
    let q := if num = 0 then lo else max (ratioLog num den e - f.man) lo
    let n := gridRound f.rz num den e q
    -- With SUB = 0 the grid below the smallest normal holds only zero; a tie goes to zero.
    let n :=
      if f.sub = false ∧ q = lo ∧ (num = 0 ∨ ratioLog num den e < 1 - f.bias) then
        if f.rz then 0
        else if num * 2 ^ (e - (lo + f.man - 1)).toNat > den * 2 ^ (lo + f.man - 1 - e).toNat then 2 ^ f.man else 0
      else n
    let (n, q) := if n ≥ 2 ^ (f.man + 1) then (n / 2, q + 1) else (n, q)
    if n = 0 then (if s ∧ f.sign ∧ f.spec ≠ 2 then 2 ^ (f.width - 1) else 0)
    else
      let x := if n ≥ 2 ^ f.man then (q + f.bias + f.man).toNat else 0
      let c := x * 2 ^ f.man + (if n ≥ 2 ^ f.man then n - 2 ^ f.man else n)
      if c > f.maxCode then
        if f.spec = 1 ∧ f.rz = false then f.code s (2 ^ f.exp - 1) 0 else f.limit s
      else c + if s && f.sign then 2 ^ (f.width - 1) else 0

/-! ### Block scales (R244, R245) -/

/-- The unit scale, exactly 1.0 (R244). -/
def unitScale : BitVec 20 := 0x0007F

/-- The scale's factor for element `i` of its block, as (numerator, exponent): (16 + M) × 2^…. -/
def scaleFactor (s : BitVec 20) (i : Nat) : Nat × Int :=
  (16 + bitsOf s 11 8, (bitsOf s 7 0 : Int) - 127 - 4 - (if s.getLsbD (12 + i / 2) then 1 else 0))

/-- Scaled(f, c, s, i) (R244). -/
def scaled (f : Fmt) (c : Nat) (s : BitVec 20) (i : Nat) : XVal :=
  if bitsOf s 7 0 = 0xFF then .nan
  else
    let (n, e) := scaleFactor s i
    match f.decode c with
    | .fin neg m x => .fin neg (m * n) (x + e)
    | y => y

/-- Encode(f, r / factor) (R248). -/
def Fmt.encode (f : Fmt) (r : XVal) (s : BitVec 20) (i : Nat) : Nat :=
  let nanCode :=
    if f.spec = 1 then f.code false (2 ^ f.exp - 1) (2 ^ (f.man - 1))
    else if f.spec = 2 then 2 ^ (f.width - 1) else 0
  if bitsOf s 7 0 = 0xFF then nanCode
  else
    match r with
    | .nan => nanCode
    | .inf n =>
      if f.sign = false ∧ n then 0
      else if f.spec = 1 then f.code n (2 ^ f.exp - 1) 0
      else f.limit n
    | .fin n m e =>
      let (k, x) := scaleFactor s i
      f.encodeFin n m k (e - x)

/-- Byte range [first, count] of a 20-byte scale group that holds scale `b`, from the pointer (R245). -/
def scaleByte (b : Nat) : Nat := 20 * (b / 8) + (20 * (b % 8)) / 8

/-- The scale `b` from the 3 bytes that hold it, starting at `scaleByte b`. -/
def scaleOf (three : Nat) (b : Nat) : BitVec 20 := BitVec.ofNat 20 (three / 2 ^ ((20 * (b % 8)) % 8))

/-- Code `i` of a group of `W`-bit codes held in a little-endian number (R300). -/
def codeOf (w v i : Nat) : Nat := v / 2 ^ (w * i) % 2 ^ w

/-- Codes packed little-endian, `W` bits each. -/
def packCodes (w : Nat) : List Nat → Nat
  | [] => 0
  | c :: r => c + 2 ^ w * packCodes w r

/-! ### Placement hash and keyed mixer (R253, R254) -/

/-- PHASH(x). -/
def phash (x : Word) : Word :=
  let h := x ^^^ (x >>> 31)
  let h := h * 0xD6E8FEB86659FD93
  let h := h ^^^ (h >>> 29)
  let h := h * 0xA5CB3E9124F70D6B
  h ^^^ (h >>> 32)

/-- One round of RNDK on (x, k). -/
def rndkRound (st : Word × Word) : Word × Word :=
  let (x, k) := st
  let x := x + k
  let x := x ^^^ (x >>> 32)
  let x := x * 0xD6E8FEB86659FD93
  let x := x ^^^ (x >>> 29)
  (x, k.rotateLeft 17 + 0x7B2C4E91D35A60F7)

/-- RNDK(k, c). -/
def rndk (k c : Word) : Word := (rndkRound (rndkRound (rndkRound (rndkRound (c, k))))).1

end Sys2Proof.Machine
end

