-- ==== Sys2Proof/Machine/Operands.lean ====
section
/-! DEFINITION. What every Wiltik instruction shares: the registers it names and their checks (R180, R181, R184), the
ways its attempt can end (R175-R179, R355, R412), the operand forms, and how an attempt changes the thread. -/

namespace Sys2Proof.Machine

/-- The registers an instruction names: read, written, and named in a field it ignores. Shape words are allocated with
their tiles (R184). -/
structure Names where
  gR : List Nat := []
  gW : List Nat := []
  gN : List Nat := []
  vR : List Nat := []
  vW : List Nat := []
  vN : List Nat := []
  mR : List Nat := []
  mW : List Nat := []
  mN : List Nat := []
  deriving DecidableEq, Repr

/-- Every named register lies within the thread's allocation (R184). -/
def Thread.holds (t : Thread) (u : Names) : Bool :=
  (u.gR ++ u.gW ++ u.gN).all (· < t.gregs) && (u.vR ++ u.vW ++ u.vN).all (· < t.vregs)
    && (u.mR ++ u.mW ++ u.mN).all (· < t.tiles)

/-- The instruction would read an empty register or write one with a result due (R180, R181); `g0` is always full. -/
def Thread.parks (t : Thread) (u : Names) : Bool :=
  u.gR.any (fun n => n != 0 && t.gEmpty.getLsbD n) || u.gW.any (fun n => n != 0 && t.gDue.getLsbD n)
    || u.vR.any (t.vEmpty.getLsbD ·) || u.vW.any (t.vDue.getLsbD ·)
    || u.mR.any (t.mEmpty.getLsbD ·) || u.mW.any (t.mDue.getLsbD ·)

/-- A register that the instruction reads or writes is empty, or has a result due; one in a field that it ignores is not among those that it
names here: DEDUCED, log entry 126. -/
def Thread.lacks (t : Thread) (u : Names) : Bool :=
  (u.gR ++ u.gW).any (fun n => n != 0 && (t.gEmpty ||| t.gDue).getLsbD n)
    || (u.vR ++ u.vW).any ((t.vEmpty ||| t.vDue).getLsbD ·) || (u.mR ++ u.mW).any ((t.mEmpty ||| t.mDue).getLsbD ·)

/-- The thread does not issue for its registers: one in the rotation parks, and one that is parked stays so until every register that its
instruction names is full and has no result due (R179). -/
def Thread.blocked (t : Thread) (u : Names) : Bool := if t.avail = .parked then t.lacks u else t.parks u

/-- How an attempt to issue ends. -/
inductive Out where
  /-- Issues and retires; the thread goes on at the next word. -/
  | retire (s : State)
  /-- Issues and retires with the PC set (a taken jump). -/
  | goto (s : State) (pc : Word)
  /-- Issues as a compare: the guard window is opened (R290). -/
  | window (s : State) (n : BitVec 2) (c : Bool)
  /-- Issues and retires, and records its last issue as eight cycles later (R362). -/
  | late (s : State)
  /-- Issues; the thread is out of the rotation until its reply, and retires then (R297). -/
  | start (s : State) (a : Avail)
  /-- Issues, and its reply has already come: the thread has been advanced. -/
  | settled (s : State)
  /-- Issues and ends the thread or carries it away; counted in meter 5 for the partition. -/
  | gone (s : State)
  /-- Uses the cycle and is not counted: the thread has migrated and reissues elsewhere (R192). -/
  | moved (s : State)
  /-- Uses the cycle: the thread is dropped on a page fault with this token (R219). -/
  | drop (s : State) (token : Nat)
  /-- Precise trap (R266, R412). -/
  | trap (cause : Nat) (g1 g2 : Word)
  /-- Precise trap that leaves what the attempt's walks have read and counted (R211, R218). -/
  | trapIn (s : State) (cause : Nat) (g1 g2 : Word)
  /-- Does not issue: parked on a register, JOIN, a barrier (R179). -/
  | park
  /-- Does not issue: parked, with what the wait has set going (a barrier). -/
  | wait (s : State)
  /-- Does not issue: out of the rotation, admission. The state carries what the wait has set going. -/
  | admission (s : State)
  /-- Does not issue: out of the rotation, memory, until a fence's condition holds. -/
  | fence (s : State)

/-- The cycle has been used (R176, R412). -/
def State.use (s : State) : State := { s with cur := { s.cur with used := true } }

/-- Records an issue in the thread: last issue (R175), counters 0 and 1 (R135). -/
def Thread.issued (t : Thread) (slot now : Nat) : Thread :=
  let t := { t with last := now + 1 }.count 0 1
  if now % 16 = slot then t else t.count 1 1

/-- Retirement (R290): the next word, and one place of the guard window used. -/
def Thread.advance (t : Thread) : Thread :=
  { t with pc := t.pc + 4, gcnt := if t.gcnt = 0 then 0 else t.gcnt - 1, avail := .rotation }

/-- Retirement of a taken jump. -/
def Thread.jumpTo (t : Thread) (pc : Word) : Thread :=
  { t with pc := pc, gcnt := if t.gcnt = 0 then 0 else t.gcnt - 1, avail := .rotation }

/-- Retirement of a compare: its window replaces any other (R290). -/
def Thread.openWindow (t : Thread) (n : BitVec 2) (c : Bool) : Thread :=
  { t with pc := t.pc + 4, gcnt := n, gcond := c, avail := .rotation }

/-- The state after an attempt at the current core and slot by the thread `t`, in the state `s0`. -/
def finish (s0 : State) (t : Thread) (o : Out) : State :=
  let c := s0.cur.core
  let k := s0.cur.slot
  let now := s0.now
  match o with
  | .retire s => ((s.modThread c k fun t => (t.issued k now).advance).charge t.part 5 1).use
  | .goto s pc => ((s.modThread c k fun t => (t.issued k now).jumpTo pc).charge t.part 5 1).use
  | .window s n b => ((s.modThread c k fun t => (t.issued k now).openWindow n b).charge t.part 5 1).use
  | .late s => ((s.modThread c k fun t => { (t.issued k now).advance with last := now + 9 }).charge t.part 5 1).use
  | .start s a => ((s.modThread c k fun t => { t.issued k now with avail := a }).charge t.part 5 1).use
  | .settled s => ((s.modThread c k fun t => t.issued k now).charge t.part 5 1).use
  | .gone s => (s.charge t.part 5 1).use
  | .moved s => s.use
  | .drop s token => (s.modThread c k fun t => { t with avail := .dropped token, last := now + 1 }).use
  | .trap cause g1 g2 =>
    ((s0.setThread c k { t with last := now + 1 }).trapThread c k t.pc cause g1 g2 t.pc s0.cur.word).use
  | .trapIn s cause g1 g2 => ((s.modThread c k fun t => { t with last := now + 1 }).trapThread c k t.pc cause g1 g2 t.pc s0.cur.word).use
  | .park => s0.setThread c k { t with avail := .parked }
  | .wait s => s.modThread c k fun t => { t with avail := .parked }
  | .admission s => s.modThread c k fun t => { t with avail := .admission }
  | .fence s => s.modThread c k fun t => { t with avail := .fence }

/-- An attempt by the thread in the current slot: allocation (R184), then full bits (R180), then the instruction's own
checks and effect. With no thread there nothing happens. -/
def issue (s : State) (u : Names) (f : Thread → Out) : Host.Outcome State Fault Refusal :=
  match s.thread s.cur.core s.cur.slot with
  | none => .next s
  | some t =>
    .next (finish s t (if t.holds u then (if t.blocked u then .park else f t) else .trap 2 0 0))

/-- As `issue`, with the registers that are named depending on the thread's shape words and state. -/
def issueT (s : State) (u : Thread → Names) (f : Thread → Out) : Host.Outcome State Fault Refusal :=
  match s.thread s.cur.core s.cur.slot with
  | none => .next s
  | some t => issue s (u t) f

/-- Changes the thread in the current slot. -/
def State.here (s : State) (f : Thread → Thread) : State := s.modThread s.cur.core s.cur.slot f

/-- Closes any open idempotent region (R142). -/
def Thread.closeRegion (t : Thread) : Thread := { t with region := none }

/-! ### Operand forms -/

/-- A fixed-latency result in g[D] of a function of g[A] and g[B] (F-R). -/
def alu2 (s : State) (d a b : BitVec 5) (f : Word → Word → Word) : Host.Outcome State Fault Refusal :=
  issue s { gR := [a.toNat, b.toNat], gW := [d.toNat] } fun t =>
    .retire (s.here (·.setG d.toNat (f (t.gr a.toNat) (t.gr b.toNat))))

/-- A fixed-latency result in g[D] of a function of g[A]; an unused field holds 0, which `g0` covers. -/
def alu1 (s : State) (d a : BitVec 5) (f : Word → Word) : Host.Outcome State Fault Refusal :=
  issue s { gR := [a.toNat], gW := [d.toNat] } fun t => .retire (s.here (·.setG d.toNat (f (t.gr a.toNat))))

/-- A fixed-latency result of g[D], g[A] and g[B]. -/
def alu3 (s : State) (d a b : BitVec 5) (f : Word → Word → Word → Word) : Host.Outcome State Fault Refusal :=
  issue s { gR := [d.toNat, a.toNat, b.toNat], gW := [d.toNat] } fun t =>
    .retire (s.here (·.setG d.toNat (f (t.gr d.toNat) (t.gr a.toNat) (t.gr b.toNat))))

/-- IMM16 sign-extended and zero-extended (R258). -/
def immS (i : BitVec 16) : Word := i.signExtend 64
def immZ (i : BitVec 16) : Word := i.setWidth 64

/-- The F-M offset: g[A] + OFF × size modulo 2^64, OFF signed (R260, R296). -/
def memOffset (base : Word) (o : BitVec 10) (size : Nat) : Word := base + o.signExtend 64 * BitVec.ofNat 64 size

/-- Fields of a segment (R200). -/
def segBase (g : Seg) : Nat := 64 * bitsOf g 51 6
def segLimit (g : Seg) : Nat := bitsOf g 103 64
def segR (g : Seg) : Bool := g.getLsbD 104
def segW (g : Seg) : Bool := g.getLsbD 105
def segX (g : Seg) : Bool := g.getLsbD 106
def segA (g : Seg) : Bool := g.getLsbD 107
def segN (g : Seg) : Bool := g.getLsbD 108
def segC (g : Seg) : Bool := g.getLsbD 109

/-- A descriptor as a segment register holds it: reserved bits are ignored when it is loaded (R200). -/
def segClean (g : Seg) : Seg := g &&& 0x3FFFFFFFFFFF000FFFFFFFFFFFC0

end Sys2Proof.Machine
end

