-- ==== Sys2Proof/Machine/Translate.lean ====
section
/-! DEFINITION. Leased translation (R210-R218): the walk, the two levels of translation buffer, and hotness counters. -/

namespace Sys2Proof.Machine

/-- Fields of a page-table entry (R212). -/
def pteV (e : Word) : Bool := e.getLsbD 0
def pteLeaf (e : Word) : Bool := e.getLsbD 1
def pteSize (e : Word) : Nat := bitsOf e 4 2
def pteLC (e : Word) : Nat := bitsOf e 8 5
def pteR (e : Word) : Bool := e.getLsbD 9
def pteW (e : Word) : Bool := e.getLsbD 10
def pteA (e : Word) : Bool := e.getLsbD 11
def pteFrame (e : Word) : Nat := bitsOf e 41 12
def pteMod (e : Word) : Nat := bitsOf e 63 42

/-- Rights that an access needs of its page (R201). -/
structure Need where
  r : Bool
  w : Bool
  a : Bool
  /-- LEASE: read or write (R201). -/
  any : Bool := false
  deriving DecidableEq, Repr

def Need.read : Need := { r := true, w := false, a := false }
def Need.write : Need := { r := false, w := true, a := false }
def Need.rwa : Need := { r := true, w := true, a := true }
def Need.lr : Need := { r := true, w := false, a := true }
def Need.sc : Need := { r := false, w := true, a := true }
def Need.lease : Need := { r := false, w := false, a := false, any := true }

def Need.metBy (n : Need) (e : Word) : Bool :=
  (!n.r || pteR e) && (!n.w || pteW e) && (!n.a || pteA e) && (!n.any || pteR e || pteW e)

/-- What a translation gives. -/
inductive Trans where
  /-- Module, local physical address, expiry (R211, R214). -/
  | ok (mod_ : Nat) (pa : Nat) (expiry : Nat)
  /-- Page fault: malformed entry or invalid entry (R220 CAUSE). -/
  | fault (malformed : Bool)
  /-- The leaf lacks a right (R212). -/
  | rights
  deriving DecidableEq, Repr

/-- Reads a table entry: an 8-byte read of HBM5, metered (R211); none outside local HBM5, which is malformed. It is made at once, with no
permit, crossing or turn: DESIGN CHOICE, log entry 116. -/
def State.readPte (s : State) (p a : Nat) : Option Word × State :=
  if isHbm a && isHbm (a + 7) then (some (BitVec.ofNat 64 (s.readLE 0 a 8)), s.charge p 8 8) else (none, s)

/-- The walk of R211: the leaf and the address it was read at, or whether the fault is of a malformed entry. -/
def State.walk (s : State) (p va : Nat) : Except Bool (Word × Nat) × State :=
  let root := (s.aux p).ptroot
  if root.getLsbD 0 = false then (.error false, s)
  else
    let a0 := bitsOf root 41 13 * 2 ^ 13 + 8 * (va / 2 ^ 38 % 1024)
    match s.readPte p a0 with
    | (none, s) => (.error true, s)
    | (some e0, s) =>
      if !pteV e0 then (.error false, s)
      else if pteLeaf e0 || pteFrame e0 % 8 ≠ 0 then (.error true, s)
      else
        let a1 := pteFrame e0 * 2 ^ 12 + 8 * (va / 2 ^ 26 % 4096)
        match s.readPte p a1 with
        | (none, s) => (.error true, s)
        | (some e1, s) =>
          if !pteV e1 then (.error false, s)
          else if pteLeaf e1 then (if pteSize e1 ≠ 7 then (.error true, s) else (.ok (e1, a1), s))
          else if pteFrame e1 % 32 ≠ 0 then (.error true, s)
          else
            let a2 := pteFrame e1 * 2 ^ 12 + 8 * (va / 2 ^ 12 % 16384)
            match s.readPte p a2 with
            | (none, s) => (.error true, s)
            | (some e2, s) =>
              if !pteV e2 then (.error false, s)
              else if !pteLeaf e2 || pteSize e2 = 7 || pteFrame e2 % 4 ^ pteSize e2 ≠ 0 then (.error true, s)
              else (.ok (e2, a2), s)

/-- The addresses of the entries that a walk reads, as the tables stand (R211). -/
def State.walkAddrs (s : State) (p va : Nat) : List Nat :=
  let root := (s.aux p).ptroot
  let pte (a : Nat) : Word := BitVec.ofNat 64 (s.readLE 0 a 8)
  let a0 := bitsOf root 41 13 * 2 ^ 13 + 8 * (va / 2 ^ 38 % 1024)
  let a1 := pteFrame (pte a0) * 2 ^ 12 + 8 * (va / 2 ^ 26 % 4096)
  let a2 := pteFrame (pte a1) * 2 ^ 12 + 8 * (va / 2 ^ 12 % 16384)
  let goes (e : Word) (k : Nat) : Bool := pteV e && !pteLeaf e && pteFrame e % k == 0
  if root.getLsbD 0 = false then []
  else (a0 :: if goes (pte a0) 8 then a1 :: (if goes (pte a1) 32 then [a2] else []) else []).takeWhile isHbm

/-- The lines of those entries, with their homes. -/
def State.walkLines (s : State) (p va : Nat) : List (Home × Nat) :=
  (s.walkAddrs p va).filterMap fun a => (homeOf a).map fun h => (h, a / 64 * 64)

/-- The local physical address under a leaf: low frame bits replaced by va's (R211). -/
def leafAddr (e : Word) (va : Nat) : Nat :=
  let n := 4 ^ pteSize e * 2 ^ 12
  pteFrame e * 2 ^ 12 / n * n + va % n

/-- Lease length in ns (R214): an LC 0 leaf counts as 1 µs. -/
def leaseNs (e : Word) : Nat := if pteLC e = 0 then 1000 else 2 ^ (pteLC e - 1) * 1000

/-- Whether a cached entry serves the address now (R213, R214). -/
def TlbEntry.serves (x : TlbEntry) (p : Nat) (epoch : BitVec 16) (va ltc : Nat) : Bool :=
  x.part == p && x.epoch == epoch && x.va / (4 ^ pteSize x.leaf * 2 ^ 12) == va / (4 ^ pteSize x.leaf * 2 ^ 12)
    && ltc < x.expiry

/-- The add of a hotness counter into its shadow word (R218): an 8-byte atomic of the partition, dropped outside local
HBM5. It is made at once, with no permit, crossing or turn: DESIGN CHOICE, log entry 116. -/
def State.flushHot (s : State) (x : TlbEntry) : State :=
  let off := bitsOf (s.aux x.part).ptshad 41 3 * 8
  let a := (x.leafAt + off) % 2 ^ 42
  if off = 0 || x.hot = 0 || !(isHbm a && isHbm (a + 7)) then s
  else
    let v := (s.readLE 0 a 8 + x.hot) % 2 ^ 64
    (((s.store 0 a (leBytes 8 v)).charge x.part 6 1).charge x.part 8 8).charge x.part 9 8

/-- The layer whose translation unit a core uses; channel cores translate by walks only. -/
def unitsOf (c : Nat) : Option (Nat × Nat) := if isChan c then none else some (clusterOf c, layerOf c)

/-- A translation unit caches (R216): not within two pulses of a skew fault, nor under SKEW. -/
def State.caches (s : State) (l : Nat) : Bool := (s.layer l).skewed == 0 && !s.by_.skew

/-- Installs a leaf in the last-level buffer, evicting the oldest of 12,288 entries with its hotness add (R213, R218). -/
def State.fillLlt (s : State) (l : Nat) (x : TlbEntry) : State :=
  let same (y : TlbEntry) : Bool := y.part == x.part && y.va == x.va && y.epoch == x.epoch
  let gone := (s.layer l).llt.filter same
  let kept := (s.layer l).llt.filter fun y => !same y
  let s := gone.foldl State.flushHot s
  match kept with
  | old :: rest =>
    if kept.length ≥ 12288 then (s.modLayer l fun y => { y with llt := rest ++ [x] }).flushHot old
    else s.modLayer l fun y => { y with llt := kept ++ [x] }
  | [] => s.modLayer l fun y => { y with llt := [x] }

/-- Installs an entry in a cluster TLB of 64 entries (R213). -/
def State.fillTlb (s : State) (cl : Nat) (x : TlbEntry) : State :=
  s.modCluster cl fun c =>
    let kept := c.tlb.filter fun y => !(y.part == x.part && y.va == x.va && y.epoch == x.epoch)
    { c with tlb := (if kept.length ≥ 64 then kept.drop 1 else kept) ++ [x] }

/-- Counts a lookup that the last-level entry serves (R218), saturating. -/
def bumpHot (x : TlbEntry) : TlbEntry := { x with hot := Nat.min 0xFFFF (x.hot + 1) }

/-- Walks the page and installs it where it may be cached; gives the leaf and its expiry. -/
def State.walkFill (s : State) (c p va : Nat) : Except Bool (Word × Nat) × State :=
  match s.walk p va with
  | (.error m, s) => (.error m, s)
  | (.ok (e, at_), s) =>
    let exp := s.md.ltc.toNat + leaseNs e
    let x : TlbEntry := { part := p, epoch := (s.part p).epoch, va := va / 4096 * 4096, leaf := e, leafAt := at_, expiry := exp,
                          hot := 0 }
    match unitsOf c with
    | none => (.ok (e, exp), s)
    | some (cl, l) =>
      if pteLC e = 0 || !s.caches l then (.ok (e, exp), s)
      else (.ok (e, exp), (s.fillLlt l x).fillTlb cl x)

/-- The leaf that translates `va` for an access of core `c` (R213): cluster TLB, last-level TLB, walk. With V = 0 in PTROOT no cached
entry serves (R210). -/
def State.lookup (s : State) (c p va : Nat) : Except Bool (Word × Nat) × State :=
  match unitsOf c with
  | none => s.walkFill c p va
  | some (cl, l) =>
    if !s.caches l || !(s.aux p).ptroot.getLsbD 0 then s.walkFill c p va
    else
      let ep := (s.part p).epoch
      let ltc := s.md.ltc.toNat
      match (s.cluster cl).tlb.find? (·.serves p ep va ltc) with
      | some x => (.ok (x.leaf, x.expiry), s)
      | none =>
        match (s.layer l).llt.find? (·.serves p ep va ltc) with
        | some x =>
          let s := s.modLayer l fun y => { y with llt := y.llt.map fun z => if z = x then bumpHot z else z }
          (.ok (x.leaf, x.expiry), s.fillTlb cl { x with hot := 0 })
        | none => s.walkFill c p va

/-- Translates a paged address (R211-R214); an invalid root faults as an invalid entry. -/
def State.translate (s : State) (c p va : Nat) (n : Need) : Trans × State :=
  match s.lookup c p va with
  | (.error m, s) => (.fault m, s)
  | (.ok (e, exp), s) => if n.metBy e then (.ok (pteMod e) (leafAddr e va) exp, s) else (.rights, s)

end Sys2Proof.Machine
end

