-- ==== Sys2Proof/Machine/Network.lean ====
section
/-! DEFINITION. The on-chip networks (R41-R61, R410): routes, permits, switches and combining, and messages that take
permits. -/

namespace Sys2Proof.Machine

/-! ### Fetch-and-operate (R51, R53, R306) -/

/-- A value of `w` bytes. -/
def clip (w : Nat) (v : Word) : Word := zext64 (8 * w) v

/-- a ∘ b at width `w` bytes (R53, R306): ASWAP leaves b. -/
def amoApply (op : AmoOp) (w : Nat) (a b : Word) : Word :=
  let a := clip w a
  let b := clip w b
  let sa := sext64 (8 * w) a
  let sb := sext64 (8 * w) b
  match op with
  | .add => clip w (a + b)
  | .and => a &&& b
  | .or => a ||| b
  | .xor => a ^^^ b
  | .max => if sa.slt sb then b else a
  | .min => if sb.slt sa then b else a
  | .maxu => if a.ult b then b else a
  | .minu => if b.ult a then b else a
  | .swap => b

/-- What the second member of a combined request receives, from the reply `v` and the first operand (R53). -/
def splitSecond (op : AmoOp) (w : Nat) (v v0 : Word) : Word :=
  match op with
  | .swap => clip w v0
  | _ => amoApply op w v v0

/-- Whether two headers may combine (R51): the same fetch-and-operate of one width on one word of one partition. -/
def mayCombine (x y : Header) : Bool :=
  match x.op, y.op with
  | .amo p w _, .amo q u _ =>
    p == q && w == u && x.loc == y.loc && x.home == y.home && x.dest == y.dest && x.part == y.part && !x.uncmb && !y.uncmb
  | _, _ => false

/-! ### Routes (R41, R42, R45, R410) -/

def stagesOf (net : Nat) : Nat := if net < 32 then 11 else 13

/-- RotateLeft of an n-bit port number. -/
def rotlPort (n pos : Nat) : Nat := pos * 2 % 2 ^ n + pos / 2 ^ (n - 1) % 2

/-- Switch and input that a line enters at a stage (R42). -/
def switchIn (net pos : Nat) : Nat × Nat :=
  let r := rotlPort (stagesOf net) pos
  (r / 2, r % 2)

/-- The output line of a switch toward destination `d` at a stage. -/
def outLine (net stage sw d : Nat) : Nat := 2 * sw + d / 2 ^ (stagesOf net - 1 - stage) % 2

/-- The index of the vertical port for off-layer destinations of address `a` (R41): A[15:6] mod 224. -/
def vertIdx (a : Nat) : Nat := a / 64 % 1024 % 224

/-- The vertical port of a layer of `tower` toward an off-layer home (R41); `a` is the address of the request. -/
def vertPort (tower : Nat) (h : Home) (a : Nat) : Nat :=
  match h with
  | .hbm ch => 1344 + ch
  | .sram sl => if sl / 32 = tower then 1600 + sl % 32 else 1632 + vertIdx a
  | _ => 1632 + vertIdx a

/-- Carrier-link port of tower `t` toward tower `u`, link `k` (R410). -/
def carrierPort (t u k : Nat) : Nat := 4224 + 64 * ((u + 7 - t) % 4) + k

/-- Tower and crossbar port of a home's end (R410). A home on another layer is entered by its vertical port of the same
index (log entry 14). What leaves by Byand port `q` crosses to `q`'s own crossbar port also while firmware has redirected `q` (R75): DESIGN
CHOICE, log entry 105. -/
def xbarDest (h : Home) (a : Nat) : Nat × Nat :=
  match h with
  | .hbm ch => (ch / 64, 4096 + ch % 64)
  | .sram sl => (sl / 32, 4160 + sl % 32)
  | .host => (0, 4416)
  | .egress q => (q / 16, 4208 + q % 16)
  | .spad c => (c / 8192, 512 * (c / 1024 % 8) + 288 + vertIdx a)
  | .edram l _ => (l / 8, 512 * (l % 8) + 288 + vertIdx a)

/-- Crossbar crossings from port `src` of tower `t`. -/
def xbarHops (t src : Nat) (h : Home) (a : Nat) : List (Nat × Nat × Nat) :=
  let (u, dst) := xbarDest h a
  let k := a / 64 % 64
  if u = t then [(32 + t, src, dst)] else [(32 + t, src, carrierPort t u k), (32 + u, carrierPort u t k, dst)]

/-- The last crossing, inside the layer of the home. -/
def layerTail (h : Home) (a : Nat) : List (Nat × Nat × Nat) :=
  match h with
  | .spad c => [(c / 1024, 1632 + vertIdx a, c % 1024)]
  | .edram l g => [(l, 1632 + vertIdx a, 1280 + g)]
  | _ => []

/-- The networks that a packet crosses from port `n` of the network of layer `l`. -/
def routeFrom (l n : Nat) (h : Home) (a : Nat) : List (Nat × Nat × Nat) :=
  let away : List (Nat × Nat × Nat) :=
    let v := vertPort (l / 8) h a
    (l, n, v) :: xbarHops (l / 8) (512 * (l % 8) + (v - 1344)) h a ++ layerTail h a
  match h with
  | .spad c => if c / 1024 = l then [(l, n, c % 1024)] else away
  | .edram l' g => if l' = l then [(l, n, 1280 + g)] else away
  | _ => away

/-- The networks that a request crosses: from the port of its core or copy unit, or from the crossbar port of a channel core. -/
def routeOf (core : Nat) (copy : Option Nat) (h : Home) (a : Nat) : List (Nat × Nat × Nat) :=
  if isChan core then xbarHops (towerOf core) (4096 + portOf core) h a ++ layerTail h a
  else
    routeFrom (layerOf core) (match copy with
      | some cl => 1024 + cl % 128
      | none => core % 1024) h a

/-- The home is a Byand port. -/
def isEgress : Home → Bool
  | .egress _ => true
  | _ => false

/-- A header has left its last network: it joins the queue of its home, or its message has come to its core (R226). -/
def State.leaveNet (s : State) (h : Header) : State :=
  if h.src == .msg && !isEgress h.home then
    { s with fresh := s.fresh + 1
             net := { s.net with msgs := s.net.msgs.map fun m => if m.id = h.id then { m with way := .come s.fresh } else m } }
  else s.modNet fun n => { n with homeQ := n.homeQ ++ [h] }

/-- Puts a header on the first network of its route. -/
def State.enterNet (s : State) (h : Header) (route : List (Nat × Nat × Nat)) : State :=
  match route with
  | [] => s.leaveNet h
  | (net, src, dst) :: rest =>
    s.modNet fun n => { n with packets := n.packets ++
      [{ hdr := h, net := net, stage := 0, pos := src, queued := false, dst := dst, rest := rest }] }

/-! ### Permits (R46-R50) -/

/-- The slice that a message to a core takes a permit of: its cluster's scratchpad slice (R46), named by the cluster's
first core; a channel core's HBM5 channel. -/
def msgSlice (target : Nat) : Home :=
  if isChan target then .hbm (target - 32768) else .spad (8 * clusterOf target)

def Msg.slice (m : Msg) : Home :=
  match m.away with
  | some (_, dest, _) => .egress (m.target % 64 ^^^ dest.toNat % 64)
  | none => msgSlice m.target

/-- The slice that a request takes a permit of (R46): the scratchpad slice is the cluster's. -/
def sliceOf : Home → Home
  | .spad c => .spad (8 * clusterOf c)
  | h => h

def State.waitsInPort (s : State) (id : Nat) : Bool := s.net.port.any (·.id == id)

/-- The slice that a line takes a permit of. -/
def Ticket.slice (k : Ticket) : Home := sliceOf k.home

/-- Requests, messages and lines that hold a permit of a (cluster, slice) pair (R47). -/
def State.permitsHeld (s : State) (cl : Nat) (h : Home) : Nat :=
  (s.net.reqs.filter fun r => r.cluster == cl && r.slice == h && !s.waitsInPort r.id).length
  + (s.net.msgs.filter fun m => m.permit && m.via == some cl && h == m.slice).length
  + (s.net.tickets.filter fun k => k.st == .goes && k.port == some cl && h == k.slice).length

/-- What waits for a permit: its identity and partition, since which cycle, and for which core and slot. -/
structure Waiter where
  id    : Nat
  part  : Nat
  since : Nat
  core  : Nat
  slot  : Nat
  deriving DecidableEq, Repr

/-- Oldest first; of one cycle by core, then slot (R47), and of one slot in the order in which they were made: DESIGN CHOICE, log
entry 115. -/
def Waiter.before (a b : Waiter) : Bool :=
  a.since < b.since || (a.since == b.since && (a.core < b.core || (a.core == b.core && (a.slot < b.slot || (a.slot == b.slot && a.id < b.id)))))

/-- The first of those that wait. -/
def firstWaiter : List Waiter → Option Waiter
  | [] => none
  | w :: r =>
    match firstWaiter r with
    | some v => if v.before w then some v else some w
    | none => some w

/-- Waiting requests, messages and lines of the pair. -/
def State.permitWaiters (s : State) (cl : Nat) (h : Home) : List Waiter :=
  ((s.net.reqs.filter fun r => r.cluster == cl && r.slice == h && s.waitsInPort r.id).map fun r => ⟨r.id, r.part, r.asked, r.core, r.slot⟩)
  ++ ((s.net.msgs.filter fun m => !m.permit && m.rel.isNone && m.via == some cl && h == m.slice).map fun m =>
    ⟨m.id, m.part, m.asked, m.src.getD 0, m.slot⟩)
  ++ ((s.net.tickets.filter fun k => k.st == .waits && k.port == some cl && h == k.slice).map fun k => ⟨k.id, k.part, k.asked, k.core, k.slot⟩)

/-- The first partition with a waiter after `last`, in ascending number taken cyclically (R47). -/
def nextPart (last : Nat) (ps : List Nat) : Option Nat :=
  match ps.filter (last < ·) with
  | [] => ps.min?
  | q :: r => (q :: r).min?

/-- The same route to the Mortise unit of the cluster of core `c` (R41). -/
def toMortise (c : Nat) (route : List (Nat × Nat × Nat)) : List (Nat × Nat × Nat) :=
  route.dropLast ++ (route.getLast?.toList.map fun x => (x.1, x.2.1, 1152 + clusterOf c % 128))

/-- The route of a request whose header waits in the port. -/
def State.reqRoute (s : State) (h : Header) : List (Nat × Nat × Nat) :=
  match s.net.reqs.find? (·.id == h.id) with
  | none => []
  | some r =>
    let copy := match s.net.accs.find? (·.id == r.acc) with
      | some a => (match a.cont with
        | .copy cl => some cl
        | _ => none)
      | none => none
    let route := routeOf r.core copy h.home h.loc
    match h.src, h.home with
    | .token .., .spad c => toMortise c route
    | _, _ => route

/-- A route from the port of the Mortise unit of core `c`'s cluster (R41). -/
def mortiseRoute (c : Nat) (h : Home) (a : Nat) : List (Nat × Nat × Nat) := routeFrom (layerOf c) (1152 + clusterOf c % 128) h a

/-- A route from a service port of the Carcass die of tower `t` (R410): port 4,417 for every unit, DESIGN CHOICE, log entry 92. -/
def serviceRoute (t : Nat) (h : Home) (a : Nat) : List (Nat × Nat × Nat) := xbarHops t 4417 h a ++ layerTail h a

/-- The route of a line that hardware reads or writes for itself: from its core's port, a log's from the Mortise unit's, a launch engine's
from its service port in the crossbar of T0 (R112), and a thread's to a slice to that slice's Mortise unit. -/
def Ticket.route (k : Ticket) : List (Nat × Nat × Nat) :=
  match k.key, k.home with
  | .launch _, h => serviceRoute 0 h k.loc
  | .log .., h => mortiseRoute k.core h k.loc
  | .slice .., .spad c => toMortise c (routeOf k.core none k.home k.loc)
  | _, h => routeOf k.core none h k.loc

/-- The route of a header that leaves a port. -/
def State.portRoute (s : State) (h : Header) : List (Nat × Nat × Nat) :=
  match s.net.tickets.find? (·.id == h.id) with
  | some k => k.route
  | none => s.reqRoute h

/-- The port through which the requests of egress `q` leave: `q`, or the port to which the egress table redirects it (R75). -/
def State.egressPort (s : State) (q : Nat) : Nat := (Sparse.find? s.by_.egress q).getD q

/-- What goes to a home can leave: the link of a Byand port is up (R75). -/
def State.linkUp (s : State) : Home → Bool
  | .egress q => (Sparse.get .reset s.by_.ports (s.egressPort q)).up
  | _ => true

/-- A header that holds its permit leaves its port, with the mark of CMBOFF as it stands then (R58); with its link down it waits there
(R75). -/
def State.leavePort (s : State) (h : Header) : State :=
  if s.linkUp h.home then s.enterNet { h with uncmb := h.src != .cluster || (s.part h.part).cmboff } (s.portRoute h)
  else s.modNet fun n => { n with linkWait := n.linkWait ++ [h] }

/-- The header of a line. -/
def Ticket.header (k : Ticket) : Header :=
  { id := k.id, part := k.part, op := k.op, loc := k.loc, home := k.home, dest := k.dest, expiry := k.expiry, uncmb := true, mems := [k.id],
    extra := 0, src := .direct }

/-- Gives one free permit to the waiter whose turn it is. Before a pair's first permit partition 0 is first: DESIGN CHOICE, log
entry 70. -/
def State.grantOne (s : State) (cl : Nat) (h : Home) : State :=
  let ws := s.permitWaiters cl h
  let last := (((s.cluster cl).turn.find? (·.1 == h)).map (·.2)).getD 63
  match nextPart last (ws.map (·.part)) with
  | none => s
  | some p =>
    match firstWaiter (ws.filter (·.part == p)) with
    | none => s
    | some w =>
      let id := w.id
      let s := s.modCluster cl fun c => { c with turn := (h, p) :: c.turn.filter (·.1 != h) }
      match s.net.port.find? (·.id == id), s.net.tickets.find? (·.id == id) with
      | some hdr, _ => (s.modNet fun n => { n with port := n.port.filter (·.id != id) }).leavePort hdr
      | none, some k =>
        (s.modNet fun n => { n with tickets := n.tickets.map fun x => if x.id = id then { x with st := .goes } else x }).leavePort k.header
      | none, none => s.modNet fun n => { n with msgs := n.msgs.map fun m => if m.id = id then { m with permit := true } else m }

/-- Grants permits of a pair while one is free and something waits (R47). -/
def State.grantAux (s : State) (cl : Nat) (h : Home) : Nat → State
  | 0 => s
  | n + 1 => if s.permitsHeld cl h < 4 ∧ s.permitWaiters cl h ≠ [] then (s.grantOne cl h).grantAux cl h n else s

/-- The attempts of the cycle are over: its events happen (R182, R381). -/
def State.eventsRun (s : State) : Bool := 2 ^ 16 ≤ s.rotor.core

/-- Gives the free permits of a pair. While the cycle's events happen it waits for their end, when all that has begun to wait in the cycle is
known (R47). -/
def State.grantPermits (s : State) (cl : Nat) (h : Home) : State := if s.eventsRun then s else s.grantAux cl h 4

/-- Pairs for a permit of which something waits. -/
def State.askedPairs (s : State) : List (Nat × Home) :=
  (((s.net.reqs.filter fun r => s.waitsInPort r.id).map fun r => (r.cluster, r.slice))
    ++ (s.net.msgs.filterMap fun m => if m.permit || m.rel.isSome then none else m.via.map fun cl => (cl, m.slice))
    ++ (s.net.tickets.filterMap fun k => if k.st = .waits then k.port.map fun cl => (cl, k.slice) else none)).eraseDups

/-- The end of a cycle: free permits go to what waits (R47). -/
def State.grantAll (s : State) : State := s.askedPairs.foldl (fun s x => s.grantAux x.1 x.2 4) s

/-- What waits in a port for a link that is up again, or for a port to which firmware has redirected it, leaves (R75). -/
def State.enterLinked (s : State) : State :=
  s.net.linkWait.foldl (fun s h =>
    if s.linkUp h.home then (s.modNet fun n => { n with linkWait := n.linkWait.filter (·.id != h.id) }).leavePort h else s) s

/-- Sends a message from slot `slot` of core `src`, or from a unit of its cluster: it leaves once what it releases is performed (R230) and the
pair has a permit for it (R47). -/
def State.postTo (s : State) (p : Nat) (from_ : Option Word) (src slot : Nat) (frm : MsgFrom) (target : Nat)
    (away : Option (Nat × BitVec 22 × Option Nat)) (rel : Option Release) (body : MsgBody) : State :=
  let cl := permitPort src
  let m : Msg := { id := s.fresh, part := p, from_ := from_, src := some src, slot := slot, via := some cl,
                   permit := false, asked := s.now, way := .port, frm := frm, target := target, away := away, rel := rel, body := body, dom := 0, lost := false }
  let s : State := { s with fresh := s.fresh + 1, net := { s.net with msgs := s.net.msgs ++ [m] } }
  s.grantPermits cl m.slice

/-- To a core of this module. -/
def State.post (s : State) (p : Nat) (from_ : Option Word) (src slot : Nat) (frm : MsgFrom) (target : Nat) (body : MsgBody) : State :=
  s.postTo p from_ src slot frm target none none body

/-! ### Reads and writes that hardware makes of memory for itself (R46, R47, R49) -/

/-- The slot that a line is asked for; 0 for a log's and a launch engine's. -/
def Errand.slot : Errand → Nat
  | .line _ k | .header _ k | .record _ k | .slice _ k | .lease _ k => k
  | .log .. | .launch _ | .over => 0

/-- A piece of such an access that goes over Byand: its egress port, its address and operation in module `dest`, and the lease's expiry. -/
structure Away where
  home   : Home
  loc    : Nat
  dest   : BitVec 22
  expiry : Option Nat
  op     : MemOp
  deriving DecidableEq, Repr

/-- The ticket of a piece that goes over Byand. -/
def Ticket.carries (k : Ticket) (x : Away) : Bool := k.home == x.home && k.loc == x.loc && k.dest == x.dest && k.op == x.op

/-- Asks for a line, once: it waits for a permit of core `c`'s port, or leaves a launch engine's service port at once. -/
def State.askTicket (s : State) (key : Errand) (c p : Nat) (x : Away) : State :=
  let port := match key with
    | .launch _ => none
    | _ => some (permitPort c)
  let k : Ticket := { id := s.fresh, key := key, part := p, core := c, slot := key.slot, port := port, home := x.home, loc := x.loc,
                      asked := s.now, st := if port.isNone then .goes else .waits, op := x.op, dest := x.dest, expiry := x.expiry, got := none }
  let s : State := { s with fresh := s.fresh + 1, net := { s.net with tickets := s.net.tickets ++ [k] } }
  match port with
  | some cl => s.grantPermits cl k.slice
  | none => s.leavePort k.header

/-- A line that is read or written within the module: `.read 0` stands for its turn. -/
def State.askLine (s : State) (key : Errand) (c p : Nat) (l : Home × Nat) : State :=
  if s.net.tickets.any fun k => k.key == key && k.home == l.1 && k.loc == l.2 then s
  else s.askTicket key c p { home := l.1, loc := l.2, dest := 0, expiry := none, op := .read 0 }

/-- A piece that goes over Byand, once. -/
def State.askAway (s : State) (key : Errand) (c p : Nat) (x : Away) : State :=
  if s.net.tickets.any (fun k => k.key == key && k.carries x) then s else s.askTicket key c p x

def State.askLines (s : State) (key : Errand) (c p : Nat) (ls : List (Home × Nat)) : State :=
  ls.foldl (fun s l => s.askLine key c p l) s

def State.askAways (s : State) (key : Errand) (c p : Nat) (xs : List Away) : State := xs.foldl (fun s x => s.askAway key c p x) s

/-- Every line has had its turn at its home. -/
def State.turnsHad (s : State) (key : Errand) (ls : List (Home × Nat)) : Bool :=
  ls.all fun l => s.net.tickets.any fun k => k.key == key && k.home == l.1 && k.loc == l.2 && k.st == .done

/-- What has come back for a piece that went over Byand. -/
def Away.reply (got : List Ticket) (x : Away) : Option (Status × Vec) := (got.find? (·.carries x)).bind (·.got)

/-- The pieces of an errand to which other modules have replied. -/
def State.gotBy (s : State) (key : Errand) : List Ticket := s.net.tickets.filter fun k => k.key == key && k.got.isSome

/-- Every piece has its reply. -/
def State.awayHad (s : State) (key : Errand) (xs : List Away) : Bool := xs.all fun x => (x.reply (s.gotBy key)).isSome

/-- A ticket leaves the tables, or is done: its permit returns. -/
def State.closeTicket (s : State) (id : Nat) (f : Ticket → Option Ticket) : State :=
  match s.net.tickets.find? (·.id == id) with
  | some k =>
    let s := s.modNet fun n => { n with tickets := n.tickets.filterMap fun x => if x.id != id then some x else if x.key == .over then none else f x }
    match k.port with
    | some cl => s.grantPermits cl k.slice
    | none => s
  | none => s

/-- A line's turn at its home, or the reply `got` of another module: its permit returns. -/
def State.haveTurn (s : State) (id : Nat) (got : Option (Status × Vec) := none) : State :=
  s.closeTicket id fun x => some { x with st := .done, got := got }

/-- A piece whose lease another module has found expired (R214): its errand asks for it anew. -/
def State.loseTicket (s : State) (id : Nat) : State := s.closeTicket id fun _ => none

/-- A message or request that was admitted from another module is answered there (R50, R71), with the payload bytes of its reply
counted (R94). -/
def State.answerInside (s : State) (id : Nat) (st : Status) (v : Vec) : State :=
  match s.by_.inside.find? (·.id == id) with
  | some e =>
    ({ s with by_ := { s.by_ with inside := s.by_.inside.filter (·.id != id), sentOut := s.by_.sentOut ++ [(e.src, st, v)] } } : State).charge
      e.part 13 (if st = .ok then e.bytes else 0)
  | none => s

/-- Removes a message that has been accepted or discarded; its permit returns (R50), and a sender in another module has its
acknowledgement. -/
def State.dropMsg (s : State) (m : Msg) : State :=
  let s := (s.modNet fun n => { n with msgs := n.msgs.filter (·.id != m.id) }).answerInside m.id .ok 0
  match m.via with
  | some cl => s.grantPermits cl m.slice
  | none => s

/-- Two messages travel one path. -/
def Msg.samePath (x m : Msg) : Bool := x.src == m.src && x.frm == m.frm && x.target == m.target && x.away.isNone && m.away.isNone

/-- The message has come to the end of its path, before another that has. -/
def Msg.cameBefore (x m : Msg) : Bool :=
  match x.way, m.way with
  | .come a, .come b => a < b
  | _, _ => false

def Msg.here (m : Msg) : Bool :=
  match m.way with
  | .come _ => true
  | _ => false

/-- A message may be accepted: it has come, and no message that came before it on its path is still there (R226). -/
def State.deliverable (s : State) (m : Msg) : Bool :=
  m.permit && m.here && m.away.isNone && !(s.net.msgs.any fun x => x.cameBefore m && x.samePath m)

/-! ### Messages in the networks (R41, R49) -/

/-- Where a core's messages arrive. -/
def coreHome (c : Nat) : Home := if isChan c then .hbm (c - 32768) else .spad c

/-- The route of a message from the port of the unit that sends it; one of another module goes on from the Byand port that admitted it
(R410). Where ports and links go by an address it is that of line `target`: DESIGN CHOICE, log entry 92. -/
def Msg.route (m : Msg) (h : Home) : List (Nat × Nat × Nat) :=
  let a := 64 * m.target
  match m.frm, m.src with
  | .launch, _ => serviceRoute 0 h a
  | .service t, _ => serviceRoute t h a
  | .byand q, _ => xbarHops (q / 16) (4208 + q % 16) h a ++ layerTail h a
  | .mortise, some c => if isChan c then routeOf c none h a else mortiseRoute c h a
  | _, c => routeOf (c.getD 0) none h a

/-- Where a message goes: its egress port, or its core. -/
def Msg.goal (m : Msg) : Home :=
  match m.away with
  | some (q, _, _) => .egress q
  | none => coreHome m.target

/-- A message that holds its permit leaves its port, once its link is up (R75). -/
def State.enterMsg (s : State) (m : Msg) : State :=
  if m.permit && m.way == .port && s.linkUp m.goal then
    (s.modNet fun n => { n with msgs := n.msgs.map fun x => if x.id = m.id then { x with way := .path } else x }).enterNet
      { id := m.id, part := m.part, op := .read 0, loc := 64 * m.target, home := m.goal, dest := 0, expiry := none, uncmb := true, mems := [],
        extra := 0, src := .msg } (m.route m.goal)
  else s

def State.enterMsgs (s : State) : State := s.net.msgs.foldl State.enterMsg s

/-! ### Switches (R49, R51-R53) -/

/-- The oldest packet on an input of a switch. -/
def Net.headIn (n : Net) (net stage sw input : Nat) : Option Packet :=
  n.packets.find? fun p => p.net == net && p.stage == stage && !p.queued && switchIn net p.pos == (sw, input)

/-- The oldest queued packet of an output line that a header may combine with. -/
def Net.partner (n : Net) (net stage line : Nat) (h : Header) : Option Packet :=
  n.packets.find? fun p => p.net == net && p.stage == stage && p.queued && p.pos == line && mayCombine p.hdr h

/-- A header on an input enters its output: it combines behind the oldest queued partner when a wait-buffer entry is
free, and otherwise joins the queue (R51, R52, R53). -/
def State.enterOutput (s : State) (p : Packet) : State :=
  let sw := (switchIn p.net p.pos).1
  let line := outLine p.net p.stage sw p.dst
  let others := s.net.packets.filter (· != p)
  let full := (s.net.waits.filter fun w => w.out == (p.net, p.stage, line)).length ≥ 8
  let queue (s : State) : State := s.modNet fun n => { n with packets := others ++ [{ p with pos := line, queued := true }] }
  match s.net.partner p.net p.stage line p.hdr, p.hdr.op with
  | some q, .amo op w v1 =>
    match q.hdr.op with
    | .amo _ _ v0 =>
      if full then queue s
      else
        let id := s.fresh
        let exp := match q.hdr.expiry, p.hdr.expiry with
          | some a, some b => some (Nat.min a b)
          | some a, none => some a
          | none, b => b
        let hdr : Header := { q.hdr with id := id, op := .amo op w (amoApply op w v0 v1), expiry := exp,
                                         mems := q.hdr.mems ++ p.hdr.mems, extra := q.hdr.extra + p.hdr.extra }
        let e : WaitEntry := { id := id, out := (p.net, p.stage, line), part := p.hdr.part, comb := id, first := q.hdr.id,
                               second := p.hdr.id, op := op, w := w, v0 := v0 }
        { s with fresh := s.fresh + 1
                 net := { s.net with packets := others.map (fun x => if x = q then { q with hdr := hdr } else x),
                                     waits := s.net.waits ++ [e] } }
    | _ => queue s
  | _, _ => queue s

/-- The header that an output passes on next: the oldest, and in a crossbar the oldest of the partition whose turn it is (R49). -/
def Net.nextOut (n : Net) (net stage line : Nat) : Option Packet :=
  let q := n.packets.filter fun p => p.net == net && p.stage == stage && p.queued && p.pos == line
  if net < 32 then q.head?
  else
    let last := ((n.turns.find? (·.1 == (net, stage, line))).map (·.2)).getD 63
    match nextPart last (q.map (·.hdr.part)) with
    | some p => q.find? (·.hdr.part == p)
    | none => none

/-- Passes a header of an output queue on: to the next stage, the next network, or its home (R49). -/
def State.passOne (s : State) (net stage line : Nat) : State :=
  match s.net.nextOut net stage line with
  | none => s
  | some p =>
    let others := s.net.packets.filter (· != p)
    let s := s.modNet fun n => { n with packets := others, turns := if net < 32 then n.turns
      else ((net, stage, line), p.hdr.part) :: n.turns.filter fun e => e.1 != (net, stage, line) }
    if stage + 1 < stagesOf net then
      s.modNet fun n => { n with packets := n.packets ++ [{ p with stage := stage + 1, queued := false }] }
    else s.enterNet p.hdr p.rest

/-- Whether input 1 lost the last conflict at an output. -/
def Net.lostAt (n : Net) (out : Nat × Nat × Nat) : Bool :=
  match n.lost.find? (fun e => e.1 == out) with
  | some e => e.2
  | none => false

/-- One network cycle of one switch: arrivals in the order of R49 and R52, then one header passes per output. Of two that want one output
and do not combine, R49's winner joins its queue first and is then the older (R52): DESIGN CHOICE, log entry 119. -/
def State.switchCycle (s : State) (net stage sw : Nat) : State :=
  let a := s.net.headIn net stage sw 0
  let b := s.net.headIn net stage sw 1
  let s :=
    match a, b with
    | some p, some q =>
      let out := outLine net stage sw p.dst
      let room := decide ((s.net.waits.filter fun (w : WaitEntry) => w.out == (net, stage, out)).length < 8)
      let conflict := out == outLine net stage sw q.dst && !(room && (mayCombine p.hdr q.hdr
        || (s.net.partner net stage out p.hdr).isSome || (s.net.partner net stage out q.hdr).isSome))
      if conflict then
        -- Of two that conflict, the input that lost last wins; after module reset input 0 (R49).
        let lost1 := s.net.lostAt (net, stage, out)
        let s := s.modNet fun n => { n with lost := ((net, stage, out), !lost1) :: n.lost.filter fun e => e.1 != (net, stage, out) }
        if lost1 then (s.enterOutput q).enterOutput p else (s.enterOutput p).enterOutput q
      else (s.enterOutput p).enterOutput q
    | some p, none => s.enterOutput p
    | none, some q => s.enterOutput q
    | none, none => s
  (s.passOne net stage (2 * sw)).passOne net stage (2 * sw + 1)

/-- A reply reaches the wait-buffer entry of its combined request (R53): V to the first, and the rest to the second. -/
def State.splitReply (s : State) (e : WaitEntry) : State :=
  match s.net.replies.find? (·.id == e.comb) with
  | none => s
  | some r =>
    let v := (r.val.setWidth 64 : Word)
    let second : Vec := (splitSecond e.op e.w v e.v0).setWidth 512
    s.modNet fun n =>
      { n with waits := n.waits.filter (·.id != e.id)
               replies := n.replies.filter (·.id != e.comb) ++
                 [{ id := e.first, status := r.status, val := r.val }, { id := e.second, status := r.status, val := second }] }

end Sys2Proof.Machine
end

