-- ==== Sys2Proof/Machine/Checks.lean ====
section
/-! DEFINITION. Interrupt lines (R79, R84) and the checks of an access before it leaves the core: the segment (R201), the
space (R198), the kind of access (R295). -/

namespace Sys2Proof.Machine

/-! ### Interrupts -/

/-- The module interrupt: MSI-X vector 0 and APLIC source 257. -/
def State.irqModule (s : State) : State := { s with msix := s.msix ++ [0], aplic := s.aplic ++ [257] }

/-- One rising edge of line `j` of partition `p`. Its vector or source is signalled at every event, also while the lines that share vector 1 + p
hold it high: DESIGN CHOICE, log entry 107. -/
def State.irqLine (s : State) (p j : Nat) : State :=
  if (s.part p).hostirq then { s with msix := s.msix ++ [1 + p] } else { s with aplic := s.aplic ++ [4 * p + 1 + j] }

/-- The page-fault line of `p` drives its source high: at its rising edge, and while it is high when HOSTIRQ gives it another source
(R79, R84, R220). -/
def State.irqPage (s : State) (p : Nat) : State :=
  if (s.part p).hostirq then { s with msix := s.msix ++ [1 + p] } else { s with aplic := s.aplic ++ [258 + p] }

/-! ### Segment check (R201) -/

/-- Cause, `g1` and `g2` of a precise trap. -/
abbrev TrapInfo := Nat × Word × Word

/-- Kinds of access by the segment rights they need. -/
inductive SegKind where
  | load | store | ldn | stn | amo | lr | sc | fetch | lease
  deriving DecidableEq, Repr

def segHolds (g : Seg) (k : SegKind) : Bool :=
  match k with
  | .load => segR g
  | .store => segW g
  | .ldn => segR g && segN g
  | .stn => segW g && segN g
  | .amo => segR g && segW g && segA g
  | .lr => segR g && segA g
  | .sc => segW g && segA g
  | .fetch => segX g
  | .lease => segR g || segW g

/-- SegCheck, with the alignment given apart from the size (R300, R334). A fault reports BASE + offset modulo 2^64. -/
def segCheck (g : Seg) (off : Word) (size align : Nat) (k : SegKind) : Except TrapInfo Nat :=
  let g1 : Word := BitVec.ofNat 64 (segBase g) + off
  let da := segBase g + off.toNat
  if off.toNat % align ≠ 0 then .error (3, g1, 0)
  else if off.toNat ≥ 2 ^ 40 ∨ off.toNat + size > segLimit g then .error (4, g1, 0)
  else if !segHolds g k then .error (5, g1, 0)
  else if da ≥ 2 ^ 52 ∨ da / 2 ^ 48 ≠ (da + size - 1) / 2 ^ 48 then .error (4, g1, 0)
  else .ok da

/-! ### Space check (R198, R206, R207, R28, R295, R334) -/

/-- Kinds of access by where they may go. -/
inductive SpKind where
  | ld | vld | st | vst | stn | amo | lrsc | nform | tileLd | tileSt | copyRd | copyWr
  deriving DecidableEq, Repr

def SpKind.stores : SpKind → Bool
  | .st | .vst | .stn | .tileSt | .copyWr => true
  | _ => false

def SpKind.atomic : SpKind → Bool
  | .amo | .lrsc | .nform => true
  | _ => false

/-- Whether `n` bytes from an eDRAM offset on lie in a valid window of `p` (R206). -/
def State.inEdwin (s : State) (p layer off n : Nat) : Bool :=
  (List.range 4).any fun w =>
    let e := Sparse.get 0 (s.aux p).edwin w
    e.getLsbD 0 && 8 * bitsOf e 2 1 + bitsOf e 5 3 == layer && bitsOf e 24 16 * 2 ^ 20 ≤ off
      && off + n ≤ (bitsOf e 24 16 + bitsOf e 33 25) * 2 ^ 20 && off + n ≤ 384 * 2 ^ 20

/-- The partition whose page a control-register offset lies in (R85). -/
def pagePart (o : Nat) : Option Nat :=
  if 0x100000 ≤ o ∧ o < 0x500000 ∧ o % 0x100000 < 0x40000 then some (o % 0x100000 / 0x1000) else none

/-- Space and kind checks of an access of a thread (or copy) of partition `p` on core `c` to the `n` bytes from `da` on: the cause of
the fault. -/
def State.spaceCheck (s : State) (p : Nat) (sys col : Bool) (c da n : Nat) (k : SpKind) : Option Nat :=
  let o := da % 2 ^ 48
  match da / 2 ^ 48 with
  | 0 => none
  | 1 =>
    if o / 2 ^ 17 % 2 ^ 16 ≠ 0 ∨ o % 2 ^ 17 + n > 0x18000 then some 4
    else if s.partOf (o / 2 ^ 33) ≠ some p then some 6
    else none
  | 2 =>
    if o / 2 ^ 29 % 2 ^ 14 ≠ 0 ∨ o % 2 ^ 29 + n > 0x18000000 ∨ s.md.edRdy = false then some 4
    else if !s.inEdwin p (o / 2 ^ 43) (o % 2 ^ 29) n then some 6
    else if k.atomic ∨ (k.stores ∧ (s.aux p).loadSt = false) then some 5
    else none
  | 3 =>
    if o + n > 2 ^ 20 then some 4
    else if k.atomic ∨ k = .stn ∨ k = .tileSt ∨ k = .copyWr then some 5
    else if (k = .st ∨ k = .vst) ∧ (isChan c ∨ col = false ∨ s.md.full = false) then some 5
    else if !k.stores ∧ !isChan c ∧ (s.tower (towerOf c)).stale.getLsbD (layerOf c % 8) then some 7
    else none
  | 5 =>
    if o / 2 ^ 17 ≠ 0 ∨ o % 2 ^ 17 + n > 0x18000 ∨ isChan c then some 4
    else if k.atomic then some 6
    else none
  | 14 =>
    if !sys then some 5
    else if (pagePart o).any (· != p) then some 5
    else if k = .ld ∨ k = .st then none
    else some 6
  | _ => some 4

/-- Segment and space checks together: the DA of an access, or its precise fault. -/
def State.checkAccess (s : State) (t : Thread) (c sg : Nat) (off : Word) (size align : Nat) (sk : SegKind) (k : SpKind) :
    Except TrapInfo Nat :=
  match segCheck (t.seg sg) off size align sk with
  | .error e => .error e
  | .ok da =>
    match s.spaceCheck t.part t.mode (segC (t.seg sg)) c da size k with
    | some cause => .error (cause, BitVec.ofNat 64 da, 0)
    | none => .ok da

/-! ### Resolving a device address to a home (R199, R65, R67, R71, R295) -/

/-- Where a piece of an access goes, and the expiry it carries (R214). -/
structure Target where
  home   : Home
  loc    : Nat
  dest   : BitVec 22
  expiry : Option Nat
  deriving DecidableEq, Repr

inductive Res where
  | at_ (t : Target)
  | page (malformed : Bool)
  | fail (st : Status)
  deriving DecidableEq, Repr

def opLrSc : MemOp → Bool
  | .lr _ | .sc .. => true
  | _ => false

def opUpd : MemOp → Bool
  | .upd .. => true
  | _ => false

/-- AADD, ASWAP and ACAS alone reach host memory as atomics (R311). -/
def opHostOk : MemOp → Bool
  | .read _ | .write .. | .cas .. => true
  | .amo op .. => op == .add || op == .swap
  | _ => false

/-- The core that an N-form on the word at `loc` goes to. A word that no channel holds, which only an address of another module may name,
stands for the channel of its line: DESIGN CHOICE, log entry 93. -/
def updateCore (loc : Nat) : Nat := (homeCore loc).getD (chanCore (loc / 64 % 256))

/-- A physical address of another module (R65, R67-R69, R71). An N-form is a message to the channel core of its word; one to a word of
the SRAM layer is refused at issue, as in this module (R295). -/
def State.resolveRemote (s : State) (p m pa : Nat) (exp : Nat) (op : MemOp) : Res :=
  if opLrSc op || (opUpd op && isSram pa) then .fail .refused
  else if !s.by_.set then .fail .noTarget
  else if (s.aux p).bypart.getLsbD 16 = false then .fail .refused
  else
    let q := if opUpd op then updateCore pa % 64 else pa / 64 % 64
    .at_ { home := .egress (q ^^^ (m % 64)), loc := pa, dest := BitVec.ofNat 22 m, expiry := some exp }

/-- Resolves the DA of a piece; spaces 0x1, 0x2 and 0x5 need no translation. An HBM5 address is reached before HBMRDY as after it:
DEDUCED, log entry 71. -/
def State.resolve (s : State) (c p : Nat) (need : Need) (op : MemOp) (da : Nat) : Res × State :=
  let o := da % 2 ^ 48
  match da / 2 ^ 48 with
  | 1 => (.at_ { home := .spad (o / 2 ^ 33), loc := spadLoc (o / 2 ^ 33) (o % 2 ^ 17), dest := 0, expiry := none }, s)
  | 2 =>
    (.at_ { home := .edram (o / 2 ^ 43) (o / 256 % 64), loc := edramLoc (o / 2 ^ 43) (o % 2 ^ 29), dest := 0, expiry := none }, s)
  | 5 => (.at_ { home := .spad c, loc := spadLoc c (o % 2 ^ 17), dest := 0, expiry := none }, s)
  | _ =>
    match s.translate c p o need with
    | (.fault m, s) => (.page m, s)
    | (.rights, s) => (.fail .rights, s)
    | (.ok m pa exp, s) =>
      if m ≠ s.by_.mod_.toNat then (s.resolveRemote p m pa exp op, s)
      else
        match homeOf pa with
        | none => (.fail .noTarget, s)
        | some .host =>
          if opHostOk op then (.at_ { home := .host, loc := pa, dest := 0, expiry := some exp }, s) else (.fail .refused, s)
        | some (.sram sl) =>
          if opLrSc op || opUpd op then (.fail .refused, s)
          else (.at_ { home := .sram sl, loc := pa, dest := 0, expiry := some exp }, s)
        | some h => (.at_ { home := h, loc := pa, dest := 0, expiry := some exp }, s)

/-- The precise trap of a failure (R364): cause and `g2`. -/
def failTrap : Status → Nat × Nat
  | .uncorrectable => (6, 1)
  | .byrefuse => (6, 2)
  | .bylost => (6, 3)
  | .hostError => (6, 4)
  | .busMaster => (6, 5)
  | .noTarget => (4, 0)
  | .rights => (5, 0)
  | _ => (6, 0)

/-- The imprecise report of a failure (R413): cause and `g2`. An access that names another module whose address there is
nothing is refused by that module (status 2). The table has no row for BYPART.EN = 0, SET = 0 or a target that takes no such operation, found
after issue: the first and the last are reported as a Byand refusal, SET = 0, an address fault (R67), as an address that decodes to nothing:
DESIGN CHOICE, log entry 112. -/
def failReport : Status → Nat × Nat
  | .rights => (0xA, 0)
  | .uncorrectable => (0xB, 1)
  | .byrefuse => (0xB, 2)
  | .refused => (0xB, 2)
  | .bylost => (0xB, 3)
  | .hostError => (0xB, 4)
  | .busMaster => (0xB, 5)
  | _ => (0xB, 6)

/-! ### Page faults (R220) -/

/-- The token of the next held access: 32 bits, and never zero. -/
def State.token (s : State) : Nat := if s.fresh < 2 ^ 32 then s.fresh else s.fresh % (2 ^ 32 - 1) + 1

/-- A fault enqueues its record, or waits for room. -/
def State.pageFault (s : State) (p : Nat) (r : FaultRec) : State :=
  let a := s.aux p
  if a.fq.length < 64 then
    let s := s.modAux p fun a => { a with fq := a.fq ++ [r] }
    if a.fq.isEmpty then s.irqPage p else s
  else s.modAux p fun a => { a with fqWait := a.fqWait ++ [r] }

def AccKind.code : AccKind → Nat
  | .load => 0
  | .store => 1
  | .atomic => 2
  | .fetch => 3
  | .copyRead => 4
  | .copyWrite => 5
  | .lease => 6

/-- The record of a fault of a thread's or copy unit's access. A copy unit is named by its cluster's first core. -/
def faultOf (kind : AccKind) (rx malformed : Bool) (da core slot token : Nat) : FaultRec :=
  let copy := kind == .copyRead || kind == .copyWrite
  { kind := kind.code, rx := rx, cause := malformed, rights := false, spill := false, da := da,
    core := if isChan core then core - 32768 else if copy then 8 * clusterOf core else core, copy := copy,
    slot := if copy then 0 else slot, chan := isChan core, token := token }

end Sys2Proof.Machine
end

