-- ==== Sys2Proof/Machine/Access.lean ====
section
/-! DEFINITION. Accesses from issue to last reply: requests and permits (R47), performing at a home queue (R223-R226, R306-R312),
replies, lease rejection (R214, R236), page faults (R219) and what an access leaves in its thread (R297, R413). -/

namespace Sys2Proof.Machine

/-! ### Shapes of tiles (R332) -/

def shRows (m : BitVec 32) : Nat := bitsOf m 5 0 + 1
def shBytes (m : BitVec 32) : Nat := bitsOf m 12 6 + 1
def shFmt (m : BitVec 32) : Nat := bitsOf m 15 13
def shPair (m : BitVec 32) : Nat := bitsOf m 17 16
def shComp (m : BitVec 32) : Nat := bitsOf m 21 18

/-- Element size in bits: FP32, BF16, or the width of a narrow format. -/
def shBits (m : BitVec 32) (f : BitVec 32) : Nat :=
  match shFmt m with
  | 0 => 32
  | 1 => 16
  | _ => (Fmt.ofWord f).width

/-- Elements per row. -/
def shElems (m f : BitVec 32) : Nat := 8 * shBytes m / shBits m f

/-! ### Pieces -/

/-- The bytes `da` to `da + n − 1` cut at 64-byte lines; `off` is their place in the access's buffer. -/
def linePieces : Nat → Nat → Nat → Nat → List Piece
  | 0, _, _, _ => []
  | fuel + 1, da, n, off =>
    if n = 0 then []
    else
      let k := Nat.min n (64 - da % 64)
      { da := da, n := k, off := off, st := .todo } :: linePieces fuel (da + k) (n - k) (off + k)

/-- One operation on `n` bytes. -/
def onePiece (da n : Nat) : List Piece := [{ da := da, n := n, off := 0, st := .todo }]

/-- Bytes of a buffer. -/
def bufBytes (b : Sparse Byte) (off n : Nat) : List Byte := (List.range n).map fun i => Sparse.get 0 b (off + i)

def putBuf (b : Sparse Byte) (off : Nat) : List Byte → Sparse Byte
  | [] => b
  | x :: r => putBuf (Sparse.put 0 b off x) (off + 1) r

/-- Number of bytes in a buffer. -/
def bufNat (b : Sparse Byte) (off n : Nat) : Nat := leNat (bufBytes b off n)

/-- The access stores what its buffer holds. -/
def Access.stores (a : Access) : Bool :=
  match a.cont with
  | .store | .mst => true
  | .copy _ => a.kind == .copyWrite
  | _ => false

/-- The operation of one piece at its home. -/
def Access.opOf (a : Access) (x : Piece) : MemOp :=
  match a.op with
  | some o => o
  | none => if a.stores then .write x.n (BitVec.ofNat 512 (bufNat a.buf x.off x.n)) else .read x.n

/-- Page rights that the access needs (R201). -/
def Access.need (a : Access) : Need :=
  match a.op with
  | some (.amo ..) | some (.cas ..) | some (.fadd _) | some (.upd ..) => .rwa
  | some (.lr _) => .lr
  | some (.sc ..) => .sc
  | some (.write ..) => .write
  | some (.read _) => .read
  | none => if a.stores then .write else .read

/-- Every piece is performed (R224, R336); a narrow store in its scale-reading stage is not. -/
def Access.performed (a : Access) : Bool :=
  (match a.cont with
    | .stn .. => false
    | _ => true) && a.pieces.all fun x => x.st == .performed || x.st == .done

def State.acc (s : State) (id : Nat) : Option Access := s.net.accs.find? (·.id == id)

def State.setAcc (s : State) (a : Access) : State :=
  s.modNet fun n => { n with accs := n.accs.map fun x => if x.id = a.id then a else x }

def State.dropAcc (s : State) (id : Nat) : State := s.modNet fun n => { n with accs := n.accs.filter (·.id != id) }

/-- Some access of the thread, N-forms aside, is not performed (R225). -/
def State.unperformed (s : State) (tid : Word) : Bool :=
  s.net.accs.any fun a => a.tid == tid && !a.nform && a.kind != .copyRead && a.kind != .copyWrite && !a.performed

/-- A marked access has its place in the relaxed window: until it is performed (R225), a tile transfer until every row is (R336), and a
store until its acknowledgement is back (R297). -/
def Access.inWindow (a : Access) : Bool :=
  a.marked && !a.nform && (!a.performed || (match a.cont with
    | .store | .stn .. => true
    | _ => false))

/-- Places taken in the relaxed window. -/
def State.window (s : State) (tid : Word) : Nat := (s.net.accs.filter fun a => a.tid == tid && a.inWindow).length

/-- The bytes that an access names: those of its pieces, and for a narrow store those that it will store to (R302). -/
def Access.spans (a : Access) : List (Nat × Nat) :=
  (a.pieces.map fun x => (x.da, x.n)) ++ (match a.cont with
    | .stn da f _ _ => [(da, 2 * (Fmt.ofWord f).width)]
    | _ => [])

def spansMeet (x y : Nat × Nat) : Bool := x.1 < y.1 + y.2 && y.1 < x.1 + x.2

/-- Part of the access has not left its port: it is held, or waits, or still reads its scale. -/
def Access.unsent (a : Access) : Bool :=
  a.held.isSome || (a.pieces.any fun x => x.st == .todo) || (match a.cont with
    | .stn .. => true
    | _ => false)

/-- Of two accesses of a thread whose bytes overlap, the later leaves after the earlier (R225, R231): an earlier one of the same
class has not left. -/
def State.behind (s : State) (a : Access) : Bool :=
  s.net.accs.any fun b => b.id < a.id && b.tid == a.tid && b.nform == a.nform && b.kind != .copyRead && b.kind != .copyWrite && b.unsent
    && b.spans.any fun x => a.spans.any (spansMeet x)

/-- The access still has bytes to bring into its core's near buffer. -/
def Access.nearDue (a : Access) : Bool :=
  match a.cont with
  | .stn da .. => da / 2 ^ 48 == 5
  | .store | .mst => a.pieces.any fun x => x.st == .todo && x.da / 2 ^ 48 == 5
  | .copy _ => a.kind == .copyWrite && a.pieces.any fun x => x.st == .todo && x.da / 2 ^ 48 == 5
  | _ => false

/-- An alias store of core `c` may enter the near buffer: there is room, and no store of the core issued before access `id` is still
to enter (R204). -/
def State.nearOpen (s : State) (c id : Nat) : Bool :=
  (s.core c).near.length < 8 && !(s.net.accs.any fun b => b.core == c && b.id < id && b.nearDue)

/-! ### Accesses served within the core's own die: the near buffer (R204, R227) and the Col copy (R32) -/

/-- A piece in the private alias or the Col mirror. -/
def Piece.isLocal (x : Piece) : Bool := x.da / 2 ^ 48 == 5 || x.da / 2 ^ 48 == 3

/-- The header is a drained near-buffer entry. -/
def HdrSrc.isLoop : HdrSrc → Bool
  | .loop .. => true
  | _ => false

/-- Drained near-buffer entries of a core in its loop-back port (R227), oldest first. -/
def State.looped (s : State) (c : Nat) : List Header := s.net.homeQ.filter fun h => h.src.isLoop && h.home == .spad c

/-- A byte of the private alias: the youngest byte of the near buffer and of what has drained from it, over the banks. -/
def State.aliasByte (s : State) (c off : Nat) : Byte :=
  match (s.core c).near.reverse.find? fun e => e.off ≤ off && off < e.off + e.n with
  | some e => e.val.extractLsb' (8 * (off - e.off)) 8
  | none =>
    match (s.looped c).reverse.findSome? fun h => match h.op with
        | .write n v => if h.loc ≤ spadLoc c off ∧ spadLoc c off < h.loc + n then some (v.extractLsb' (8 * (spadLoc c off - h.loc)) 8) else none
        | _ => none with
    | some b => b
    | none => s.raw (spadLoc c off)

def State.aliasRead (s : State) (c off n : Nat) : List Byte := (List.range n).map fun i => s.aliasByte c (off + i)

/-- The copy that a core's loads read: its own die's, or the Carcass copy on a channel core (R23). -/
def colDie (c : Nat) : Nat := if isChan c then 8 else layerOf c % 8

def State.colRead (s : State) (c off n : Nat) : List Byte := s.readBytes 0 (colLoc (towerOf c) (colDie c) off) n

/-- An alias store of access `acc` of thread `tid` enters the near buffer: it is performed, and clears reservations of the owning core on
its word (R204, R235). -/
def State.nearPush (s : State) (acc : Nat) (tid : Word) (c off n : Nat) (v : Vec) : State :=
  (({ s with fresh := s.fresh + 1 } : State).modCore c fun k =>
    { k with near := k.near ++ [{ id := s.fresh, acc := acc, tid := tid, off := off, n := n, val := v }] }).clearResv (spadLoc c off) n

/-- Serves the local pieces of an access that can be served now. -/
def State.localStep (s : State) (a : Access) : List Piece → List Piece → State × Access
  | [], done => (s, { a with pieces := done.reverse })
  | x :: r, done =>
    if x.st ≠ .todo ∨ !x.isLocal then s.localStep a r (x :: done)
    else
      let o := x.da % 2 ^ 20
      if a.stores then
        if s.nearOpen a.core a.id then
          (s.nearPush a.id a.tid a.core o x.n (BitVec.ofNat 512 (bufNat a.buf x.off x.n))).localStep a r ({ x with st := .done } :: done)
        else s.localStep a r (x :: done)
      else
        let bs := if x.da / 2 ^ 48 = 5 then s.aliasRead a.core o x.n else s.colRead a.core o x.n
        s.localStep { a with buf := putBuf a.buf x.off bs } r ({ x with st := .done } :: done)

/-! ### Sending -/

/-- Sends one piece: its header waits in the port until the pair has a permit (R47). -/
def State.sendPiece (s : State) (a : Access) (i : Nat) (x : Piece) (t : Target) : State :=
  let id := s.fresh
  let cl := permitPort a.core
  let r : Req := { id := id, acc := a.id, piece := i, part := a.part, cluster := cl, slice := sliceOf t.home, core := a.core,
                   slot := a.slot, asked := s.now }
  let h : Header := { id := id, part := a.part, op := a.opOf x, loc := t.loc, home := t.home, dest := t.dest, expiry := t.expiry,
                      uncmb := false, mems := [id], extra := 0, src := .cluster }
  let s : State := { s with fresh := s.fresh + 1, net := { s.net with reqs := s.net.reqs ++ [r], port := s.net.port ++ [h] } }
  s.grantPermits cl (sliceOf t.home)

/-- Resolves every piece still to send, in order; stops at the first that does not resolve. -/
def State.resolveAll (s : State) (a : Access) : List Piece → Nat → List (Nat × Piece × Target) →
    Except (Piece × Res) (List (Nat × Piece × Target)) × State
  | [], _, acc => (.ok acc.reverse, s)
  | x :: r, i, acc =>
    if x.st ≠ .todo ∨ x.isLocal then s.resolveAll a r (i + 1) acc
    else
      match s.resolve a.core a.part a.need (a.opOf x) x.da with
      | (.at_ t, s) => s.resolveAll a r (i + 1) ((i, x, t) :: acc)
      | (e, s) => (.error (x, e), s)

def State.sendAll (s : State) (a : Access) : List (Nat × Piece × Target) → State
  | [] => s
  | (i, x, t) :: r => (s.sendPiece a i x t).sendAll a r

/-- Sends an N-form: a type 0x04 message to the update port of its word's home (R312), through Byand where the word is another
module's (R68). -/
def State.sendUpdate (s : State) (a : Access) (t : Target) : State :=
  match a.op with
  | some (.upd op w v) =>
    let away := match t.home with
      | .egress q => some (q, t.dest, none)
      | _ => none
    s.postTo a.part (some a.tid) a.core a.slot .core (updateCore t.loc) away none (.update t.loc op w v t.expiry a.id)
  | _ => s

def State.sendForm (s : State) (a : Access) (l : List (Nat × Piece × Target)) : State :=
  if a.nform then
    match l with
    | (_, _, t) :: _ => s.sendUpdate a t
    | [] => s
  else s.sendAll a l

/-- Marks pieces of one state as another. -/
def Access.mark (a : Access) (was now : PieceSt) : Access :=
  { a with pieces := a.pieces.map fun x => if x.st = was then { x with st := now } else x }

/-- Marks the pieces that have been sent. -/
def Access.markSent (a : Access) : Access :=
  { a with pieces := a.pieces.map fun x => if x.st = .todo ∧ !x.isLocal then { x with st := .sent } else x }

/-! ### What an access leaves in its thread -/

/-- Changes the thread that made the access, where it still is. -/
def State.onThread (s : State) (a : Access) (f : Thread → Thread) : State :=
  match s.thread a.core a.slot with
  | some t => if t.tid = a.tid then s.setThread a.core a.slot (f t) else s
  | none => s

/-- The value of a scalar load (R296). -/
def loadValue (size : Nat) (signed : Bool) (v : Nat) : Word :=
  if signed then sext64 (8 * size) (BitVec.ofNat 64 v) else zext64 (8 * size) (BitVec.ofNat 64 v)

/-- The FP32 lanes of a group of 16 narrow codes (R301). -/
def ldnLanes (f : BitVec 32) (group : Nat) (sc : BitVec 20) : Vec :=
  let w := (Fmt.ofWord f).width
  BitVec.ofNat 512 (packCodes 32 ((List.range 16).map fun i =>
    (toFp32 (scaled (Fmt.ofWord f) (codeOf w group i) sc i)).toNat))

/-- The codes of 16 FP32 lanes (R301). -/
def stnCodes (f : BitVec 32) (v : Vec) (sc : BitVec 20) : Nat :=
  packCodes (Fmt.ofWord f).width ((List.range 16).map fun i =>
    (Fmt.ofWord f).encode (ofFp32 (v.extractLsb' (32 * i) 32)) sc i)

/-- Where the scale bytes of a narrow access lie in its buffer. -/
def scaleAt : Nat := 8192

/-- The scale that an access has read, `b` its number; with no array, the unit scale (R244). -/
def scaleIn (buf : Sparse Byte) (off : Nat) : Option Nat → BitVec 20
  | none => unitScale
  | some b => scaleOf (bufNat buf off 3) b

/-- A tile with `n` bytes at `off` replaced. -/
def tilePut (m : Tile) (off n v : Nat) : Tile :=
  BitVec.ofNat 32768 (m.toNat % 2 ^ (8 * off) + v % 2 ^ (8 * n) * 2 ^ (8 * off)
    + m.toNat / 2 ^ (8 * (off + n)) * 2 ^ (8 * (off + n)))

/-- Bytes of a tile as a number. -/
def tileNat (m : Tile) (off n : Nat) : Nat := m.toNat / 2 ^ (8 * off) % 2 ^ (8 * n)

/-- Offset of memory row `r` of a transfer. -/
def rowOff (base stride : Word) (r : Nat) : Word := base + BitVec.ofNat 64 r * stride

/-- The companion tile with the scales of a narrow load (R335), in row order. -/
def putScales (buf : Sparse Byte) (sc base stride : Word) (nb w : Nat) : Nat → Tile → Tile
  | 0, m => m
  | k + 1, m =>
    let m := putScales buf sc base stride nb w k m
    let b := (rowOff base stride (k / nb)).toNat / (2 * w) + k % nb
    let v := if sc = 0 then unitScale else scaleOf (bufNat buf (scaleAt + scaleByte b) 3) b
    let hi := m.toNat / 2 ^ (20 * k + 20) * 2 ^ (20 * k + 20)
    BitVec.ofNat 32768 (m.toNat % 2 ^ (20 * k) + v.toNat * 2 ^ (20 * k) + hi)

/-- A transposed tile from its memory rows (R334): memory row `j` holds element `j` of every tile row. -/
def transposed (buf : Sparse Byte) (md : BitVec 32) (m : Tile) : Tile :=
  let e := if shFmt md = 0 then 4 else 2
  let rows := shRows md
  let cols := shBytes md / e
  let bytes := (List.range rows).flatMap fun r => (List.range cols).flatMap fun j => bufBytes buf (j * rows * e + r * e) e
  tilePut m 0 (rows * shBytes md) (leNat bytes)

/-- The register results of an access, from its buffer; with `ok` false, zeros (R413). -/
def Access.results (a : Access) (ok : Bool) (t : Thread) : Thread :=
  match a.cont with
  | .gen d size sg => t.payG d (if ok then loadValue size sg (bufNat a.buf 0 size) else 0)
  | .vec d => t.payV d (if ok then BitVec.ofNat 512 (bufNat a.buf 0 64) else 0)
  | .amo d w sg => t.payG d (if ok then loadValue w sg (bufNat a.buf 0 w) else 0)
  | .lr d w _ => t.payG d (if ok then loadValue w true (bufNat a.buf 0 w) else 0)
  | .sc d => t.payG d (if ok then BitVec.ofNat 64 (bufNat a.buf 0 8) else 0)
  | .ldn d f b =>
    t.payV d (if ok then ldnLanes f (bufNat a.buf 0 (2 * (Fmt.ofWord f).width)) (scaleIn a.buf scaleAt b) else 0)
  | .mld d md f sc comp base stride =>
    let t := t.payM d (if ok then tilePut (t.mr d) 0 (shRows md * shBytes md) (bufNat a.buf 0 (shRows md * shBytes md)) else 0)
    match comp with
    | none => t
    | some c =>
      let w := (Fmt.ofWord f).width
      let nb := shBytes md / (2 * w)
      t.payM c (if ok then putScales a.buf sc base stride nb w (shRows md * nb) (t.mr c) else 0)
  | .mldt d md => t.payM d (if ok then transposed a.buf md (t.mr d) else 0)
  | _ => t

/-- The last piece has replied: the thread has its result, or the failure's trap (R209, R413). A copy's access stays for its
copy unit, and a read that hardware makes for a thread for what asked for it. -/
def State.finishAccess (s : State) (a : Access) : State :=
  match a.cont with
  | .copy _ | .errand _ => s
  | .stn da f b v =>
    if a.failed.isSome then
      let s := s.dropAcc a.id
      s
    else
      -- The scale has arrived: the group's codes are stored (R301, R302).
      let n := 2 * (Fmt.ofWord f).width
      s.setAcc { a with cont := .store, buf := putBuf [] 0 (leBytes n (stnCodes f v (scaleIn a.buf scaleAt b))),
                        pieces := linePieces 3 da n 0 }
  | _ => s.dropAcc a.id

/-- How a finished access releases its thread. -/
def State.settle (s : State) (a : Access) : State :=
  match a.cont with
  | .copy _ | .errand _ => s
  | _ =>
    match a.failed with
    | none =>
      (s.onThread a (a.results true)).onThread a fun t =>
        if a.marked then (if t.avail = .parked then { t with from_ := Nat.max t.from_ (s.now + 1) } else t)
        else { t.advance with from_ := Nat.max t.from_ (s.now + 1) }
    | some (st, da) =>
      if a.nform then
        -- Its thread has gone on: DEDUCED, log entry 93.
        s.onThread a fun t => { t with reports := t.reports ++ [{ cause := (failReport st).1, g1 := BitVec.ofNat 64 da,
                                                                  g2 := BitVec.ofNat 64 (failReport st).2, g4 := a.pc, g5 := a.word }] }
      else if a.marked then
        let (cause, g2) := failReport st
        s.onThread a fun t =>
          let t := a.results false t
          { t with reports := t.reports ++ [{ cause := cause, g1 := BitVec.ofNat 64 da, g2 := BitVec.ofNat 64 g2, g4 := a.pc,
                                              g5 := a.word }],
                   from_ := if t.avail = .parked then Nat.max t.from_ (s.now + 1) else t.from_ }
      else
        match s.thread a.core a.slot with
        | some t =>
          if t.tid = a.tid then
            let (cause, g2) := failTrap st
            s.trapThread a.core a.slot a.pc cause (BitVec.ofNat 64 da) (BitVec.ofNat 64 g2) a.pc a.word
          else s
        | none => s

/-- An access that its thread waits for. -/
def Access.ordinary (a : Access) : Bool := !a.marked && !a.nform && a.kind != .copyRead && a.kind != .copyWrite

/-- A page fault of an access that has left its instruction (R219): a relaxed one, an N-form or a copy unit's is held in the port; an
ordinary one, which a lease had turned back, is given up, and its thread is dropped and issues its instruction, or fetches its line, again
after the wake. -/
def State.holdAccess (s : State) (a : Access) (malformed : Bool) (da token : Nat) : State :=
  (if a.ordinary then
      ((if a.kind = .fetch then s.endFetch a.core a.slot else s).dropAcc a.id).onThread a fun t => { t with avail := .dropped token }
    else s.setAcc { a with held := some token }).pageFault
    a.part (faultOf a.kind (a.marked || a.nform) malformed da a.core a.slot token)

/-- Sets the pieces of requests to a state. -/
def State.markReqs (s : State) (ids : List Nat) (st : PieceSt) : State :=
  let rs := s.net.reqs.filter fun r => ids.contains r.id
  s.modNet fun n => { n with accs := n.accs.map fun a =>
    let mine := (rs.filter fun r => r.acc == a.id).map (·.piece)
    if mine.isEmpty then a
    else { a with pieces := (a.pieces.zipIdx).map fun (x, i) => if mine.contains i then { x with st := st } else x } }

/-- Of a store that has failed, the pieces that are not performed yet are not made (R336, R413), wherever they have come to in the module, and
their permits return. Those that have left over Byand are performed by the other module: DEDUCED, log entry 114. -/
def State.recall (s : State) (a : Access) : State :=
  if a.failed.isSome && (a.cont == .store || a.cont == .mst) then
    let rs := s.net.reqs.filter fun r =>
      r.acc == a.id && (a.pieces[r.piece]?).any (·.st == .sent) && !s.by_.out.any (·.req == r.id)
    let other (h : Header) : Bool := !rs.any (·.id == h.id)
    let s := (s.markReqs (rs.map (·.id)) .done).modNet fun n =>
      { n with reqs := n.reqs.filter fun r => !rs.any (·.id == r.id), port := n.port.filter other, linkWait := n.linkWait.filter other,
               packets := n.packets.filter fun k => other k.hdr, homeQ := n.homeQ.filter other }
    rs.foldl (fun s r => s.grantPermits r.cluster r.slice) s
  else s

/-- Takes an access on: sends what is still to send; with every piece back, finishes it. A narrow store goes on from its
scale read to its stores, hence the step bound. An ordinary access turned back for a lease is sent again once its other pieces are back:
DEDUCED, log entry 94. -/
def State.drive : Nat → State → Nat → State
  | 0, s, _ => s
  | fuel + 1, s, id =>
    match s.acc id with
    | none => s
    | some a0 =>
      if a0.held.isSome ∨ (a0.pieces.any (fun x => x.st == .todo) ∧ s.behind a0) then s
      else if a0.failed.isSome ∧ a0.pieces.any (fun x => x.st == .todo) then State.drive fuel (s.setAcc (a0.mark .todo .done)) id
      else
        let (s, a) := s.localStep a0 a0.pieces []
        let s := s.setAcc a
        if a.pieces.all fun x => x.st == .done then
          match a.cont, a.failed with
          | .stn .., none => State.drive fuel (s.finishAccess a) id
          | _, _ => (s.finishAccess a).settle a
        else if a.pieces.any fun x => x.st == .todo && !x.isLocal then
          if a.ordinary && a.pieces.any (fun x => x.st == .sent || x.st == .performed) then s
          else
          match s.resolveAll a a.pieces 0 [] with
          | (.ok l, s) => (s.setAcc a.markSent).sendForm a l
          | (.error (x, .page m), s) => ({ s with fresh := s.fresh + 1 } : State).holdAccess a m x.da s.token
          | (.error (x, .fail st), s) =>
            let a := { a.mark .todo .done with failed := some (st, x.da) }
            State.drive fuel ((s.setAcc a).recall a) id
          | (.error _, s) => s
        else s

def State.advanceAcc (s : State) (id : Nat) : State := State.drive 6 s id

/-! ### Issue -/

/-- Any access of a thread, and any message or trap of it, clears its reservation (R235). -/
def Thread.noResv (t : Thread) : Thread := { t with resv := none }

/-- Sets every register of a list empty with a result due. -/
def Thread.oweAll (t : Thread) : List (RegKind × Nat) → Thread
  | [] => t
  | (k, n) :: r => (t.owe k n).oweAll r

/-- An access about to issue, in the thread's place. -/
def State.newAccess (s : State) (t : Thread) (id : Nat) (kind : AccKind) (marked nform : Bool) (op : Option MemOp) (ps : List Piece)
    (buf : Sparse Byte) (k : Cont) : Access :=
  { id := id, core := s.cur.core, slot := s.cur.slot, tid := t.tid, part := t.part, kind := kind, marked := marked, nform := nform,
    op := op, pieces := ps, buf := buf, cont := k, pc := t.pc, word := s.cur.word, held := none, failed := none, rights := none }

/-- Puts an access into the machine and sends what it can. -/
def State.launchAccess (s : State) (a : Access) : State :=
  ({ s with fresh := s.fresh + 1, net := { s.net with accs := s.net.accs ++ [a] } } : State).advanceAcc a.id

/-- Issues an access at a home queue (R225): marked accesses go on at once within their window of 8; an unmarked one waits
for every earlier access, traps or drops before anything leaves, and otherwise waits for its reply. What its walks have read
stays counted (R211). -/
def State.issueAccess (s : State) (t : Thread) (kind : AccKind) (marked : Bool) (op : Option MemOp) (ps : List Piece)
    (buf : Sparse Byte) (k : Cont) (dst : List (RegKind × Nat)) : Out :=
  let a := s.newAccess t s.fresh kind marked false op ps buf k
  let keep := match op with
    | some (.sc ..) => true
    | _ => false
  let s0 := if keep then s else s.here Thread.noResv
  if marked then
    if s.window t.tid ≥ 8 then .admission s
    else .retire ((s0.here (·.oweAll dst)).launchAccess a)
  else if s.unperformed t.tid then .fence s
  else
    match s0.resolveAll a ps 0 [] with
    | (.ok l, s1) =>
      let s2 := (({ s1 with fresh := s1.fresh + 1, net := { s1.net with accs := s1.net.accs ++ [a.markSent] } } : State).sendAll a l).advanceAcc a.id
      if (s2.acc a.id).isSome then .start s2 .memory else .settled s2
    | (.error (x, .page m), s1) =>
      let token := s1.token
      .drop (({ s1 with fresh := s1.fresh + 1 } : State).pageFault t.part (faultOf kind false m x.da s.cur.core s.cur.slot token)) token
    | (.error (x, .fail st), s1) =>
      .trapIn s1 (failTrap st).1 (BitVec.ofNat 64 x.da) (BitVec.ofNat 64 (failTrap st).2)
    | (.error _, s1) => .admission s1

/-- Issues an N-form (R312): it retires at once; a kind of target that takes no N-form is refused before anything leaves. -/
def State.issueUpdate (s : State) (t : Thread) (da w : Nat) (op : MemOp) : Out :=
  let a := s.newAccess t s.fresh .atomic false true (some op) (onePiece da w) [] .upd
  match s.resolve s.cur.core t.part .rwa op da with
  | (.fail .refused, s1) => .trapIn s1 6 (BitVec.ofNat 64 da) 0
  | (.fail .noTarget, s1) => .trapIn s1 4 (BitVec.ofNat 64 da) 0
  | _ => .retire ((s.here fun t => t.closeRegion.noResv).launchAccess a)

/-! ### Performing (R224, R226) -/

/-- New value of an N-form (R312). -/
def updApply (op : NOp) (w : Nat) (a b : Word) : Word :=
  match op with
  | .add => amoApply .add w a b
  | .max => amoApply .max w a b
  | .min => amoApply .min w a b
  | .fadd => (toFp32 (Exact.add (ofFp32 (a.setWidth 32)) (ofFp32 (b.setWidth 32)))).setWidth 64

/-- One indivisible operation at its home, under key `k`: the value that returns, and the state after. `who` is the core and
slot of the requester, for reservations. -/
def State.performOp (s : State) (k loc : Nat) (op : MemOp) (who : Option (Nat × Nat)) : Vec × State :=
  match op with
  | .read n => (BitVec.ofNat 512 (s.readLE k loc n), s)
  | .write n v => (0, s.store k loc (bytesOf n v))
  | .amo o w v =>
    let old := s.readLE k loc w
    (BitVec.ofNat 512 old, s.store k loc (bytesOf w (amoApply o w (BitVec.ofNat 64 old) v)))
  | .cas w cmp new =>
    let old := s.readLE k loc w
    (BitVec.ofNat 512 old, if old = (clip w cmp).toNat then s.store k loc (bytesOf w new) else s.clearResv loc w)
  | .fadd v =>
    let old := s.readLE k loc 4
    let sum := toFp32 (Exact.add (ofFp32 (BitVec.ofNat 32 old)) (ofFp32 v))
    (BitVec.ofNat 512 old, s.store k loc (bytesOf 4 sum))
  | .upd o w v =>
    let old := s.readLE k loc w
    (0, s.store k loc (bytesOf w (updApply o w (BitVec.ofNat 64 old) v)))
  | .lr w =>
    let old := s.readLE k loc w
    (BitVec.ofNat 512 old,
      match who with
      | some (c, sl) => s.modThread c sl fun t => { t with resv := some (loc / 8 * 8, s.now) }
      | none => s)
  | .sc w v =>
    match who with
    | some (c, sl) =>
      let held := (s.thread c sl).bind (·.resv)
      match held with
      | some (a, _) =>
        let s1 := s.modThread c sl Thread.noResv
        if a = loc / 8 * 8 then (0, s1.store k loc (bytesOf w v)) else (1, s1)
      | none => (1, s)
    | none => (1, s)

/-- What one member of an operation counts (R57, R94, R305, R310). -/
def State.meterOp (s : State) (p loc : Nat) (op : MemOp) (ok : Bool) : State :=
  match op with
  | .read n => s.chargeBytes p loc false n
  | .write n _ => s.chargeBytes p loc true n
  | .amo _ w _ => ((s.charge p 6 1).chargeBytes p loc false w).chargeBytes p loc true w
  | .cas w _ _ => ((s.charge p 6 1).chargeBytes p loc false w).chargeBytes p loc true w
  | .fadd _ => ((s.charge p 6 1).chargeBytes p loc false 4).chargeBytes p loc true 4
  | .upd _ w _ => ((s.charge p 6 1).chargeBytes p loc false w).chargeBytes p loc true w
  | .lr w => (s.charge p 6 1).chargeBytes p loc false w
  | .sc w _ => if ok then (s.charge p 6 1).chargeBytes p loc true w else s.charge p 6 1

def State.meterMany (s : State) (p loc : Nat) (op : MemOp) (ok : Bool) : Nat → State
  | 0 => s
  | n + 1 => (s.meterOp p loc op ok).meterMany p loc op ok n

/-- Operand bytes that a request carries, for the Byand meters. -/
def opBytes : MemOp → Nat
  | .read _ | .lr _ => 0
  | .write n _ => n
  | .amo _ w _ | .cas w _ _ | .upd _ w _ | .sc w _ => w
  | .fadd _ => 4

def opReads : MemOp → Bool
  | .write .. => false
  | _ => true

def State.addReply (s : State) (r : Reply) : State := s.modNet fun n => { n with replies := n.replies ++ [r] }

def State.unqueue (s : State) (h : Header) : State := s.modNet fun n => { n with homeQ := n.homeQ.filter (·.id != h.id) }

/-- Wait-buffer entries that a combined identity stands on are freed (R56, R60), from the youngest. -/
def freeWaits (ids : List Nat) : List WaitEntry → List WaitEntry
  | [] => []
  | e :: r => if ids.contains e.comb then freeWaits (e.first :: e.second :: ids) r else e :: freeWaits ids r

/-- A request gives its permit back. -/
def State.endReq (s : State) (r : Req) : State :=
  let s := s.modNet fun n => { n with reqs := n.reqs.filter (·.id != r.id) }
  s.grantPermits r.cluster r.slice

/-- Ends requests and sends their pieces again (R214). -/
def State.resend (s : State) : List Nat → State
  | [] => s
  | id :: rest =>
    match s.net.reqs.find? (·.id == id) with
    | none => s.resend rest
    | some r => (((s.markReqs [id] .todo).endReq r).advanceAcc r.acc).resend rest

/-- A home rejects an operation whose expiry its clock has reached: every member is reissued, one of another module by that module
(R56, R214, R236). -/
def State.reject (s : State) (h : Header) : State :=
  let s := s.unqueue h
  let s := s.modNet fun n => { n with waits := (freeWaits [h.id] n.waits.reverse).reverse }
  (h.mems.foldl (fun s id => s.answerInside id .expired 0) s).resend h.mems

def Header.expired (h : Header) (s : State) : Bool :=
  match h.expiry with
  | some e => e ≤ s.md.ltc.toNat
  | none => false

/-- The requester of a request. -/
def State.requester (s : State) (id : Nat) : Option (Nat × Nat) :=
  (s.net.reqs.find? (·.id == id)).map fun r => (r.core, r.slot)

/-- Members of an operation, those of a packet combined before it was admitted among them (R57, R72). -/
def Header.members (h : Header) : Nat := h.mems.length + h.extra

/-- A read meets an uncorrectable error (R209). -/
def Header.fails (h : Header) (bad : Bool) : Bool := bad && opReads h.op && (isHbm h.loc || isSram h.loc)

/-- A drained near-buffer entry reaches the banks (R227). It cleared reservations when it entered the near buffer (R235). -/
def State.performLoop (s : State) (h : Header) : State :=
  match h.op with
  | .write n v => s.writeBytes 0 h.loc (bytesOf n v)
  | _ => s

/-- Bytes written one by one, each a write performed at its place. -/
def State.storeEach (s : State) (k a : Nat) : List Byte → State
  | [] => s
  | b :: r => (s.store k a [b]).storeEach k (a + 1) r

/-- A bench core's operation at its home, under its tag's key (R82, R83, R91): the value that returns and the state after. -/
def State.benchOp (s : State) (i k loc : Nat) (op : MemOp) : Vec × State :=
  match op with
  | .write n v => (0, s.storeEach k loc (bytesOf n v))
  | .lr w => (BitVec.ofNat 512 (s.readLE k loc w), s.modMod fun m => { m with benchLr := Sparse.insert m.benchLr i (loc / 8 * 8) })
  | .sc w v =>
    let s1 := s.modMod fun m => { m with benchLr := Sparse.erase m.benchLr i }
    if Sparse.find? s.md.benchLr i = some (loc / 8 * 8) then (0, s1.store k loc (bytesOf w v)) else (1, s1)
  | op => s.performOp k loc op none

/-- Bytes that an operation of a bench core returns; zero for one that is only acknowledged. -/
def opReplies : MemOp → Nat
  | .read n => n
  | .amo _ w _ | .cas w _ _ | .lr w => w
  | .sc .. => 8
  | .fadd _ => 4
  | .write .. | .upd .. => 0

/-- What a bench core has from an operation that has been performed. -/
def benchReply (op : MemOp) (v : Vec) : Ext :=
  if opReplies op = 0 then .ack else if 8 < opReplies op then .wide (opReplies op) v else .data (opReplies op) (v.setWidth 64)

/-- A bench core's access performed at its home: metered in the partition of its tag, and for a system access nowhere (R83). -/
def State.performBench (s : State) (h : Header) (i : Nat) (sys bad : Bool) : State :=
  if h.fails bad then
    let s := if sys then s else s.irqLine h.part 2
    { s with ext := .accessFault }
  else
    let (v, s) := s.benchOp i (if sys then s.md.sysKey else s.keyOf h.part) h.loc h.op
    let s := if sys then s else s.meterOp h.part h.loc h.op (v == 0)
    { s with ext := benchReply h.op v }

/-- A request of the network performed at a home of this module, with its reply. -/
def State.performReq (s : State) (h : Header) (bad : Bool) : State :=
  if h.fails bad then ((s.markReqs h.mems .performed).addReply { id := h.id, status := .uncorrectable, val := 0 }).irqLine h.part 2
  else
    let (v, s) := s.performOp (s.keyOf h.part) h.loc h.op (s.requester h.id)
    ((s.meterMany h.part h.loc h.op (v == 0) h.members).markReqs h.mems .performed).addReply { id := h.id, status := .ok, val := v }

/-- Arrivals at a slice stand in the order in which they came; of one cycle by emitter core, then slot (R150). -/
def Transfer.before (a b : Transfer) : Bool :=
  a.at_ < b.at_ || (a.at_ == b.at_ && (a.core < b.core || (a.core == b.core && a.slot < b.slot)))

def insertArrival (t : Transfer) : List Transfer → List Transfer
  | [] => [t]
  | x :: r => if t.before x then t :: x :: r else x :: insertArrival t r

/-- A token transfer reaches its home slice's ingress (R148, R151). -/
def State.arriveToken (s : State) (h : Header) (i : Nat) (tid : Word) : State :=
  match h.op, s.net.reqs.find? (·.id == h.id) with
  | .write _ v, some r =>
    let t : Transfer := { word := v, core := r.core, slot := r.slot, tid := tid, req := h.id, waited := 0, at_ := s.now }
    s.modSlice h.part i fun y => { y with inbox := insertArrival t y.inbox }
  | _, _ => s

/-- A host access through the aperture performed at its home, under the system key and unmetered (R77); one that meets an uncorrectable error
is answered as an Unsupported Request: DESIGN CHOICE, log entry 96. -/
def State.performAperture (s : State) (h : Header) (bad : Bool) : State :=
  if h.fails bad then { s with ext := .unsupported }
  else
    let (v, s) := s.benchOp 16 s.md.sysKey h.loc h.op
    { s with ext := benchReply h.op v }

/-- An operation performed at a home of this module. -/
def State.performHere (s : State) (h : Header) (bad : Bool) : State :=
  match h.src with
  | .cluster => (s.unqueue h).performReq h bad
  | .loop .. => (s.unqueue h).performLoop h
  | .bench i sys => (s.unqueue h).performBench h i sys bad
  | .token i tid => (s.unqueue h).arriveToken h i tid
  | .msg => s.unqueue h
  | .direct => (s.unqueue h).haveTurn h.id
  | .aperture => (s.unqueue h).performAperture h bad

/-- What a host access counts, once it is performed (R94, R95). -/
def State.meterHost (s : State) (h : Header) : State :=
  match h.src with
  | .bench _ sys => if sys then s else s.meterOp h.part h.loc h.op true
  | _ => s.meterMany h.part h.loc h.op true h.members

/-- The end of a host access: a reply to its requester, or to a bench core. -/
def State.answerHost (s : State) (h : Header) (st : Status) (v : Vec) : State :=
  match h.src with
  | .bench .. => { s with ext := if st = .ok then benchReply h.op v else .accessFault }
  | _ =>
    (if st = .busMaster then s else s.markReqs h.mems .performed).addReply { id := h.id, status := st, val := v }

/-- An operation leaves on the PCIe link (R78, R311): a store is performed as it is emitted, the rest wait for completion. -/
def State.performHost (s : State) (h : Header) : State :=
  let s := s.unqueue h
  if !s.md.bme then s.answerHost h .busMaster 0
  else
    match h.op with
    | .write .. => (s.meterHost h).answerHost h .ok 0
    | _ => s.modNet fun n => { n with hostOut := n.hostOut ++ [h] }

/-- Payload bytes of a message (R63, R94). -/
def MsgBody.bytes : MsgBody → Nat
  | .table _ g v => 8 * g.length + 64 * v.length
  | .fill _ _ k _ _ => if k = .v then 64 else 8
  | .update _ _ w _ _ _ => w
  | _ => 0

/-- A message leaves: it carries its sender's domain, and the LTC at leaving (R71, R74). -/
def State.leaveMsg (s : State) (q : Nat) (h : Header) : State :=
  (s.unqueue h).modNet fun n => { n with msgs := n.msgs.map fun x =>
    if x.id = h.id then { x with away := x.away.map fun w => (q, w.2.1, some s.md.ltc.toNat), dom := (s.aux x.part).bypart.setWidth 16 } else x }

/-- A request leaves (R69, R71, R74). -/
def State.leaveReq (s : State) (q : Nat) (h : Header) : State :=
  (s.unqueue h).modByand fun b => { b with out := b.out ++
    [{ req := h.id, port := q, hdr := h, sent := s.md.ltc.toNat, dom := (s.aux h.part).bypart.setWidth 16, lost := false }] }

/-- Served next at a home whose last turn was of partition `last`: partitions in turn, and within one in order of arrival (R49). -/
def turnOf (last : Nat) (xs : List (Nat × α)) : Option (Nat × α) :=
  match nextPart last (xs.map (·.1)) with
  | some p => xs.find? (·.1 == p)
  | none => none

/-- The partition that a home served last. -/
def State.lastTurn (s : State) (h : Home) : Nat := ((s.net.homeTurn.find? (·.1 == h)).map (·.2)).getD 63

def State.setTurn (s : State) (h : Home) (p : Nat) : State :=
  s.modNet fun n => { n with homeTurn := (h, p) :: n.homeTurn.filter (·.1 != h) }

/-- The group of a layer's eDRAM that refreshes now holds accesses back (R208). -/
def State.refreshing (s : State) : Home → Bool
  | .edram l g => s.md.edRdy && (s.layer l).group == g
  | _ => false

/-- Of headers at a home, the one that is next: partitions take turns at the slice's ingress (R49), and the operations of one are performed in
order of arrival (R226). -/
def State.nextOf (s : State) (home : Home) (hs : List Header) : Option Header :=
  (turnOf (s.lastTurn home) ((hs.filter (·.home == home)).map fun h => (h.part, h))).map (·.2)

/-- Bytes that an operation touches. -/
def opSpan : MemOp → Nat
  | .read n | .write n _ => n
  | .amo _ w _ | .cas w _ _ | .upd _ w _ | .lr w | .sc w _ => w
  | .fadd _ => 4

/-- The banks of a scratchpad that a header is for: those of its bytes (R203). What comes to the core itself or to its Mortise unit goes through
none of the 384, and stands in a queue of its own, number 384. -/
def Header.banks (h : Header) : List Nat :=
  match h.src with
  | .token .. | .msg | .direct => [384]
  | _ => (List.range ((h.loc % 8 + Nat.max 1 (opSpan h.op) + 7) / 8)).map fun i => ((h.loc % 2 ^ 17) / 8 + i) % 384

/-- The operation that is next at bank `b` of a core's scratchpad, and at every other bank that it touches: each bank is a home queue of its own
(R203, R223). -/
def State.nextBank (s : State) (c b : Nat) : Option Header :=
  let first (x : Nat) : Option Header := s.nextOf (.spad c) (s.net.homeQ.filter (·.banks.contains x))
  match first b with
  | some h => if h.banks.all fun x => first x == some h then some h else none
  | none => none

/-- The operation that a home performs next; of a scratchpad, at the bank that the event names. -/
def State.nextAt (s : State) (home : Home) : Option Header :=
  match home with
  | .spad c => s.nextBank c s.env.sub
  | h => s.nextOf h s.net.homeQ

/-- A request or a message leaves through its Byand port, in the order of a home (R49, R69), and is kept with the number of that port, which
is another than `q` where firmware has redirected `q` (R75): what has crossed to `q`'s crossbar port leaves by the other port's link, DESIGN
CHOICE, log entry 105. While the link is down both wait. -/
def State.performEgress (s : State) (q : Nat) : State :=
  let port := s.egressPort q
  if !(Sparse.get .reset s.by_.ports port).up then s
  else
    match s.nextAt (.egress q) with
    | none => s
    | some h =>
      let s := s.setTurn (.egress q) h.part
      match h.src with
      | .msg => s.leaveMsg port h
      | _ => s.leaveReq port h

/-- HOME_QUEUE_PERFORM: the next operation of a home. -/
def State.homePerform (s : State) (home : Home) (bad : Bool) : State :=
  match home with
  | .egress q => s.performEgress q
  | _ =>
    match s.nextAt home with
    | none => s
    | some h =>
      if s.refreshing home then s
      else
        let s := s.setTurn home h.part
        if h.expired s then s.reject h
        else if home = .host ∧ h.src ≠ .direct then s.performHost h
        else s.performHere h bad

/-! ### Replies (R225, R50) -/

/-- A reply reaches its requester's port. -/
def State.deliver (s : State) (r : Req) (x : Reply) : State :=
  let s := s.modNet fun n => { n with replies := n.replies.filter (·.id != r.id) }
  let s := (s.markReqs [r.id] .done)
  match s.acc r.acc with
  | none => s.endReq r
  | some a =>
    let off := ((a.pieces[r.piece]?).map (·.off)).getD 0
    let n := ((a.pieces[r.piece]?).map (·.n)).getD 0
    let da := ((a.pieces[r.piece]?).map (·.da)).getD 0
    let a :=
      if x.status = .ok then (if a.stores then a else { a with buf := putBuf a.buf off (bytesOf (if n = 0 then 8 else n) x.val) })
      else { a with failed := (match a.failed with
        | some f => some f
        | none => some (x.status, da)) }
    (((s.setAcc a).recall a).endReq r).advanceAcc a.id

/-- The status of a remote reply. -/
def remoteStatus : Status → Status
  | .ok => .ok
  | .uncorrectable => .uncorrectable
  | _ => .byrefuse

/-- A refused request whose local physical address names host memory or nothing meets an address fault (R65). -/
def refusedStatus (loc : Nat) (st : Status) : Status :=
  if remoteStatus st = .byrefuse ∧ !isHbm loc ∧ !isSram loc then .noTarget else remoteStatus st

/-- A request that left through Byand ends: it counts as sent (R94), and its members, or the errand that it is a piece of, have their
reply. -/
def State.endRemote (s : State) (o : Remote) (st : Status) (v : Vec) : State :=
  let s := (s.charge o.hdr.part 13 (opBytes o.hdr.op * o.hdr.members)).modByand fun b => { b with out := b.out.filter (·.req != o.req) }
  match o.hdr.src with
  | .direct => s.haveTurn o.req (some (st, v))
  | _ => (s.markReqs o.hdr.mems .performed).addReply { id := o.req, status := st, val := v }

/-- A request whose lease the other module has found expired is made anew (R214). -/
def State.redoRemote (s : State) (o : Remote) : State :=
  let s := s.modByand fun b => { b with out := b.out.filter (·.req != o.req) }
  match o.hdr.src with
  | .direct => s.loseTicket o.req
  | _ => s.reject o.hdr

/-- The N-form that a message carries is over (R231). -/
def State.endUpdate (s : State) (m : Msg) : State :=
  match m.body with
  | .update _ _ _ _ _ acc => s.dropAcc acc
  | _ => s

/-- The N-form that a rejected message carried is sent again (R236). -/
def State.resendUpdate (s : State) (acc : Nat) : State :=
  match s.acc acc with
  | some a => (s.setAcc (a.mark .sent .todo)).advanceAcc acc
  | none => s

/-- A refused N-form whose local physical address names host memory or nothing meets an address fault (R65), which is imprecise as the
thread has gone on (R413): DEDUCED, log entry 93. -/
def State.reportUpdate (s : State) (m : Msg) : State :=
  match m.body with
  | .update loc _ _ _ _ acc =>
    if isHbm loc then s
    else
      match s.acc acc with
      | some a =>
        s.onThread a fun t => { t with reports := t.reports ++ [{ cause := 0xB, g1 := BitVec.ofNat 64 ((a.pieces.map (·.da)).headD 0), g2 := 6,
                                                                  g4 := a.pc, g5 := a.word }] }
      | none => s
  | _ => s

/-- A message that left through Byand is answered: accepted, refused, or rejected for its lease (R50, R71, R236). -/
def State.endAway (s : State) (m : Msg) (st : Status) : State :=
  match st, m.body with
  | .expired, .update _ _ _ _ _ acc => (s.dropMsg m).resendUpdate acc
  | .ok, _ => ((s.charge m.part 13 m.body.bytes).dropMsg m).endUpdate m
  | _, _ => (((s.charge m.part 13 m.body.bytes).reportUpdate m).dropMsg m).endUpdate m

/-- The completion that the host or another module returns for a request that has left (R74, R311). A reply for a packet whose link
has gone down since never comes (R75). -/
def State.outsideReply (s : State) (id : Nat) (r : RemoteReply) : State :=
  match s.net.hostOut.find? (·.id == id) with
  | some h =>
    let s := s.modNet fun n => { n with hostOut := n.hostOut.filter (·.id != id) }
    if r.status = .ok then (s.meterHost h).answerHost h .ok r.value else s.answerHost h .hostError r.value
  | none =>
    match s.by_.out.find? (·.req == id) with
    | some o =>
      if o.lost then s
      else if r.status = .expired then s.redoRemote o
      else s.endRemote o (refusedStatus o.hdr.loc r.status) r.value
    | none =>
      match s.net.msgs.find? fun m => m.id == id && !m.lost && (m.away.any fun w => w.2.2.isSome) with
      | some m => s.endAway m r.status
      | none => s

/-- ACCESS_REPLY. -/
def State.accessReply (s : State) (id : Nat) (remote : RemoteReply) : State :=
  let s := s.outsideReply id remote
  match s.net.reqs.find? (·.id == id), s.net.replies.find? (·.id == id) with
  | some r, some x => s.deliver r x
  | _, _ => s

def State.port (s : State) (q : Nat) : Port := Sparse.get .reset s.by_.ports q
def State.modPort (s : State) (q : Nat) (f : Port → Port) : State :=
  s.modByand fun b => { b with ports := Sparse.put .reset b.ports q (f (Sparse.get .reset b.ports q)) }

/-- Saturating count of a 16-bit field. -/
def satInc (v : BitVec 16) : BitVec 16 := if v = 0xFFFF then v else v + 1

/-- A packet lost counts in LOST of port `q`, by which it left (R74, R75): the port is a DESIGN CHOICE, log entry 105, and that each packet counts
once, however many requests combined in it, DEDUCED, log entry 95. -/
def State.countLost (s : State) (q : Nat) : State := s.modPort q fun x => { x with lost := satInc x.lost }

/-- An N-form or message of `p` lost on port `q` (R74): it counts, and a report goes to the partition's lowest-numbered core. -/
def State.lostPacket (s : State) (p q : Nat) (dest : BitVec 22) : State :=
  (s.countLost q).postOwn p (.byand q) none (s.part p).base (.table 6 (reportWords s 0x12 (BitVec.ofNat 64 q) (dest.setWidth 64) 0 0 0 (s.part p).base) [])

/-- The time at which what left at `sent` counts as lost (R74), by the LTC: DESIGN CHOICE, log entry 104. -/
def State.lostAt (s : State) (sent : Nat) : Nat := sent + 2 ^ s.by_.tmo.toNat * 1000

/-- BYAND_TIMEOUT: a request with no reply completes as lost, and counts (R75); a lost N-form or message is counted and reported (R74). -/
def State.byandLost (s : State) (id : Nat) : State :=
  match s.by_.out.find? (·.req == id) with
  | some o => if s.lostAt o.sent ≤ s.md.ltc.toNat then (s.endRemote o .bylost 0).countLost o.port else s
  | none =>
    match s.net.msgs.find? (·.id == id) with
    | some m =>
      match m.away with
      | some (q, dest, some sent) =>
        if s.lostAt sent ≤ s.md.ltc.toNat then (((s.charge m.part 13 m.body.bytes).dropMsg m).endUpdate m).lostPacket m.part q dest else s
      | _ => s
    | none => s

/-- REMOTE_UPDATE: the update port applies an arriving N-form as one step; one whose expiry has passed is sent again (R312,
R236), and one that meets an uncorrectable error reads nothing, writes nothing and raises line 2 (R209, R321). -/
def State.applyUpdate (s : State) (m : Msg) (loc : Nat) (op : NOp) (w : Nat) (v : Word) (expiry : Option Nat) (acc : Nat) (bad : Bool) :
    State :=
  if expiry.any (· ≤ s.md.ltc.toNat) then
    ((s.answerInside m.id .expired 0).dropMsg m).resendUpdate acc
  else if bad && isHbm loc then ((s.dropMsg m).dropAcc acc).irqLine m.part 2
  else
    let s := ((s.dropMsg m).performOp (s.keyOf m.part) loc (.upd op w v) none).2
    (s.meterOp m.part loc (.upd op w v) true).dropAcc acc

/-- A page wake for a held access (R221): it is translated and sent again. -/
def State.wakeAcc (s : State) (token : Nat) : State :=
  match s.net.accs.find? (·.held == some token) with
  | some a => (s.setAcc { a with held := none }).advanceAcc a.id
  | none => s

end Sys2Proof.Machine
end

