-- ==== Sys2Proof/Machine/Flags.lean ====
section
/-! DEFINITION. Conditions of the compares, the one flag computation of the machine (R288-R290). -/

namespace Sys2Proof.Machine

/-- Condition CC on operands of `w` bits, with the bit number that BS and BC test (R288). -/
def cond {w : Nat} (cc : BitVec 3) (x y : BitVec w) (bit : Nat) : Bool :=
  match cc.toNat with
  | 0 => x == y
  | 1 => x != y
  | 2 => x.slt y
  | 3 => !x.slt y
  | 4 => x.ult y
  | 5 => !x.ult y
  | 6 => x.getLsbD bit
  | _ => !x.getLsbD bit

/-- Condition CC 0-3 on floating values; a NaN makes EQ, LT and GE false and NE true (R289). -/
def condF (cc : BitVec 2) (x y : XVal) : Bool :=
  let o := Exact.cmp x y
  match cc.toNat with
  | 0 => o == some .eq
  | 1 => o != some .eq
  | 2 => o == some .lt
  | _ => o == some .gt || o == some .eq

/-- The guard window of a thread that annuls the next instruction it reaches (R290). -/
def Thread.annuls (t : Thread) : Bool := t.gcnt != 0 && !t.gcond

end Sys2Proof.Machine
end

