-- ==== Sys2Proof/Machine/Integer.lean ====
section
/-! DEFINITION. Integer, bit, immediate, compare and jump instructions (R279-R294). -/

namespace Sys2Proof.Machine

abbrev Result := Host.Outcome State Fault Refusal

/-! ### Arithmetic helpers -/

def boolWord (b : Bool) : Word := if b then 1 else 0

/-- The low 32 bits, sign-extended (the W forms). -/
def narrowW (v : Word) : Word := sext64 32 v

/-- Bits [127:64] of the exact signed product (R282). -/
def mulHighS (a b : Word) : Word := BitVec.ofInt 64 (a.toInt * b.toInt / 2 ^ 64)
/-- Bits [127:64] of the exact unsigned product. -/
def mulHighU (a b : Word) : Word := BitVec.ofNat 64 (a.toNat * b.toNat / 2 ^ 64)

/-- Signed quotient and remainder (R283). -/
def divS (a b : Word) : Word × Word :=
  if b = 0 then (BitVec.allOnes 64, a)
  else (BitVec.ofInt 64 (a.toInt.tdiv b.toInt), BitVec.ofInt 64 (a.toInt.tmod b.toInt))

/-- Unsigned quotient and remainder (R283). -/
def divU (a b : Word) : Word × Word := if b = 0 then (BitVec.allOnes 64, a) else (a / b, a % b)

def popcount (a : Word) : Word := BitVec.ofNat 64 ((List.range 64).filter (a.getLsbD ·)).length
def leadZeros (a : Word) : Word := BitVec.ofNat 64 (if a = 0 then 64 else 63 - Nat.log2 a.toNat)
/-- Number of 0 bits below the lowest 1 bit; 64 for zero (R284). -/
def trailZeros (a : Word) : Word := BitVec.ofNat 64 (((List.range 64).find? (a.getLsbD ·)).getD 64)
def bitReverse (a : Word) : Word := a.reverse
def byteSwap (a : Word) : Word := BitVec.ofNat 64 (leNat (bytesOf 8 a).reverse)

/-- Position and cut length of a bit field (R285). -/
def bitField (b : Word) : Nat × Nat :=
  let pos := bitsOf b 5 0
  (pos, Nat.min (bitsOf b 14 8) (64 - pos))

def bitExtract (a b : Word) : Word :=
  let (pos, n) := bitField b
  BitVec.ofNat 64 (a.toNat / 2 ^ pos % 2 ^ n)

def bitInsert (d a b : Word) : Word :=
  let (pos, n) := bitField b
  let mask : Word := BitVec.ofNat 64 ((2 ^ n - 1) * 2 ^ pos)
  (d &&& ~~~mask) ||| BitVec.ofNat 64 (a.toNat % 2 ^ n * 2 ^ pos)

/-- Source width of SEXT and ZEXT (R257). -/
def extWidth (q : BitVec 2) : Nat := 8 * 2 ^ q.toNat

/-- LIH: one 16-bit lane replaced (R287). -/
def laneInsert (d : Word) (k : BitVec 2) (i : BitVec 16) : Word :=
  let sh := 16 * k.toNat
  (d &&& ~~~((0xFFFF : Word) <<< sh)) ||| (immZ i <<< sh)

/-! ### ALU (R281) -/

def execAdd (d a b : BitVec 5) (s : State) : Result := alu2 s d a b fun a b => a + b
def execSub (d a b : BitVec 5) (s : State) : Result := alu2 s d a b fun a b => a - b
def execAnd (d a b : BitVec 5) (s : State) : Result := alu2 s d a b fun a b => a &&& b
def execOr (d a b : BitVec 5) (s : State) : Result := alu2 s d a b fun a b => a ||| b
def execXor (d a b : BitVec 5) (s : State) : Result := alu2 s d a b fun a b => a ^^^ b
def execAndn (d a b : BitVec 5) (s : State) : Result := alu2 s d a b fun a b => a &&& ~~~b
def execOrn (d a b : BitVec 5) (s : State) : Result := alu2 s d a b fun a b => a ||| ~~~b
def execXnor (d a b : BitVec 5) (s : State) : Result := alu2 s d a b fun a b => ~~~(a ^^^ b)
def execSll (d a b : BitVec 5) (s : State) : Result := alu2 s d a b fun a b => a <<< bitsOf b 5 0
def execSrl (d a b : BitVec 5) (s : State) : Result := alu2 s d a b fun a b => a >>> bitsOf b 5 0
def execSra (d a b : BitVec 5) (s : State) : Result := alu2 s d a b fun a b => a.sshiftRight (bitsOf b 5 0)
def execRol (d a b : BitVec 5) (s : State) : Result := alu2 s d a b fun a b => a.rotateLeft (bitsOf b 5 0)
def execRor (d a b : BitVec 5) (s : State) : Result := alu2 s d a b fun a b => a.rotateRight (bitsOf b 5 0)
def execMin (d a b : BitVec 5) (s : State) : Result := alu2 s d a b fun a b => if a.slt b then a else b
def execMax (d a b : BitVec 5) (s : State) : Result := alu2 s d a b fun a b => if b.slt a then a else b
def execMinu (d a b : BitVec 5) (s : State) : Result := alu2 s d a b fun a b => if a.ult b then a else b
def execMaxu (d a b : BitVec 5) (s : State) : Result := alu2 s d a b fun a b => if b.ult a then a else b
def execAddw (d a b : BitVec 5) (s : State) : Result := alu2 s d a b fun a b => narrowW (a + b)
def execSubw (d a b : BitVec 5) (s : State) : Result := alu2 s d a b fun a b => narrowW (a - b)
def execSlt (d a b : BitVec 5) (s : State) : Result := alu2 s d a b fun a b => boolWord (a.slt b)
def execSltu (d a b : BitVec 5) (s : State) : Result := alu2 s d a b fun a b => boolWord (a.ult b)

/-! ### MULDIV (R282, R283) -/

def execMul (d a b : BitVec 5) (s : State) : Result := alu2 s d a b fun a b => a * b
def execMulh (d a b : BitVec 5) (s : State) : Result := alu2 s d a b mulHighS
def execMulhu (d a b : BitVec 5) (s : State) : Result := alu2 s d a b mulHighU
def execMulw (d a b : BitVec 5) (s : State) : Result := alu2 s d a b fun a b => narrowW (a * b)
def execMad (d a b : BitVec 5) (s : State) : Result := alu3 s d a b fun d a b => d + a * b
def execDiv (d a b : BitVec 5) (s : State) : Result := alu2 s d a b fun a b => (divS a b).1
def execDivu (d a b : BitVec 5) (s : State) : Result := alu2 s d a b fun a b => (divU a b).1
def execRem (d a b : BitVec 5) (s : State) : Result := alu2 s d a b fun a b => (divS a b).2
def execRemu (d a b : BitVec 5) (s : State) : Result := alu2 s d a b fun a b => (divU a b).2

/-! ### BIT (R253, R254, R284, R285) -/

def execPopc (d a : BitVec 5) (s : State) : Result := alu1 s d a popcount
def execClz (d a : BitVec 5) (s : State) : Result := alu1 s d a leadZeros
def execCtz (d a : BitVec 5) (s : State) : Result := alu1 s d a trailZeros
def execBrev (d a : BitVec 5) (s : State) : Result := alu1 s d a bitReverse
def execBswap (d a : BitVec 5) (s : State) : Result := alu1 s d a byteSwap
def execBext (d a b : BitVec 5) (s : State) : Result := alu2 s d a b bitExtract
def execBins (d a b : BitVec 5) (s : State) : Result := alu3 s d a b bitInsert
def execSext (d a : BitVec 5) (q : BitVec 2) (s : State) : Result := alu1 s d a (sext64 (extWidth q))
def execZext (d a : BitVec 5) (q : BitVec 2) (s : State) : Result := alu1 s d a (zext64 (extWidth q))
def execPhash (d a : BitVec 5) (s : State) : Result := alu1 s d a phash
def execRndk (d a b : BitVec 5) (s : State) : Result := alu2 s d a b rndk

/-! ### Immediates (R286, R287) -/

def execAddi (d a : BitVec 5) (i : BitVec 16) (s : State) : Result := alu1 s d a (· + immS i)
def execAndi (d a : BitVec 5) (i : BitVec 16) (s : State) : Result := alu1 s d a (· &&& immS i)
def execOri (d a : BitVec 5) (i : BitVec 16) (s : State) : Result := alu1 s d a (· ||| immZ i)
def execXori (d a : BitVec 5) (i : BitVec 16) (s : State) : Result := alu1 s d a (· ^^^ immZ i)
def execLih (d : BitVec 5) (k : BitVec 2) (i : BitVec 16) (s : State) : Result := alu1 s d d (laneInsert · k i)
def execSlli (d a : BitVec 5) (n : BitVec 6) (s : State) : Result := alu1 s d a (· <<< n.toNat)
def execSrli (d a : BitVec 5) (n : BitVec 6) (s : State) : Result := alu1 s d a (· >>> n.toNat)
def execSrai (d a : BitVec 5) (n : BitVec 6) (s : State) : Result := alu1 s d a (·.sshiftRight n.toNat)
def execSlti (d a : BitVec 5) (i : BitVec 16) (s : State) : Result := alu1 s d a fun a => boolWord (a.slt (immS i))
def execSltiu (d a : BitVec 5) (i : BitVec 16) (s : State) : Result := alu1 s d a fun a => boolWord (a.ult (immS i))

/-! ### Compares (R288, R289) -/

/-- A compare: one condition on the registers named, and the window it opens. -/
def compareOp (s : State) (n : BitVec 2) (rs : List Nat) (f : Thread → Bool) : Result :=
  issue s { gR := rs } fun t => .window s n (f t)

def execCmp (n : BitVec 2) (cc : BitVec 3) (a b : BitVec 5) (s : State) : Result :=
  compareOp s n [a.toNat, b.toNat] fun t => cond cc (t.gr a.toNat) (t.gr b.toNat) (bitsOf (t.gr b.toNat) 5 0)

def execCmpw (n : BitVec 2) (cc : BitVec 3) (a b : BitVec 5) (s : State) : Result :=
  compareOp s n [a.toNat, b.toNat] fun t =>
    cond cc ((t.gr a.toNat).setWidth 32) ((t.gr b.toNat).setWidth 32) (bitsOf (t.gr b.toNat) 4 0)

def execCmpf (n cc : BitVec 2) (a b : BitVec 5) (q : BitVec 1) (s : State) : Result :=
  let val (v : Word) : XVal := if q = 0 then ofFp32 (v.setWidth 32) else ofBf16 (v.setWidth 16)
  compareOp s n [a.toNat, b.toNat] fun t => condF cc (val (t.gr a.toNat)) (val (t.gr b.toNat))

def execCmpi (n : BitVec 2) (cc : BitVec 3) (a : BitVec 5) (i : BitVec 16) (s : State) : Result :=
  compareOp s n [a.toNat] fun t => cond cc (t.gr a.toNat) (immS i) (bitsOf i 5 0)

def execCmpiw (n : BitVec 2) (cc : BitVec 3) (a : BitVec 5) (i : BitVec 16) (s : State) : Result :=
  compareOp s n [a.toNat] fun t => cond cc ((t.gr a.toNat).setWidth 32) ((immS i).setWidth 32) (bitsOf i 4 0)

/-! ### Jumps (R262, R292) -/

/-- A control transfer to `target`, checked before the link is written. -/
def jumpOp (s : State) (t : Thread) (target : Word) (link : Option Nat) : Out :=
  if target.toNat % 4 ≠ 0 then .trap 3 target 0
  else if segLimit (t.seg 0) ≤ target.toNat then .trap 4 target 0
  else
    match link with
    | none => .goto s target
    | some d => .goto (s.here (·.setG d (t.pc + 4))) target

def execJ (o : BitVec 21) (s : State) : Result :=
  issue s {} fun t => jumpOp s t (t.pc + 4 * o.signExtend 64) none

def execJl (d : BitVec 5) (o : BitVec 21) (s : State) : Result :=
  issue s { gW := [d.toNat] } fun t => jumpOp s t (t.pc + 4 * o.signExtend 64) (some d.toNat)

def execJr (a : BitVec 5) (i : BitVec 16) (s : State) : Result :=
  issue s { gR := [a.toNat] } fun t => jumpOp s t (t.gr a.toNat + 4 * immS i) none

def execJlr (d a : BitVec 5) (i : BitVec 16) (s : State) : Result :=
  issue s { gR := [a.toNat], gW := [d.toNat] } fun t => jumpOp s t (t.gr a.toNat + 4 * immS i) (some d.toNat)

end Sys2Proof.Machine
end

