-- ==== Sys2Proof/Machine/Governor.lean ====
section
/-! DEFINITION. Power governors and leave (R10-R16, R382, R419), and the shared form of an event. -/

namespace Sys2Proof.Machine

/-- An event happens where the units it is given exist; elsewhere nothing happens. -/
def given (s : State) (i : Instr) (f : State → State) : Result := .next (if i.unitsExist s.env then f s else s)

/-! ### Limits and answers -/

/-- Granted total of a layer, and of one partition on it (R419). -/
def Layer.total (l : Layer) : Nat := (l.leaves.map (·.charge)).sum
def Layer.totalOf (l : Layer) (p : Nat) : Nat := ((l.leaves.filter (·.part == p)).map (·.charge)).sum

/-- Why a request would be deferred now (R14, R419); 0: it is granted. Of several reasons the answer names one, in the order 4, 2, 1, 3:
DESIGN CHOICE, log entry 118. -/
def State.reason (s : State) (l : Nat) (r : GovReq) : Nat :=
  let y := s.layer l
  let alw := (Sparse.get 0 y.alw r.part).toNat
  if !s.inService l then 4
  else if y.hotDie then 2
  else if y.total + r.charge > y.ceil.toNat then 1
  else if alw ≠ 0 ∧ y.totalOf r.part + r.charge > alw then 3
  else 0

/-- The answer word (R14). -/
def answerWord (reason : Nat) (wait : BitVec 16) : Word :=
  if reason = 0 then 1 else BitVec.ofNat 64 (2 * reason + 2 ^ 16 * wait.toNat)

/-- Whether a request is an implicit one (R12). -/
def Asker.implicit : Asker → Bool
  | .chain .. | .mma .. | .copy _ => true
  | _ => false

/-- Places an answer in a core's governor answer queue of 8, or holds it behind those held (R382). -/
def State.placeAnswer (s : State) (c : Nat) (w : Word) : State :=
  s.modCore c fun k =>
    if k.govHeld.isEmpty ∧ k.govQ.length < 8 then { k with govQ := k.govQ ++ [w] } else { k with govHeld := k.govHeld ++ [w] }

/-- Places held answers as elements are popped. -/
def Core.refillGov (k : Core) : Core :=
  match k.govHeld with
  | w :: r => if k.govQ.length < 8 then { k with govQ := k.govQ ++ [w], govHeld := r } else k
  | [] => k

/-- Sets the asking state of a waiting thread; a thread that is gone has none. -/
def State.tellAsker (s : State) (c slot : Nat) (tid : Word) (a : Asking) : State :=
  s.modThread c slot fun t => if t.tid = tid ∧ t.asking = .asked then { t with asking := a, from_ := Nat.max t.from_ (s.now + 1) } else t

/-- Whether the thread still waits for the answer. -/
def State.stillAsks (s : State) (c slot : Nat) (tid : Word) : Bool :=
  match s.thread c slot with
  | some t => t.tid == tid && t.asking == .asked
  | none => false

/-- A grant: its charge joins the totals, and what asked goes on. `late` says that the request had been deferred. -/
def State.grantLeave (s : State) (l : Nat) (r : GovReq) (late : Bool) : State :=
  let id := s.fresh
  let lv : Leave := { id := id, part := r.part, charge := r.charge, until_ := if r.who.implicit then none else some (s.now + 256 * r.dur) }
  let s0 : State := { s with fresh := id + 1 }
  let s1 := s0.modLayer l fun y => { y with leaves := y.leaves ++ [lv] }
  match r.who with
  | .chain c k tid => if s.stillAsks c k tid then s1.tellAsker c k tid (.granted id) else s0
  | .mma c k tid => if s.stillAsks c k tid then s1.tellAsker c k tid (.granted id) else s0
  | .copy cl => s1.modCluster cl fun x => { x with run := x.run.map fun y => { y with leave := some id } }
  | .leave c k tid => if late then s1.placeAnswer c (answerWord 0 0) else s1.tellAsker c k tid (.answered (answerWord 0 0))
  | .engine c => s1.placeAnswer c (answerWord 0 0)

/-- A deferral: counted once, and the request joins the queue (R11-R13). -/
def State.deferLeave (s : State) (l : Nat) (r : GovReq) (reason : Nat) : State :=
  let (n, s) := s.drawFree
  let w := answerWord reason (Config.waitEstimate n)
  let s := s.modLayer l fun y =>
    { y with queue := y.queue ++ [r], lastr := BitVec.ofNat 3 reason,
             impdef := if r.who.implicit ∧ y.impdef ≠ 0xFFFFFFFF then y.impdef + 1 else y.impdef,
             lvdef := if !r.who.implicit ∧ y.lvdef ≠ 0xFFFF then y.lvdef + 1 else y.lvdef }
  match r.who with
  | .leave c k tid => s.tellAsker c k tid (.answered w)
  | .engine c => s.placeAnswer c w
  | _ => s

/-- Answers one request. -/
def State.answer (s : State) (l : Nat) (r : GovReq) : State :=
  let n := s.reason l r
  if n = 0 then s.grantLeave l r false else s.deferLeave l r n

/-- Requests that reach a governor in one cycle stand in ascending core number (R11). -/
def insertAsk (r : GovReq) : List GovReq → List GovReq
  | [] => [r]
  | x :: rest => if r.core < x.core then r :: x :: rest else x :: insertAsk r rest

/-- A thread's or copy unit's request reaches its layer's governor. -/
def State.askLeave (s : State) (c : Nat) (r : GovReq) : State := s.modLayer (layerOf c) fun y => { y with asks := insertAsk r y.asks }

/-- Power and duration of a request word; whether it is well formed (R382). -/
def leavePower (w : Word) : Nat := bitsOf w 27 16
def leaveDur (w : Word) : Nat := bitsOf w 11 0
def leaveOk (w : Word) : Bool := leavePower w != 0 && leaveDur w != 0 && bitsOf w 15 12 == 0 && bitsOf w 63 28 == 0

/-- The lowest core of a layer whose engine 2 FIFO the governor may take from (R382). -/
def State.engineCore (s : State) (l : Nat) : Option Nat :=
  (s.cores.find? fun e => !isChan e.1 && layerOf e.1 == l && !e.2.govIn.isEmpty && e.2.govHeld.isEmpty).map (·.1)

/-- The oldest command of a core's engine 2 is answered (R382). -/
def State.answerEngine (s : State) (l c : Nat) : State :=
  match (s.core c).govIn with
  | [] => s
  | (p, w) :: rest =>
    (s.modCore c fun k => { k with govIn := rest }).answer l
      { who := .engine c, core := c, part := p, charge := leavePower w, dur := leaveDur w }

/-- GOVERNOR_REQUEST (R11): the request of the lowest core is answered, an instruction's or copy unit's before an engine command
of the same core. -/
def execGovernorRequest (s : State) : Result :=
  given s .governorRequest fun s =>
    let l := s.env.unit
    match (s.layer l).asks, s.engineCore l with
    | r :: rest, some c =>
      if c < r.core then s.answerEngine l c else (s.modLayer l fun y => { y with asks := rest }).answer l r
    | r :: rest, none => (s.modLayer l fun y => { y with asks := rest }).answer l r
    | [], some c => s.answerEngine l c
    | [], none => s

/-- DEFERRED_GRANT (R11): the oldest deferred request that the limits allow is granted, past an older one that they do not: DESIGN CHOICE,
log entry 97. None is while the layer is at 95 °C or above (R16): DEDUCED, log entry 68. -/
def execDeferredGrant (s : State) : Result :=
  given s .deferredGrant fun s =>
    let l := s.env.unit
    match (s.layer l).queue.find? fun r => s.reason l r == 0 with
    | none => s
    | some r => (s.modLayer l fun y => { y with queue := y.queue.erase r }).grantLeave l r true

/-- LEAVE_EXPIRY (R382): leaves whose duration is over are subtracted. -/
def execLeaveExpiry (s : State) : Result :=
  given s .leaveExpiry fun s =>
    s.modLayer s.env.unit fun y => { y with leaves := y.leaves.filter fun v =>
      match v.until_ with
      | some u => s.now < u
      | none => true }

/-- Sum of the ceilings of the 32 layers. -/
def State.ceilSum (s : State) : Nat := ((List.range 32).map fun l => (s.layer l).ceil.toNat).sum

/-- A write to PWRCEIL (R15, R419). -/
def State.writeCeil (s : State) (l : Nat) (v : Word) : State :=
  let c := bitsOf v 11 0
  if c > 2400 ∨ s.ceilSum - (s.layer l).ceil.toNat + c > 60000 then s
  else s.modLayer l fun y => { y with ceil := BitVec.ofNat 12 c }

def execPwrceilWrite (s : State) : Result := given s .pwrceilWrite fun s => s.writeCeil s.env.unit s.env.val

/-- GOVST as read (R13). -/
def Layer.govst (y : Layer) : Word :=
  BitVec.ofNat 64 (y.impdef.toNat + 2 ^ 32 * y.lvdef.toNat + 2 ^ 48 * y.lastr.toNat + 2 ^ 51 * Nat.min 31 y.queue.length)

/-- A write to GOVST: writing 1s clears bits of the two counts. -/
def State.writeGovst (s : State) (l : Nat) (v : Word) : State :=
  s.modLayer l fun y => { y with impdef := y.impdef &&& ~~~v.setWidth 32, lvdef := y.lvdef &&& ~~~(v >>> 32).setWidth 16 }

def State.writeAlw (s : State) (l p : Nat) (v : Word) : State :=
  s.modLayer l fun y => { y with alw := Sparse.put 0 y.alw p (v.setWidth 12) }

/-! ### Thermal limits (R16) -/

def execThermalLimit (s : State) : Result := given s .thermalLimit fun s => s.modLayer s.env.unit fun y => { y with hotDie := true }

def execThermalLimitCleared (s : State) : Result :=
  given s .thermalLimitCleared fun s => s.modLayer s.env.unit fun y => { y with hotDie := false }

/-- THERMAL_SHUTDOWN: the clocks stop, a fatal error goes to the host (MSI-X vector 0, R79), and all partition state is lost. -/
def execThermalShutdown (s : State) : Result :=
  .next { State.reset with
    md := { s.md with shutdown := true }, ext := .fatal, msix := s.msix ++ [0], aplic := s.aplic,
    by_ := s.by_, env := s.env, cur := s.cur, rotor := s.rotor, agenda := s.agenda, fresh := s.fresh, drawn := s.drawn }

end Sys2Proof.Machine
end

