-- ==== Sys2Proof/Machine/Lanes.lean ====
section
/-! DEFINITION. Lane arithmetic of the vector-matrix unit: lane types (R323), lane operations (R325-R331), reductions (R251, R252),
search (R346-R349). Every function here is a pure function of register contents. -/

namespace Sys2Proof.Machine

/-! ### Lane types (R323) -/

def laneF (q : Nat) : Bool := q < 2
def laneW (q : Nat) : Nat :=
  match q with
  | 0 | 2 => 32
  | 1 | 3 => 16
  | _ => 8
def laneN (q : Nat) : Nat := 512 / laneW q

/-- Lane `i` of a register, as a number. -/
def laneOf (q : Nat) (v : Vec) (i : Nat) : Nat := v.toNat / 2 ^ (laneW q * i) % 2 ^ laneW q

def lanes (q : Nat) (v : Vec) : List Nat := (List.range (laneN q)).map (laneOf q v)

/-- A register from its lanes. -/
def ofLanes (q : Nat) (l : List Nat) : Vec := BitVec.ofNat 512 (packCodes (laneW q) l)

/-- A signed lane, and back modulo 2^w. -/
def sgnOf (w n : Nat) : Int := if n ≥ 2 ^ (w - 1) then (n : Int) - 2 ^ w else n
def wrapTo (w : Nat) (i : Int) : Nat := (i % 2 ^ w).toNat

/-- A floating lane, and its rounding into the lane format. -/
def flOf (q n : Nat) : XVal := if q = 0 then ofFp32 (BitVec.ofNat 32 n) else ofBf16 (BitVec.ofNat 16 n)
def flTo (q : Nat) (x : XVal) : Nat := if q = 0 then (toFp32 x).toNat else (toBf16 x).toNat

/-- Fraction bits of a floating lane format. -/
def fracBits (q : Nat) : Nat := if q = 0 then 23 else 7
/-- The canonical NaN, +∞ and 1.0 of the format. -/
def nanCode (q : Nat) : Nat := flTo q .nan

/-! ### Min and max (R251, R325) -/

def xMin (a b : XVal) : XVal :=
  match Exact.cmp a b with
  | none => .nan
  | some .lt => a
  | some .gt => b
  | some .eq => if Exact.isNeg a then a else b

def xMax (a b : XVal) : XVal :=
  match Exact.cmp a b with
  | none => .nan
  | some .lt => b
  | some .gt => a
  | some .eq => if Exact.isNeg a then b else a

/-! ### Reciprocals, powers and logarithms (R326) -/

/-- 1 / a. A reciprocal that overflows gives +∞ also where a is negative: R326's own words. -/
def laneRcp (q n : Nat) : Nat :=
  match flOf q n with
  | .nan => nanCode q
  | .inf s => flTo q (Exact.zero s)
  | .fin s m e => 
    if m = 0 then flTo q (.inf s)
    else
      let r := packRatio (fracBits q) s 1 m (-e)
      if r = flTo q (.inf true) then flTo q (.inf false) else r

/-- √(num / den) × 2^e rounded once, for positive num and den. -/
def packSqrt (p : Nat) (neg : Bool) (num den : Nat) (e : Int) : Nat :=
  let k := 64 + Nat.log2 den
  let n := num * 2 ^ (2 * k)
  let r := isqrt (n / den)
  packFloat p neg r (e - k) (r * r * den != n)

def laneRsq (q n : Nat) : Nat :=
  match flOf q n with
  | .nan => nanCode q
  | .inf s => if s then nanCode q else 0
  | .fin s m e =>
    if m = 0 then flTo q (.inf s)
    else if s then nanCode q
    else
      let m := if e % 2 = 0 then m else 2 * m
      packSqrt (fracBits q) false 1 m (-(e / 2))

/-- Fixed-point scale of the power computation. -/
def powBits : Nat := 224

/-- The product of 2^(2^−i) over the set bits of a fraction, most significant first; `c` is 2^(2^−i) at the next bit. -/
def powAux : List Bool → Nat → Nat → Nat
  | [], _, r => r
  | b :: l, c, r => powAux l (isqrt (c * 2 ^ powBits)) (if b then r * c / 2 ^ powBits else r)

/-- 2^x. A fraction that is not zero makes the power irrational, so its tail is never zero. -/
def laneEx2 (q n : Nat) : Nat :=
  match flOf q n with
  | .nan => nanCode q
  | .inf s => if s then 0 else flTo q (.inf false)
  | .fin s m e =>
    let p := fracBits q
    if m = 0 then flTo q (.fin false 1 0)
    else if Exact.cmp (.fin s m e) (.fin false 128 0) ≠ some .lt then flTo q (.inf false)
    else if Exact.cmp (.fin s m e) (.fin true 200 0) ≠ some .gt then 0
    else if e ≥ 0 then packFloat p false 1 (if s then -(m * 2 ^ e.toNat : Nat) else (m * 2 ^ e.toNat : Nat)) false
    else
      let k := (-e).toNat
      let x : Int := if s then -(m : Int) else m
      let whole := x / 2 ^ k
      let frac := (x % 2 ^ k).toNat
      if frac = 0 then packFloat p false 1 whole false
      else
        let bits := (List.range k).map fun i => frac.testBit (k - 1 - i)
        packFloat p false (powAux bits (isqrt (2 ^ (2 * powBits + 1))) (2 ^ powBits)) (whole - powBits) true

/-- Fixed-point scale and digit count of the logarithm. -/
def logBits : Nat := 256
def logDigits : Nat := 96

/-- Binary digits of log2 y for y in [1, 2), most significant first, by squaring. -/
def logAux : Nat → Nat → Nat → Nat
  | 0, _, d => d
  | k + 1, y, d =>
    let z := y * y / 2 ^ logBits
    if z ≥ 2 ^ (logBits + 1) then logAux k (z / 2) (2 * d + 1) else logAux k z (2 * d)

/-- log2 x. Unless x is a power of two the logarithm is irrational. -/
def laneLg2 (q n : Nat) : Nat :=
  match flOf q n with
  | .nan => nanCode q
  | .inf s => if s then nanCode q else flTo q (.inf false)
  | .fin s m e =>
    let p := fracBits q
    if m = 0 then flTo q (.inf true)
    else if s then nanCode q
    else
      let h := Nat.log2 m
      let w : Int := h + e
      if m = 2 ^ h then flTo q (Exact.ofInt w 0)
      else
        let d : Int := w * 2 ^ logDigits + logAux logDigits (m * 2 ^ (logBits - h)) 0
        if d ≥ 0 then packFloat p false d.toNat (-logDigits) true
        else packFloat p true ((-d).toNat - 1) (-logDigits) true

/-! ### VALU lanes (R325, R327) -/

/-- A lane operation given by its exact floating form and its integer form. -/
def lane2 (q : Nat) (f : XVal → XVal → XVal) (g : Int → Int → Int) (a b : Nat) : Nat :=
  if laneF q then flTo q (f (flOf q a) (flOf q b)) else wrapTo (laneW q) (g (sgnOf (laneW q) a) (sgnOf (laneW q) b))

def lane3 (q : Nat) (f : XVal → XVal → XVal → XVal) (g : Int → Int → Int → Int) (d a b : Nat) : Nat :=
  if laneF q then flTo q (f (flOf q d) (flOf q a) (flOf q b))
  else wrapTo (laneW q) (g (sgnOf (laneW q) d) (sgnOf (laneW q) a) (sgnOf (laneW q) b))

def laneCmp (q a b : Nat) : Nat :=
  let o := if laneF q then Exact.cmp (flOf q a) (flOf q b)
    else some (compare (sgnOf (laneW q) a) (sgnOf (laneW q) b))
  match o with
  | some .lt => wrapTo (laneW q) (-1)
  | some .eq => 0
  | some .gt => 1
  | none => 2

def laneSel (q d a b : Nat) : Nat := if sgnOf (laneW q) d < 0 then a else b

def laneShr (q a b : Nat) : Nat := wrapTo (laneW q) (sgnOf (laneW q) a / 2 ^ (b % laneW q))
def laneShl (q a b : Nat) : Nat := a * 2 ^ (b % laneW q) % 2 ^ laneW q

/-- Lane by lane. -/
def map1 (q : Nat) (f : Nat → Nat) (a : Vec) : Vec := ofLanes q ((lanes q a).map f)
def map2 (q : Nat) (f : Nat → Nat → Nat) (a b : Vec) : Vec := ofLanes q (List.zipWith f (lanes q a) (lanes q b))
def map3 (q : Nat) (f : Nat → Nat → Nat → Nat) (d a b : Vec) : Vec :=
  ofLanes q ((List.range (laneN q)).map fun i => f (laneOf q d i) (laneOf q a i) (laneOf q b i))

/-! ### VPERM (R328) -/

def vecBcast (q : Nat) (a : Word) : Vec := ofLanes q (List.replicate (laneN q) (a.toNat % 2 ^ laneW q))

/-- A lane as a general register holds it. -/
def laneWord (q n : Nat) : Word := if laneF q then BitVec.ofNat 64 n else BitVec.ofInt 64 (sgnOf (laneW q) n)

def vecExt (q : Nat) (a : Vec) (b : Word) : Word := laneWord q (laneOf q a (b.toNat % laneN q))

def vecIns (q : Nat) (d : Vec) (a b : Word) : Vec :=
  ofLanes q ((List.range (laneN q)).map fun i => if i = b.toNat % laneN q then a.toNat % 2 ^ laneW q else laneOf q d i)

def vecShuf (q : Nat) (a b : Vec) : Vec := map1 q (fun i => laneOf q a (i % laneN q)) b

def vecRot (q : Nat) (a : Vec) (b : Word) : Vec :=
  ofLanes q ((List.range (laneN q)).map fun i => laneOf q a ((i + b.toNat) % laneN q))

/-! ### Reductions (R251, R329, R331) -/

def pairUp {α : Type} (f : α → α → α) : List α → List α
  | a :: b :: r => f a b :: pairUp f r
  | l => l

/-- The fixed tree over 2^k leaves. -/
def treeReduce {α : Type} (f : α → α → α) : Nat → List α → List α
  | 0, l => l
  | k + 1, l => treeReduce f k (pairUp f l)

inductive RedOp where
  | sum | max | min
  deriving DecidableEq, Repr

/-- A node over exact values: sums round to FP32. -/
def redNode (o : RedOp) (a b : XVal) : XVal :=
  match o with
  | .sum => ofFp32 (toFp32 (Exact.add a b))
  | .max => xMax a b
  | .min => xMin a b

def redPad : RedOp → XVal
  | .sum => Exact.zero true
  | .max => .inf true
  | .min => .inf false

/-- The FP32 result of a floating reduction of leaves; none excludes a lane. -/
def reduceF (o : RedOp) (k : Nat) (l : List (Option XVal)) : BitVec 32 :=
  if l.all Option.isNone then 0
  else toFp32 ((treeReduce (redNode o) k (l.map (·.getD (redPad o)))).headD (Exact.zero false))

/-- The 64-bit result of an integer reduction. -/
def reduceI (o : RedOp) (l : List (Option Int)) : Word :=
  let xs := l.filterMap id
  match xs with
  | [] => 0
  | x :: r =>
    match o with
    | .sum => BitVec.ofInt 64 (r.foldl (· + ·) x)
    | .max => BitVec.ofInt 64 (r.foldl max x)
    | .min => BitVec.ofInt 64 (r.foldl min x)

def treeDepth (q : Nat) : Nat := Nat.log2 (laneN q)

/-- VRED, VRMAX, VRMIN: bit i of `b` excludes lane i. -/
def vecReduce (o : RedOp) (q : Nat) (a : Vec) (b : Word) : Word :=
  let keep (i : Nat) : Bool := !b.getLsbD i
  if laneF q then
    (reduceF o (treeDepth q) ((List.range (laneN q)).map fun i =>
      if keep i then some (flOf q (laneOf q a i)) else none)).setWidth 64
  else
    reduceI o ((List.range (laneN q)).map fun i => if keep i then some (sgnOf (laneW q) (laneOf q a i)) else none)

/-- VDOT: floating products are rounded to FP32 as leaves. -/
def vecDot (q : Nat) (a b : Vec) : Word :=
  if laneF q then
    (reduceF .sum (treeDepth q) (List.zipWith (fun x y => some (ofFp32 (toFp32 (Exact.mul (flOf q x) (flOf q y)))))
      (lanes q a) (lanes q b))).setWidth 64
  else reduceI .sum (List.zipWith (fun x y => some (sgnOf (laneW q) x * sgnOf (laneW q) y)) (lanes q a) (lanes q b))

/-- Serial inclusive prefixes after the first (R252). -/
def scanFrom (q : Nat) (acc : Nat) : List Nat → List Nat
  | [] => []
  | x :: r => let y := lane2 q Exact.add (· + ·) acc x; y :: scanFrom q y r

/-- The first prefix is its lane, with a NaN made canonical (R239). -/
def vecScan (q : Nat) (a : Vec) : Vec :=
  match lanes q a with
  | [] => 0
  | x :: r => let y := lane2 q (fun a _ => a) (fun a _ => a) x x; ofLanes q (y :: scanFrom q y r)

/-! ### VCVT (R330) -/

/-- RNE to an integer, saturating at `w` signed bits; NaN gives 0. -/
def toIntSat (w : Nat) (x : XVal) : Int :=
  let lim : Int := 2 ^ (w - 1)
  match x with
  | .nan => 0
  | .inf s => if s then -lim else lim - 1
  | .fin s m e =>
    let n : Nat := if e ≥ 0 then m * 2 ^ e.toNat else nearestEven (m / 2 ^ (-e).toNat) (m % 2 ^ (-e).toNat) (2 ^ (-e).toNat) false
    let i : Int := if s then -(n : Int) else n
    max (-lim) (min (lim - 1) i)

/-- One lane of type `s` converted to type `q`. -/
def convLane (s q n : Nat) : Nat :=
  match laneF s, laneF q with
  | true, true => flTo q (flOf s n)
  | false, true => flTo q (Exact.ofInt (sgnOf (laneW s) n) 0)
  | true, false => wrapTo (laneW q) (toIntSat (laneW q) (flOf s n))
  | false, false =>
    let lim : Int := 2 ^ (laneW q - 1)
    wrapTo (laneW q) (max (-lim) (min (lim - 1) (sgnOf (laneW s) n)))

/-- Whether the source word of VCVT is legal for destination type `q`. -/
def cvtOk (q : Nat) (b : Word) : Bool :=
  let s := bitsOf b 2 0
  let p := bitsOf b 5 4
  s < 5 && (laneN s == laneN q || p < Nat.max (laneN s) (laneN q) / Nat.min (laneN s) (laneN q))

def vecCvt (q : Nat) (d a : Vec) (b : Word) : Vec :=
  let s := bitsOf b 2 0
  let p := bitsOf b 5 4
  let ns := laneN s
  let nd := laneN q
  ofLanes q ((List.range nd).map fun i =>
    if nd > ns then (if ns * p ≤ i ∧ i < ns * p + ns then convLane s q (laneOf s a (i - ns * p)) else laneOf q d i)
    else if nd < ns then convLane s q (laneOf s a (nd * p + i))
    else convLane s q (laneOf s a i))

/-! ### Search (R346-R349) -/

/-- Number of 1 bits of an `n`-bit number. -/
def onesIn (n v : Nat) : Nat := ((List.range n).filter (v.testBit ·)).length

def vecHam (a b : Vec) : Word := BitVec.ofNat 64 (onesIn 512 (a ^^^ b).toNat)

def vecBmf (q : Nat) (a : Vec) (b : Word) : Vec :=
  ofLanes q ((List.range (laneN q)).map fun i => if b.getLsbD i then laneOf q a i else 2 ^ laneW q - 1)

/-- Inserts into an ascending list. -/
def insertUp (x : Nat) : List Nat → List Nat
  | [] => [x]
  | y :: r => if x ≤ y then x :: y :: r else y :: insertUp x r

/-- Merges candidates into a top-k list: the 16 smallest, ascending, empty lanes last (R348). -/
def topMerge (d : Vec) (cands : List Nat) : Vec :=
  let mine := (lanes 2 d).filter (· / 2 ^ 16 ≠ 0xFFFF)
  let all := ((mine ++ cands).foldr insertUp []).take 16
  ofLanes 2 (all ++ List.replicate (16 - all.length) 0xFFFFFFFF)

def vecTopki (d a : Vec) (b : Word) : Vec :=
  topMerge d ((((lanes 3 a).zipIdx).filter fun e => e.1 ≠ 0xFFFF).map fun e => e.1 * 2 ^ 16 + (b.toNat + e.2) % 2 ^ 16)

def vecTopkr (d a : Vec) : Vec := topMerge d ((lanes 2 a).filter (· / 2 ^ 16 ≠ 0xFFFF))

/-- An exact sum; of zeros it is −0 only when all are −0 (R250). -/
def exactSum : List XVal → XVal
  | [] => Exact.zero false
  | x :: r => r.foldl Exact.add x

def vecDip (q : Nat) (a b : Vec) : Word :=
  (toFp32 (exactSum (List.zipWith (fun x y => Exact.mul (flOf q x) (flOf q y)) (lanes q a) (lanes q b)))).setWidth 64

def vecDl2 (q : Nat) (a b : Vec) : Word :=
  (toFp32 (exactSum (List.zipWith (fun x y =>
    let d := Exact.add (flOf q x) (Exact.neg (flOf q y))
    Exact.mul d d) (lanes q a) (lanes q b)))).setWidth 64

/-- DCOS: the exact cosine rounded once (R349). -/
def vecDcos (q : Nat) (a b : Vec) : Word :=
  let xa := (lanes q a).map (flOf q)
  let xb := (lanes q b).map (flOf q)
  let dot := exactSum (List.zipWith Exact.mul xa xb)
  let aa := exactSum (xa.map fun x => Exact.mul x x)
  let bb := exactSum (xb.map fun x => Exact.mul x x)
  match dot, aa, bb with
  | .fin s m e, .fin _ ma ea, .fin _ mb eb =>
    if ma = 0 ∨ mb = 0 ∨ m = 0 then 0
    else
      let k := 2 * e - (ea + eb)
      let num := if k % 2 = 0 then m * m else 2 * (m * m)
      BitVec.ofNat 64 (packSqrt 23 s num (ma * mb) (k / 2))
  | _, _, _ => BitVec.ofNat 64 (nanCode 0)

end Sys2Proof.Machine
end

