-- ==== Sys2Proof/Machine/Vector.lean ====
section
/-! DEFINITION. Vector and search instructions of the vector-matrix unit (R322-R331, R346-R349): their issue into the
dispatch queue (R186) and the results that the unit writes (R350, R351). -/

namespace Sys2Proof.Machine

/-! ### Dispatch (R186, R322) -/

/-- A dispatch of the thread `t`, with its general and vector sources as they stand. -/
def vmuOp (s : State) (t : Thread) (i : Instr) (a b : Word) (va vb vd : Vec) (ref : Option Nat) : VmuOp :=
  { id := s.fresh, core := s.cur.core, slot := s.cur.slot, tid := t.tid, part := t.part, ins := i, a := a, b := b, va := va, vb := vb,
    vd := vd, md := t.md, fm := t.fm, sc := t.sc, ref := ref, chain := none, done := 0, ends := 0 }

/-- Places an operation in its core's dispatch queue. -/
def State.enqueue (s : State) (o : VmuOp) : State :=
  ({ s with fresh := s.fresh + 1 } : State).modCore o.core fun k => { k with disp := k.disp ++ [o] }

/-- The dispatch queue of the current core has no free entry (R186). -/
def State.dispFull (s : State) : Bool := 8 ≤ (s.core s.cur.core).disp.length

/-- Issues an operation whose thread goes on; its destinations are empty with a result due. -/
def dispatch (s : State) (t : Thread) (i : Instr) (a b : Word) (va vb vd : Vec) (dst : List (RegKind × Nat)) : Out :=
  if s.dispFull then .admission s
  else .retire ((s.here (·.oweAll dst)).enqueue (vmuOp s t i a b va vb vd none))

/-- A vector result of one vector. -/
def vec1 (s : State) (i : Instr) (d a : BitVec 4) : Result :=
  issue s { vR := [a.toNat], vW := [d.toNat] } fun t => dispatch s t i 0 0 (t.vr a.toNat) 0 0 [(.v, d.toNat)]

/-- A vector result of two vectors. -/
def vec2 (s : State) (i : Instr) (d a b : BitVec 4) : Result :=
  issue s { vR := [a.toNat, b.toNat], vW := [d.toNat] } fun t =>
    dispatch s t i 0 0 (t.vr a.toNat) (t.vr b.toNat) 0 [(.v, d.toNat)]

/-- A vector result of two vectors and the destination. -/
def vec3 (s : State) (i : Instr) (d a b : BitVec 4) : Result :=
  issue s { vR := [d.toNat, a.toNat, b.toNat], vW := [d.toNat] } fun t =>
    dispatch s t i 0 0 (t.vr a.toNat) (t.vr b.toNat) (t.vr d.toNat) [(.v, d.toNat)]

/-- A vector result of a vector and a general register. -/
def vecG (s : State) (i : Instr) (d a : BitVec 4) (b : BitVec 5) : Result :=
  issue s { vR := [a.toNat], gR := [b.toNat], vW := [d.toNat] } fun t =>
    dispatch s t i 0 (t.gr b.toNat) (t.vr a.toNat) 0 0 [(.v, d.toNat)]

/-- A general result of a vector and a general register. -/
def genVG (s : State) (i : Instr) (d : BitVec 5) (a : BitVec 4) (b : BitVec 5) : Result :=
  issue s { vR := [a.toNat], gR := [b.toNat], gW := [d.toNat] } fun t =>
    dispatch s t i 0 (t.gr b.toNat) (t.vr a.toNat) 0 0 [(.g, d.toNat)]

/-- A general result of two vectors. -/
def genVV (s : State) (i : Instr) (d : BitVec 5) (a b : BitVec 4) : Result :=
  issue s { vR := [a.toNat, b.toNat], gW := [d.toNat] } fun t =>
    dispatch s t i 0 0 (t.vr a.toNat) (t.vr b.toNat) 0 [(.g, d.toNat)]

/-! ### VALU (R325-R327) -/

def execVadd (d a b q : BitVec 4) (s : State) : Result := vec2 s (.vadd d a b q) d a b
def execVsub (d a b q : BitVec 4) (s : State) : Result := vec2 s (.vsub d a b q) d a b
def execVmul (d a b q : BitVec 4) (s : State) : Result := vec2 s (.vmul d a b q) d a b
def execVmin (d a b q : BitVec 4) (s : State) : Result := vec2 s (.vmin d a b q) d a b
def execVmax (d a b q : BitVec 4) (s : State) : Result := vec2 s (.vmax d a b q) d a b
def execVcmp (d a b q : BitVec 4) (s : State) : Result := vec2 s (.vcmp d a b q) d a b
def execVand (d a b q : BitVec 4) (s : State) : Result := vec2 s (.vand d a b q) d a b
def execVor (d a b q : BitVec 4) (s : State) : Result := vec2 s (.vor d a b q) d a b
def execVxor (d a b q : BitVec 4) (s : State) : Result := vec2 s (.vxor d a b q) d a b
def execVshl (d a b q : BitVec 4) (s : State) : Result := vec2 s (.vshl d a b q) d a b
def execVshr (d a b q : BitVec 4) (s : State) : Result := vec2 s (.vshr d a b q) d a b
def execVfma (d a b q : BitVec 4) (s : State) : Result := vec3 s (.vfma d a b q) d a b
def execVfms (d a b q : BitVec 4) (s : State) : Result := vec3 s (.vfms d a b q) d a b
def execVsel (d a b q : BitVec 4) (s : State) : Result := vec3 s (.vsel d a b q) d a b
def execVabs (d a q : BitVec 4) (s : State) : Result := vec1 s (.vabs d a q) d a
def execVneg (d a q : BitVec 4) (s : State) : Result := vec1 s (.vneg d a q) d a
def execVrcp (d a : BitVec 4) (q : BitVec 1) (s : State) : Result := vec1 s (.vrcp d a q) d a
def execVrsq (d a : BitVec 4) (q : BitVec 1) (s : State) : Result := vec1 s (.vrsq d a q) d a
def execVex2 (d a : BitVec 4) (q : BitVec 1) (s : State) : Result := vec1 s (.vex2 d a q) d a
def execVlg2 (d a : BitVec 4) (q : BitVec 1) (s : State) : Result := vec1 s (.vlg2 d a q) d a

/-! ### VPERM (R328-R331) -/

def execVbcast (d : BitVec 4) (a : BitVec 5) (q : BitVec 4) (s : State) : Result := 
  issue s { gR := [a.toNat], vW := [d.toNat] } fun t => dispatch s t (.vbcast d a q) (t.gr a.toNat) 0 0 0 0 [(.v, d.toNat)]
def execVext (d : BitVec 5) (a : BitVec 4) (b : BitVec 5) (q : BitVec 4) (s : State) : Result := genVG s (.vext d a b q) d a b
def execVred (d : BitVec 5) (a : BitVec 4) (b : BitVec 5) (q : BitVec 4) (s : State) : Result := genVG s (.vred d a b q) d a b
def execVrmax (d : BitVec 5) (a : BitVec 4) (b : BitVec 5) (q : BitVec 4) (s : State) : Result := genVG s (.vrmax d a b q) d a b
def execVrmin (d : BitVec 5) (a : BitVec 4) (b : BitVec 5) (q : BitVec 4) (s : State) : Result := genVG s (.vrmin d a b q) d a b
def execVins (d : BitVec 4) (a b : BitVec 5) (q : BitVec 4) (s : State) : Result := 
  issue s { gR := [a.toNat, b.toNat], vR := [d.toNat], vW := [d.toNat] } fun t =>
    dispatch s t (.vins d a b q) (t.gr a.toNat) (t.gr b.toNat) 0 0 (t.vr d.toNat) [(.v, d.toNat)]
def execVshuf (d a b q : BitVec 4) (s : State) : Result := vec2 s (.vshuf d a b q) d a b
def execVrot (d a : BitVec 4) (b : BitVec 5) (q : BitVec 4) (s : State) : Result := vecG s (.vrot d a b q) d a b
def execVdot (d : BitVec 5) (a b q : BitVec 4) (s : State) : Result := genVV s (.vdot d a b q) d a b

/-- VCVT keeps the other lanes of its destination when it narrows, and so reads it (R330). -/
def execVcvt (d a : BitVec 4) (b : BitVec 5) (q : BitVec 4) (s : State) : Result := 
  match s.thread s.cur.core s.cur.slot with
  | none => .next s
  | some t0 =>
    let keeps := cvtOk q.toNat (t0.gr b.toNat) && laneN (bitsOf (t0.gr b.toNat) 2 0) < laneN q.toNat
    issue s { vR := if keeps then [d.toNat, a.toNat] else [a.toNat], gR := [b.toNat], vW := [d.toNat] } fun t =>
      if cvtOk q.toNat (t.gr b.toNat) then
        dispatch s t (.vcvt d a b q) 0 (t.gr b.toNat) (t.vr a.toNat) 0 (t.vr d.toNat) [(.v, d.toNat)]
      else .trap 2 0 0
def execVscan (d a q : BitVec 4) (s : State) : Result := vec1 s (.vscan d a q) d a

/-! ### SEARCH on vectors (R346-R349) -/

def execHam (d : BitVec 5) (a b : BitVec 4) (s : State) : Result := genVV s (.ham d a b) d a b
def execTopki (d a : BitVec 4) (b : BitVec 5) (s : State) : Result := 
  issue s { vR := [d.toNat, a.toNat], gR := [b.toNat], vW := [d.toNat] } fun t =>
    dispatch s t (.topki d a b) 0 (t.gr b.toNat) (t.vr a.toNat) 0 (t.vr d.toNat) [(.v, d.toNat)]
def execTopkr (d a : BitVec 4) (s : State) : Result := 
  issue s { vR := [d.toNat, a.toNat], vW := [d.toNat] } fun t =>
    dispatch s t (.topkr d a) 0 0 (t.vr a.toNat) 0 (t.vr d.toNat) [(.v, d.toNat)]
def execTopkz (d : BitVec 4) (s : State) : Result := 
  issue s { vW := [d.toNat] } fun t => dispatch s t (.topkz d) 0 0 0 0 0 [(.v, d.toNat)]
def execBmf (d a : BitVec 4) (b : BitVec 5) (q : BitVec 4) (s : State) : Result := vecG s (.bmf d a b q) d a b
def execDip (d : BitVec 5) (a b : BitVec 4) (q : BitVec 1) (s : State) : Result := genVV s (.dip d a b q) d a b
def execDcos (d : BitVec 5) (a b : BitVec 4) (q : BitVec 1) (s : State) : Result := genVV s (.dcos d a b q) d a b
def execDl2 (d : BitVec 5) (a b : BitVec 4) (q : BitVec 1) (s : State) : Result := genVV s (.dl2 d a b q) d a b

/-! ### Results -/

/-- A result that needs no tile, and the lane operations that it counts in meter 4 (R351). -/
inductive VRes where
  | g (d : Nat) (v : Word) (lanes : Nat)
  | v (d : Nat) (v : Vec) (lanes : Nat)
  deriving DecidableEq, Repr

/-- The result of a vector or search operation from its dispatched sources; none for tile and matrix operations. -/
def vecResult (o : VmuOp) : Option VRes :=
  let arith (d q : BitVec 4) (f : XVal → XVal → XVal) (g : Int → Int → Int) : Option VRes :=
    some (.v d.toNat (map2 q.toNat (lane2 q.toNat f g) o.va o.vb) (laneN q.toNat))
  let bits (d q : BitVec 4) (f : Nat → Nat → Nat) : Option VRes :=
    some (.v d.toNat (map2 q.toNat f o.va o.vb) (laneN q.toNat))
  let unary (d : BitVec 4) (q : Nat) (f : Nat → Nat) : Option VRes := some (.v d.toNat (map1 q f o.va) (laneN q))
  let gen (d : BitVec 5) (q : Nat) (w : Word) : Option VRes := some (.g d.toNat w (laneN q))
  match o.ins with
  | .vadd d _ _ q => arith d q Exact.add (· + ·)
  | .vsub d _ _ q => arith d q (fun a b => Exact.add a (Exact.neg b)) (· - ·)
  | .vmul d _ _ q => arith d q Exact.mul (· * ·)
  | .vmin d _ _ q => arith d q xMin min
  | .vmax d _ _ q => arith d q xMax max
  | .vfma d _ _ q =>
    some (.v d.toNat (map3 q.toNat (lane3 q.toNat (fun d a b => Exact.add (Exact.mul a b) d) (fun d a b => a * b + d)) o.vd o.va o.vb)
      (laneN q.toNat))
  | .vfms d _ _ q =>
    some (.v d.toNat (map3 q.toNat (lane3 q.toNat (fun d a b => Exact.add d (Exact.neg (Exact.mul a b))) (fun d a b => d - a * b))
      o.vd o.va o.vb) (laneN q.toNat))
  | .vabs d _ q => unary d q.toNat (fun n => lane2 q.toNat (fun a _ => Exact.abs a) (fun a _ => (a.natAbs : Int)) n n)
  | .vneg d _ q => unary d q.toNat (fun n => lane2 q.toNat (fun a _ => Exact.neg a) (fun a _ => -a) n n)
  | .vrcp d _ q => unary d q.toNat (laneRcp q.toNat)
  | .vrsq d _ q => unary d q.toNat (laneRsq q.toNat)
  | .vex2 d _ q => unary d q.toNat (laneEx2 q.toNat)
  | .vlg2 d _ q => unary d q.toNat (laneLg2 q.toNat)
  | .vcmp d _ _ q => bits d q (laneCmp q.toNat)
  | .vsel d _ _ q => some (.v d.toNat (map3 q.toNat (laneSel q.toNat) o.vd o.va o.vb) (laneN q.toNat))
  | .vand d _ _ q => some (.v d.toNat (o.va &&& o.vb) (laneN q.toNat))
  | .vor d _ _ q => some (.v d.toNat (o.va ||| o.vb) (laneN q.toNat))
  | .vxor d _ _ q => some (.v d.toNat (o.va ^^^ o.vb) (laneN q.toNat))
  | .vshl d _ _ q => bits d q (laneShl q.toNat)
  | .vshr d _ _ q => bits d q (laneShr q.toNat)
  | .vbcast d _ q => some (.v d.toNat (vecBcast q.toNat o.a) (laneN q.toNat))
  | .vext d _ _ q => gen d q.toNat (vecExt q.toNat o.va o.b)
  | .vins d _ _ q => some (.v d.toNat (vecIns q.toNat o.vd o.a o.b) (laneN q.toNat))
  | .vshuf d _ _ q => some (.v d.toNat (vecShuf q.toNat o.va o.vb) (laneN q.toNat))
  | .vrot d _ _ q => some (.v d.toNat (vecRot q.toNat o.va o.b) (laneN q.toNat))
  | .vred d _ _ q => gen d q.toNat (vecReduce .sum q.toNat o.va o.b)
  | .vrmax d _ _ q => gen d q.toNat (vecReduce .max q.toNat o.va o.b)
  | .vrmin d _ _ q => gen d q.toNat (vecReduce .min q.toNat o.va o.b)
  | .vdot d _ _ q => gen d q.toNat (vecDot q.toNat o.va o.vb)
  | .vcvt d _ _ q => some (.v d.toNat (vecCvt q.toNat o.vd o.va o.b) (laneN q.toNat))
  | .vscan d _ q => some (.v d.toNat (vecScan q.toNat o.va) (laneN q.toNat))
  | .ham d _ _ => some (.g d.toNat (vecHam o.va o.vb) 16)
  | .topki d _ _ => some (.v d.toNat (vecTopki o.vd o.va o.b) 16)
  | .topkr d _ => some (.v d.toNat (vecTopkr o.vd o.va) 16)
  | .topkz d => some (.v d.toNat (BitVec.allOnes 512) 16)
  | .bmf d _ _ q => some (.v d.toNat (vecBmf q.toNat o.va o.b) (laneN q.toNat))
  | .dip d _ _ q => gen d q.toNat (vecDip q.toNat o.va o.vb)
  | .dcos d _ _ q => gen d q.toNat (vecDcos q.toNat o.va o.vb)
  | .dl2 d _ _ q => gen d q.toNat (vecDl2 q.toNat o.va o.vb)
  | _ => none

end Sys2Proof.Machine
end

