-- ==== Sys2Proof/Machine/Tile.lean ====
section
/-! DEFINITION. Tiles, matrix operations and the vector-matrix unit (R186, R187, R332-R352, R414): the checks at issue, the
contents of tiles, chains, and the events of the unit. -/

namespace Sys2Proof.Machine

/-! ### Shapes at issue (R332, R333, R340, R414) -/

def Thread.fmw (t : Thread) (k : Nat) : BitVec 32 := Sparse.get 0 t.fm k
def Thread.scw (t : Thread) (k : Nat) : Word := Sparse.get 0 t.sc k

/-- The format word of a tile's pair. -/
def Thread.tileFm (t : Thread) (k : Nat) : BitVec 32 := t.fmw (shPair (t.shape k))

def Thread.narrow (t : Thread) (k : Nat) : Bool := shFmt (t.shape k) == 2

/-- The companion tile that a narrow tile brings. -/
def Thread.comps (t : Thread) (k : Nat) : List Nat := if t.narrow k then [shComp (t.shape k)] else []

/-- A shape word that describes elements, under a format word, in the present service (R19, R332, R333, R414). -/
def shapeOk (full : Bool) (md f : BitVec 32) : Bool :=
  match shFmt md with
  | 0 => shBytes md % 4 == 0
  | 1 => shBytes md % 2 == 0
  | 2 => full && fmtOk f && shBytes md % (2 * (Fmt.ofWord f).width) == 0
  | _ => false

def Thread.tileOk (t : Thread) (s : State) (k : Nat) : Bool := shapeOk s.md.full (t.shape k) (t.tileFm k)

/-- An open chain's tile is named (R341). -/
def Thread.chainBars (t : Thread) (ks : List Nat) : Bool := t.chain.any fun c => ks.contains c.tile

def Thread.elems (t : Thread) (k : Nat) : Nat := shElems (t.shape k) (t.tileFm k)
def Thread.rows (t : Thread) (k : Nat) : Nat := shRows (t.shape k)

/-- MSHAPE's test of a value for `md`D (R333). -/
def mshapeOk (full : Bool) (t : Thread) (d : Nat) (v : BitVec 32) : Bool :=
  bitsOf v 31 22 == 0 && shFmt v < 3 && shRows v * shBytes v ≤ 4096 && shapeOk full v (t.fmw (shPair v))
    && (shFmt v != 2 || (shComp v != d && shComp v < t.tiles))

def execMshape (d : BitVec 4) (a : BitVec 5) (s : State) : Result :=
  issue s { gR := [a.toNat], mN := [d.toNat] } fun t =>
    let v : BitVec 32 := (t.gr a.toNat).setWidth 32
    if t.chainBars [d.toNat] || !mshapeOk s.md.full t d.toNat v then .trap 2 0 0
    else .retire (s.here (·.setShape d.toNat v))

def execMshget (d : BitVec 5) (a : BitVec 4) (s : State) : Result :=
  issue s { gW := [d.toNat], mN := [a.toNat] } fun t => .retire (s.here (·.setG d.toNat ((t.shape a.toNat).setWidth 64)))

/-! ### Segment of a scale (R302) -/

/-- A scale's three bytes at `da` lie in a readable segment among `sg1`-`sg7`, in a space that holds them. -/
def scaleFault (s : State) (t : Thread) (da : Nat) : Option TrapInfo :=
  match (List.range 7).find? (fun i =>
    let g := t.seg (i + 1)
    segR g && segBase g ≤ da && da + 3 ≤ segBase g + segLimit g && da + 3 ≤ 2 ^ 52) with
  | none => some (5, BitVec.ofNat 64 da, 0)
  | some i =>
    (s.spaceCheck t.part t.mode (segC (t.seg (i + 1))) s.cur.core da 3 .vld).map fun c => (c, BitVec.ofNat 64 da, 0)

/-- DA of scale `b` from a scale pointer (R245). -/
def scaleDa (sc : Word) (b : Nat) : Nat := sc.toNat + scaleByte b

/-! ### Transfers (R334-R336) -/

/-- Checks each row of a transfer in order; gives the DAs. -/
def checkRows (s : State) (t : Thread) (sg size align : Nat) (sk : SegKind) (k : SpKind) : List Word → Except TrapInfo (List Nat)
  | [] => .ok []
  | o :: r =>
    match s.checkAccess t s.cur.core sg o size align sk k with
    | .error e => .error e
    | .ok da =>
      match checkRows s t sg size align sk k r with
      | .error e => .error e
      | .ok l => .ok (da :: l)

/-- Pieces of rows of `n` bytes, one after another in the buffer. -/
def rowPieces (n : Nat) (das : List Nat) : List Piece := (das.zipIdx).flatMap fun (da, r) => linePieces 6 da n (r * n)

/-- Scale numbers of a narrow transfer's blocks, in row order (R335). -/
def blockScales (base stride : Word) (rows nb w : Nat) : List Nat :=
  (List.range rows).flatMap fun r => (List.range nb).map fun j => (rowOff base stride r).toNat / (2 * w) + j

/-- The bytes of the scale array that hold scale `b`. -/
def scalePieces (sc : Word) (bs : List Nat) : List Piece := bs.flatMap fun b => linePieces 2 (scaleDa sc b) 3 scaleAt

/-- A tile's scales are read line by line: the bytes of one 64-byte line from the first to the last that a scale needs, whole (R246). -/
def tileScalePieces (sc : Word) (bs : List Nat) : List Piece :=
  let das := bs.flatMap fun b => [scaleDa sc b, scaleDa sc b + 1, scaleDa sc b + 2]
  (das.map (· / 64)).eraseDups.map fun l =>
    let mine := das.filter (· / 64 == l)
    let lo := mine.foldl Nat.min (64 * l + 63)
    { da := lo, n := mine.foldl Nat.max lo + 1 - lo, off := scaleAt + (lo - sc.toNat), st := .todo }

/-- Takes a transfer into the relaxed window and the dispatch queue; its pieces wait for the unit (held by token 0). -/
def issueTransfer (s : State) (t : Thread) (i : Instr) (kind : AccKind) (ps : List Piece) (k : Cont) (dst : List (RegKind × Nat))
    (f : Thread → Thread) : Out :=
  if s.dispFull ∨ s.window t.tid ≥ 8 then .admission s
  else
    let a := { s.newAccess t s.fresh kind true false none ps [] k with held := some 0 }
    let s1 := s.here fun t => (f t.noResv).oweAll dst
    let s2 : State := { s1 with fresh := s1.fresh + 1, net := { s1.net with accs := s1.net.accs ++ [a] } }
    .retire (s2.enqueue (vmuOp s2 t i 0 0 0 0 0 (some a.id)))

def execMld (d : BitVec 4) (a b : BitVec 5) (g : BitVec 3) (s : State) : Result :=
  let d' := d.toNat
  issueT s (fun t => { gR := [a.toNat, b.toNat], mW := d' :: t.comps d' }) fun t =>
    let md := t.shape d'
    let f := t.tileFm d'
    let w := (Fmt.ofWord f).width
    let base := t.gr a.toNat
    let stride := t.gr b.toNat
    if t.chainBars (d' :: t.comps d') || !t.tileOk s d' then .trap 2 0 0
    else
      let narrow := t.narrow d'
      let align := if narrow then 2 * w else if shFmt md = 0 then 4 else 2
      match checkRows s t g.toNat (shBytes md) align (if narrow then .ldn else .load) .tileLd
          ((List.range (shRows md)).map (rowOff base stride)) with
      | .error (c, g1, g2) => .trap c g1 g2
      | .ok das =>
        let sc := t.scw (shPair md)
        let bs := if narrow ∧ sc ≠ 0 then blockScales base stride (shRows md) (shBytes md / (2 * w)) w else []
        match bs.findSome? (fun b => scaleFault s t (scaleDa sc b)) with
        | some (c, g1, g2) => .trap c g1 g2
        | none =>
          let comp := if narrow then some (shComp md) else none
          issueTransfer s t (.mld d a b g) .load (rowPieces (shBytes md) das ++ tileScalePieces sc bs)
            (.mld d' md f sc comp base stride) ((RegKind.m, d') :: (t.comps d').map (fun c => (RegKind.m, c)))
            (fun t => match comp with
              | some c => t.setShape c 0x6000
              | none => t)

def execMldt (d : BitVec 4) (a b : BitVec 5) (g : BitVec 3) (s : State) : Result :=
  let d' := d.toNat
  issueT s (fun t => { gR := [a.toNat, b.toNat], mW := d' :: t.comps d' }) fun t =>
    let md := t.shape d'
    if t.chainBars [d'] || !t.tileOk s d' || t.narrow d' then .trap 2 0 0
    else
      let e := if shFmt md = 0 then 4 else 2
      match checkRows s t g.toNat (shRows md * e) e .load .tileLd
          ((List.range (shBytes md / e)).map (rowOff (t.gr a.toNat) (t.gr b.toNat))) with
      | .error (c, g1, g2) => .trap c g1 g2
      | .ok das => issueTransfer s t (.mldt d a b g) .load (rowPieces (shRows md * e) das) (.mldt d' md) [(.m, d')] id

def execMst (d : BitVec 4) (a b : BitVec 5) (g : BitVec 3) (s : State) : Result :=
  let d' := d.toNat
  issueT s (fun t => { gR := [a.toNat, b.toNat], mR := [d'], mN := t.comps d' }) fun t =>
    let md := t.shape d'
    let w := (Fmt.ofWord (t.tileFm d')).width
    if t.chainBars [d'] || !t.tileOk s d' then .trap 2 0 0
    else
      let narrow := t.narrow d'
      let align := if narrow then 2 * w else if shFmt md = 0 then 4 else 2
      match checkRows s t g.toNat (shBytes md) align (if narrow then .stn else .store) .tileSt
          ((List.range (shRows md)).map (rowOff (t.gr a.toNat) (t.gr b.toNat))) with
      | .error (c, g1, g2) => .trap c g1 g2
      | .ok das => issueTransfer s t (.mst d a b g) .store (rowPieces (shBytes md) das) .mst [] id

/-! ### Other tile forms (R337, R338, R345, R347) -/

def execMzero (d : BitVec 4) (s : State) : Result :=
  issue s { mW := [d.toNat] } fun t =>
    if t.chainBars [d.toNat] then .trap 2 0 0 else dispatch s t (.mzero d) 0 0 0 0 0 [(.m, d.toNat)]

/-- Row and half named by MROWV and MVROW, and whether they lie in the tile. -/
def rowSel (b : Word) : Nat × Nat := (bitsOf b 5 0, bitsOf b 6 6)
def rowSelOk (md : BitVec 32) (b : Word) : Bool := (rowSel b).1 < shRows md && 64 * (rowSel b).2 < shBytes md

def execMrowv (d a : BitVec 4) (b : BitVec 5) (s : State) : Result :=
  issueT s (fun t => { gR := [b.toNat], mR := [a.toNat], mN := t.comps a.toNat, vW := [d.toNat] }) fun t =>
    if t.chainBars [a.toNat] || !t.tileOk s a.toNat || t.narrow a.toNat || !rowSelOk (t.shape a.toNat) (t.gr b.toNat) then .trap 2 0 0
    else dispatch s t (.mrowv d a b) 0 (t.gr b.toNat) 0 0 0 [(.v, d.toNat)]

def execMvrow (d a : BitVec 4) (b : BitVec 5) (s : State) : Result :=
  issueT s (fun t => { gR := [b.toNat], vR := [a.toNat], mR := [d.toNat], mN := t.comps d.toNat, mW := [d.toNat] }) fun t =>
    if t.chainBars [d.toNat] || !t.tileOk s d.toNat || t.narrow d.toNat || !rowSelOk (t.shape d.toNat) (t.gr b.toNat) then .trap 2 0 0
    else dispatch s t (.mvrow d a b) 0 (t.gr b.toNat) (t.vr a.toNat) 0 0 [(.m, d.toNat)]

def execMcvt (d a : BitVec 4) (s : State) : Result :=
  let d' := d.toNat
  let a' := a.toNat
  issueT s (fun t => { mR := a' :: t.comps a' ++ t.comps d', mW := [d'] }) fun t =>
    if t.chainBars (d' :: a' :: t.comps a' ++ t.comps d') || !t.tileOk s d' || !t.tileOk s a' || t.rows d' != t.rows a'
      || t.elems d' != t.elems a' then .trap 2 0 0
    else dispatch s t (.mcvt d a) 0 0 0 0 0 [(.m, d')]

def execMew (d a b : BitVec 4) (q : BitVec 2) (s : State) : Result :=
  let ks := [d.toNat, a.toNat, b.toNat]
  issueT s (fun t => { mR := [a.toNat, b.toNat], mN := ks.flatMap t.comps, mW := [d.toNat] }) fun t =>
    if t.chainBars ks || ks.any (fun k => !t.tileOk s k || t.narrow k || t.rows k != t.rows d.toNat || t.elems k != t.elems d.toNat)
    then .trap 2 0 0
    else dispatch s t (.mew d a b q) 0 0 0 0 0 [(.m, d.toNat)]

def execMred (d a : BitVec 4) (b : BitVec 5) (q : BitVec 2) (s : State) : Result :=
  issueT s (fun t => { gR := [b.toNat], mR := [a.toNat], mN := t.comps a.toNat, vW := [d.toNat] }) fun t =>
    if t.chainBars [a.toNat] || !t.tileOk s a.toNat || t.narrow a.toNat then .trap 2 0 0
    else dispatch s t (.mred d a b q) 0 (t.gr b.toNat) 0 0 0 [(.v, d.toNat)]

def execHamt (d a b : BitVec 4) (s : State) : Result :=
  issueT s (fun t => { mR := [a.toNat], mN := t.comps a.toNat, vR := [b.toNat], vW := [d.toNat] }) fun t =>
    if t.chainBars [a.toNat] || !t.tileOk s a.toNat || shBytes (t.shape a.toNat) != 64 || t.rows a.toNat > 32 then .trap 2 0 0
    else dispatch s t (.hamt d a b) 0 0 0 (t.vr b.toNat) 0 [(.v, d.toNat)]

/-! ### Matrix operations (R339-R343) -/

/-- A tile that may be D of a matrix operation. -/
def Thread.matD (t : Thread) (s : State) (k : Nat) : Bool :=
  shFmt (t.shape k) == 0 && t.tileOk s k && t.rows k ≤ 32 && t.elems k ≤ 32

/-- The shapes and formats of an MMA form agree (R249, R340); `tr` for MMAT. -/
def Thread.mmaOk (t : Thread) (s : State) (tr : Bool) (d a b : Nat) : Bool :=
  let m := t.rows d
  let n := t.elems d
  let k := t.elems a
  t.matD s d && t.tileOk s a && t.tileOk s b && t.rows a == m
    && (if tr then t.rows b == k && t.elems b == n && !t.narrow a && !t.narrow b else t.rows b == n && t.elems b == k)
    && shFmt (t.shape a) == shFmt (t.shape b)

/-- Leave charged to an MMA form (R419). -/
def mmaCharge (md : BitVec 32) : Nat :=
  match shFmt md with
  | 0 => 5
  | 1 => 6
  | _ => 8

/-- The exact value of element (r, j) of a tile (R244, R332, R414). -/
def tileElem (m : Tile) (md f : BitVec 32) (comp : Tile) (r j : Nat) : XVal :=
  let rb := shBytes md
  match shFmt md with
  | 0 => ofFp32 (BitVec.ofNat 32 (tileNat m (r * rb + 4 * j) 4))
  | 1 => ofBf16 (BitVec.ofNat 16 (tileNat m (r * rb + 2 * j) 2))
  | _ =>
    let w := (Fmt.ofWord f).width
    let n := r * (rb / (2 * w)) + j / 16
    scaled (Fmt.ofWord f) (m.toNat / 2 ^ (8 * r * rb + w * j) % 2 ^ w) (BitVec.ofNat 20 (comp.toNat / 2 ^ (20 * n))) (j % 16)

/-- An implicit request for leave. -/
def asks (who : Asker) (core part charge : Nat) : GovReq := { who := who, core := core, part := part, charge := charge, dur := 0 }

/-- CHB (R341): checks, then leave, then the dispatch queue. The chain is open from issue on; the unit gives it its accumulator. -/
def execChb (d : BitVec 4) (s : State) : Result :=
  let d' := d.toNat
  issue s { mR := [d'] } fun t =>
    if t.chain.isSome || !t.matD s d' then .trap 2 0 0
    else
      match t.asking with
      | .granted id =>
        if s.dispFull then .admission s
        else
          .retire ((s.here fun t => { t with asking := .no, chain := some { tile := d', rows := t.rows d', cols := t.elems d', acc := [],
                                                                            leave := id } }).enqueue (vmuOp s t (.chb d) 0 0 0 0 0 (some id)))
      | .asked => .admission s
      | _ =>
        .admission ((s.askLeave s.cur.core (asks (.chain s.cur.core s.cur.slot t.tid) s.cur.core t.part 8)).here fun t => { t with asking := .asked })

/-- CHE (R341): the chain closes, and the unit rounds it once into `m`D. -/
def execChe (d : BitVec 4) (s : State) : Result :=
  issue s { mW := [d.toNat] } fun t =>
    match t.chain with
    | none => .trap 2 0 0
    | some c =>
      if c.tile ≠ d.toNat then .trap 2 0 0
      else if s.dispFull then .admission s
      else
        .retire ((s.here fun t => ({ t with chain := none } : Thread).owe .m d.toNat).enqueue
          { vmuOp s t (.che d) 0 0 0 0 0 none with chain := some c })

/-- An MMA form: inside a chain it goes to the accumulator; outside it asks for leave of its own. `z` for MMAZ, `tr` for MMAT. -/
def matrixOp (s : State) (i : Instr) (z tr : Bool) (d a b : Nat) : Result :=
  issueT s (fun t =>
    let src := a :: b :: t.comps a ++ t.comps b
    if t.chain.isSome then { mR := src, mN := [d] } else { mR := if z then src else d :: src, mW := [d] }) fun t =>
    if t.chain.any (fun c => c.tile != d) || !t.mmaOk s tr d a b then .trap 2 0 0
    else if t.chain.isSome then
      if s.dispFull then .admission s else .start (s.enqueue (vmuOp s t i 0 0 0 0 0 none)) .matrix
    else
      match t.asking with
      | .granted id =>
        if s.dispFull then .admission s
        else
          .start ((s.here fun t => ({ t with asking := .no } : Thread).owe .m d).enqueue (vmuOp s t i 0 0 0 0 0 (some id))) .matrix
      | .asked => .admission s
      | _ =>
        .admission ((s.askLeave s.cur.core (asks (.mma s.cur.core s.cur.slot t.tid) s.cur.core t.part (mmaCharge (t.shape a)))).here fun t => { t with asking := .asked })

def execMma (d a b : BitVec 4) (s : State) : Result := matrixOp s (.mma d a b) false false d.toNat a.toNat b.toNat
def execMmaz (d a b : BitVec 4) (s : State) : Result := matrixOp s (.mmaz d a b) true false d.toNat a.toNat b.toNat
def execMmat (d a b : BitVec 4) (s : State) : Result := matrixOp s (.mmat d a b) false true d.toNat a.toNat b.toNat

/-! ### Results -/

/-- The shape, format word and companion of a tile as a dispatch carries them. -/
def VmuOp.md_ (o : VmuOp) (k : Nat) : BitVec 32 := Sparse.get 0 o.md k
def VmuOp.fm_ (o : VmuOp) (k : Nat) : BitVec 32 := Sparse.get 0 o.fm (shPair (o.md_ k))
def VmuOp.elem (o : VmuOp) (t : Thread) (k r j : Nat) : XVal :=
  tileElem (t.mr k) (o.md_ k) (o.fm_ k) (t.mr (shComp (o.md_ k))) r j
def VmuOp.rows (o : VmuOp) (k : Nat) : Nat := shRows (o.md_ k)
def VmuOp.elems (o : VmuOp) (k : Nat) : Nat := shElems (o.md_ k) (o.fm_ k)

/-- The products of one output element added to a start value (R250). -/
def VmuOp.dot (o : VmuOp) (t : Thread) (tr : Bool) (a b r c : Nat) (d : XVal) : XVal :=
  (List.range (o.elems a)).foldl
    (fun acc k => Exact.add acc (Exact.mul (o.elem t a r k) (if tr then o.elem t b k c else o.elem t b c k))) d

/-- A tile with FP32 elements written row by row. -/
def fp32Tile (m : Tile) (md : BitVec 32) (cols : Nat) (xs : List XVal) : Tile :=
  (xs.zipIdx).foldl (fun m (x, i) => tilePut m (i / cols * shBytes md + 4 * (i % cols)) 4 (toFp32 x).toNat) m

/-- A tile with an element written in its format, FP32 or BF16. -/
def putElem (m : Tile) (md : BitVec 32) (r j : Nat) (x : XVal) : Tile :=
  if shFmt md = 0 then tilePut m (r * shBytes md + 4 * j) 4 (toFp32 x).toNat
  else tilePut m (r * shBytes md + 2 * j) 2 (toBf16 x).toNat

/-- MCVT of one element into the destination format (R338). -/
def cvtElem (o : VmuOp) (t : Thread) (d a r j : Nat) (m : Tile) : Tile :=
  let md := o.md_ d
  if shFmt md = 2 then
    let f := Fmt.ofWord (o.fm_ d)
    let w := f.width
    let n := r * (shBytes md / (2 * w)) + j / 16
    let c := f.encode (o.elem t a r j) (BitVec.ofNat 20 ((t.mr (shComp md)).toNat / 2 ^ (20 * n))) (j % 16)
    let at_ := 8 * r * shBytes md + w * j
    BitVec.ofNat 32768 (m.toNat % 2 ^ at_ + c * 2 ^ at_ + m.toNat / 2 ^ (at_ + w) * 2 ^ (at_ + w))
  else putElem m md r j (o.elem t a r j)

/-- Every (row, element) of a tile. -/
def VmuOp.cells (o : VmuOp) (k : Nat) : List (Nat × Nat) :=
  (List.range (o.rows k)).flatMap fun r => (List.range (o.elems k)).map fun j => (r, j)

def mewOp (q : BitVec 2) : XVal → XVal → XVal :=
  match q.toNat with
  | 0 => Exact.add
  | 1 => Exact.mul
  | 2 => xMax
  | _ => xMin

def mredOp (q : BitVec 2) : RedOp :=
  match q.toNat with
  | 0 => .sum
  | 1 => .max
  | _ => .min

/-- MRED: FP32 lane i is the reduction of column 16h + i (R345). -/
def mredLanes (o : VmuOp) (t : Thread) (a : Nat) (q : BitVec 2) : Vec :=
  let h := bitsOf o.b 1 0
  ofLanes 0 ((List.range 16).map fun i =>
    let col := 16 * h + i
    if col ≥ o.elems a then 0
    else (reduceF (mredOp q) 6 ((List.range 64).map fun r => if r < o.rows a then some (o.elem t a r col) else none)).toNat)

/-- HAMT (R347). -/
def hamtLanes (o : VmuOp) (t : Thread) (a : Nat) : Vec :=
  ofLanes 3 ((List.range 32).map fun i =>
    if i < o.rows a then onesIn 512 (tileNat (t.mr a) (64 * i) 64 ^^^ o.vb.toNat) else 0xFFFF)

/-- MMA accumulations of every output element, from start values in row order. -/
def VmuOp.mmaAll (o : VmuOp) (t : Thread) (tr : Bool) (rows cols a b : Nat) (start : List XVal) : List XVal :=
  (start.zipIdx).map fun (x, i) => if i < rows * cols then o.dot t tr a b (i / cols) (i % cols) x else x

/-- Which form of MMA an instruction is: D, A, B, MMAZ, MMAT. -/
def mmaForm : Instr → Option (Nat × Nat × Nat × Bool × Bool)
  | .mma d a b => some (d.toNat, a.toNat, b.toNat, false, false)
  | .mmaz d a b => some (d.toNat, a.toNat, b.toNat, true, false)
  | .mmat d a b => some (d.toNat, a.toNat, b.toNat, false, true)
  | _ => none

/-- Meter of a MAC: by the wider operand (R249). -/
def macMeter (o : VmuOp) (a b : Nat) : Nat :=
  match shFmt (o.md_ a) with
  | 0 => 3
  | 1 => 2
  | _ => if Nat.max (Fmt.ofWord (o.fm_ a)).width (Fmt.ofWord (o.fm_ b)).width ≤ 4 then 0 else 1

/-- A tile result: register, value, and lane operations counted in meter 4 (R351). -/
def tileResult (o : VmuOp) (t : Thread) : Option (RegKind × Nat × Tile × Nat) :=
  match o.ins with
  | .mzero d => some (.m, d.toNat, 0, 0)
  | .mrowv d a _ =>
    let (r, h) := rowSel o.b
    let md := o.md_ a.toNat
    some (.v, d.toNat, (BitVec.ofNat 32768 (tileNat (t.mr a.toNat) (r * shBytes md + 64 * h) (Nat.min 64 (shBytes md - 64 * h)))), 0)
  | .mvrow d _ _ =>
    let (r, h) := rowSel o.b
    let md := o.md_ d.toNat
    some (.m, d.toNat, tilePut (t.mr d.toNat) (r * shBytes md + 64 * h) (Nat.min 64 (shBytes md - 64 * h)) o.va.toNat, 0)
  | .mcvt d a =>
    some (.m, d.toNat, (o.cells d.toNat).foldl (fun m (r, j) => cvtElem o t d.toNat a.toNat r j m) (t.mr d.toNat),
      (o.cells d.toNat).length)
  | .mew d a b q =>
    some (.m, d.toNat, (o.cells d.toNat).foldl
      (fun m (r, j) => putElem m (o.md_ d.toNat) r j (mewOp q (o.elem t a.toNat r j) (o.elem t b.toNat r j))) (t.mr d.toNat),
      (o.cells d.toNat).length)
  | .mred d a _ q => some (.v, d.toNat, (mredLanes o t a.toNat q).setWidth 32768, (o.cells a.toNat).length)
  | .hamt d a _ => some (.v, d.toNat, (hamtLanes o t a.toNat).setWidth 32768, 16 * o.rows a.toNat)
  | .che d =>
    match o.chain with
    | some c => some (.m, d.toNat, fp32Tile (t.mr d.toNat) (o.md_ d.toNat) c.cols c.acc, 0)
    | none => none
  | _ => none

/-- A tile transfer, whose `ref` is its access. -/
def VmuOp.isTransfer (o : VmuOp) : Bool :=
  match o.ins with
  | .mld .. | .mldt .. | .mst .. => true
  | _ => false

/-- The accumulator with which a CHB opens its chain: every element of `m`D. -/
def VmuOp.chainAcc (o : VmuOp) (t : Thread) (d : Nat) : List XVal := (o.cells d).map fun x => o.elem t d x.1 x.2

def Chain.setAcc (c : Chain) (id : Nat) (acc : List XVal) : Chain := if c.leave = id then { c with acc := acc } else c
def VmuOp.setAcc (id : Nat) (acc : List XVal) (o : VmuOp) : VmuOp := { o with chain := o.chain.map (·.setAcc id acc) }

/-- The thread that dispatched an operation, where it still is. -/
def State.vmuThread (s : State) (o : VmuOp) (f : Thread → Thread) : State :=
  match s.thread o.core o.slot with
  | some t => if t.tid = o.tid then s.setThread o.core o.slot (f t) else s
  | none => s

/-- A thread parked on the result is eligible from the next cycle (R179). -/
def Thread.nudge (t : Thread) (now : Nat) : Thread := if t.avail = .parked then { t with from_ := Nat.max t.from_ (now + 1) } else t

/-- A CHB is performed: the chain of its leave has its accumulator, in the thread, or in the CHE that is queued behind or has entered the
unit. -/
def State.openChain (s : State) (o : VmuOp) (id : Nat) (acc : List XVal) : State :=
  ((s.vmuThread o fun t => { t with chain := t.chain.map (·.setAcc id acc) }).modCore o.core fun k =>
    { k with disp := k.disp.map (VmuOp.setAcc id acc) }).modVmu (quadOf o.core) fun v =>
    { v with running := v.running.map (VmuOp.setAcc id acc) }

/-- The bytes of a tile store, row by row. -/
def storeBytes (o : VmuOp) (t : Thread) (d : Nat) : Sparse Byte :=
  putBuf [] 0 (leBytes (o.rows d * shBytes (o.md_ d)) (t.mr d).toNat)

/-- A tile transfer begins: a store reads its tile, and its pieces are sent. -/
def State.startTransfer (s : State) (o : VmuOp) (id : Nat) : State :=
  match s.acc id with
  | none => s
  | some a =>
    let a := match o.ins, s.thread o.core o.slot with
      | .mst d .., some t => { a with buf := storeBytes o t d.toNat }
      | _, _ => a
    (s.setAcc { a with held := none }).advanceAcc id

/-- Writes the result of an operation, meters it, ends its leave, and returns an MMA's thread to the rotation. -/
def State.vmuWrite (s : State) (o : VmuOp) : State :=
  match s.thread o.core o.slot with
  | none => s
  | some t =>
    if t.tid ≠ o.tid then s
    else
      match vecResult o with
      | some (.g d v n) => (s.vmuThread o fun t => (t.payG d v).nudge s.now).charge o.part 4 n
      | some (.v d v n) => (s.vmuThread o fun t => (t.payV d v).nudge s.now).charge o.part 4 n
      | none =>
        match tileResult o t with
        | some (.v, d, v, n) => (s.vmuThread o fun t => (t.payV d (v.setWidth 512)).nudge s.now).charge o.part 4 n
        | some (_, d, v, n) => (s.vmuThread o fun t => (t.payM d v).nudge s.now).charge o.part 4 n
        | none =>
          match mmaForm o.ins with
          | none =>
            match o.ins, o.ref with
            | .chb d, some id => s.openChain o id (o.chainAcc t d.toNat)
            | _, _ => s
          | some (d, a, b, z, tr) =>
            let rows := o.rows d
            let cols := o.elems d
            let s := s.charge o.part (macMeter o a b) (rows * cols * o.elems a)
            let back (t : Thread) : Thread := { t.advance with from_ := Nat.max t.from_ (s.now + 1) }
            match t.chain with
            | some c =>
              let start := if z then c.acc.map (fun _ => Exact.zero true) else c.acc
              s.vmuThread o fun t => back { t with chain := some { c with acc := o.mmaAll t tr rows cols a b start } }
            | none =>
              let start := (List.range (rows * cols)).map fun i => if z then Exact.zero true else o.elem t d (i / cols) (i % cols)
              s.vmuThread o fun t => back (t.payM d (fp32Tile (t.mr d) (o.md_ d) cols (o.mmaAll t tr rows cols a b start)))

/-- The leave that an operation ends when it completes (R10). -/
def State.vmuLeave (s : State) (o : VmuOp) : State :=
  match o.chain, mmaForm o.ins, o.ref with
  | some c, _, _ => s.endLeave c.leave
  | none, some _, some id => s.endLeave id
  | _, _, _ => s

/-! ### The unit (R187, R343, R350) -/

/-- MACs in a cycle. -/
def macRate (o : VmuOp) (a b : Nat) : Nat :=
  match macMeter o a b with
  | 0 => 8192
  | 1 => 4096
  | 2 => 1024
  | _ => 256

def ceilDiv (a b : Nat) : Nat := (a + b - 1) / b

/-- Bytes of a tile under its shape word. -/
def VmuOp.bytes (o : VmuOp) (k : Nat) : Nat := o.rows k * shBytes (o.md_ k)

/-- Cycles for which an operation occupies the start stage. A CHB takes them as an FP32 operation with K = 1: DEDUCED, log entry 69. -/
def startCycles (o : VmuOp) : Nat :=
  match o.ins with
  | .vrcp .. | .vrsq .. | .vex2 .. | .vlg2 .. | .vred .. | .vrmax .. | .vrmin .. | .vdot .. | .vscan .. | .dip .. | .dcos .. | .dl2 ..
  | .topki .. | .topkr .. => 4
  | .hamt _ a _ => ceilDiv (o.rows a.toNat) 8
  | .mcvt d a => ceilDiv (Nat.max (o.bytes d.toNat) (o.bytes a.toNat)) 64
  | .mew d a b _ => ceilDiv (Nat.max (Nat.max (o.bytes d.toNat) (o.bytes a.toNat)) (o.bytes b.toNat)) 64
  | .mred _ a _ _ => ceilDiv (o.bytes a.toNat) 64
  | .chb d => ceilDiv (o.rows d.toNat * o.elems d.toNat) 256
  | i =>
    match mmaForm i with
    | some (d, a, b, _, _) =>
      ceilDiv (o.rows d * o.elems d * o.elems a) (macRate o a b) + (if o.ref.isSome && (d == a || d == b) then 16 else 0)
    | none => 1

/-- The first quad core from `i` on, cyclically, whose queue is not empty. -/
def State.nextQueue (s : State) (q : Nat) (i : Nat) : Option Nat :=
  (List.range 4).findSome? fun j =>
    let c := 4 * q + (i + j) % 4
    if (s.core c).disp.isEmpty then none else some c

/-- VMU_START (R187): the head of the next queue enters the start stage, for 64 cycles at most. An operation that needs more is
performed in parts, and the rest stays at the head of its queue (R343). Operations are performed in the order in which they leave the
stage, so that each reads its tiles as program order leaves them (R322). -/
def execVmuStart (s : State) : Result :=
  given s .vmuStart fun s =>
    let q := s.env.unit
    if s.now < (s.vmu q).freeAt then s
    else
      match s.nextQueue q (s.vmu q).next with
      | none => s
      | some c =>
        match (s.core c).disp with
        | [] => s
        | o :: rest =>
          let n := startCycles o - o.done
          let s := s.modVmu q fun v => { v with next := (c + 1) % 4, freeAt := s.now + Nat.min 64 n }
          if 64 < n then s.modCore c fun k => { k with disp := { o with done := o.done + 64 } :: rest }
          else
            let s := s.modCore c fun k => { k with disp := rest }
            s.modVmu q fun v => { v with running := v.running ++ [{ o with ends := s.now + n }] }

/-- The earliest cycle of an operation's result: it has left the start stage, and the thread of an MMA form is eligible again 8
cycles later (R343, R350, R179). -/
def VmuOp.ready (o : VmuOp) : Nat := if (mmaForm o.ins).isSome then o.ends + 7 else o.ends

/-- What an operation does once it has passed the start stage: a transfer sends its pieces, any other writes its result. -/
def State.vmuPerform (s : State) (o : VmuOp) : State :=
  match o.isTransfer, o.ref with
  | true, some id => s.startTransfer o id
  | _, _ => (s.vmuWrite o).vmuLeave o

/-- VMU_RESULT (R350): the oldest operation of the unit is performed. -/
def execVmuResult (s : State) : Result :=
  given s .vmuResult fun s =>
    match (s.vmu s.env.unit).running with
    | [] => s
    | o :: rest => if s.now < o.ready then s else (s.modVmu s.env.unit fun v => { v with running := rest }).vmuPerform o

end Sys2Proof.Machine
end

