-- ==== Sys2Proof/Machine/Col.lean ====
section
/-! DEFINITION. The Col (R23-R40, R420): kerf map, transmit queues, kerf order, the nine copies, sleep, replay and reload. -/

namespace Sys2Proof.Machine

/-! ### Kerf map (R25-R27) -/

def kmapValid (e : BitVec 10) : Bool := e.getLsbD 0
/-- The pair of an entry, as 8 × partition + layer. -/
def kmapPair (e : BitVec 10) : Nat := 8 * bitsOf e 6 1 + bitsOf e 9 7

def Tower.entry (t : Tower) (k : Nat) : BitVec 10 := Sparse.get 0 t.kmap k
def Tower.queue (t : Tower) (pair : Nat) : List ColWrite := Sparse.get [] t.queues pair
def Tower.setQueue (t : Tower) (pair : Nat) (q : List ColWrite) : Tower := { t with queues := Sparse.put [] t.queues pair q }

/-- The pair holds an entry of a map. -/
def mapHolds (m : Sparse (BitVec 10)) (pair : Nat) : Bool := m.any fun e => kmapValid e.2 && kmapPair e.2 == pair

def applyMap (m : Sparse (BitVec 10)) : Sparse (BitVec 10) → Sparse (BitVec 10)
  | [] => m
  | (k, e) :: r => applyMap (Sparse.put 0 m k e) r

/-- Pending writes judged against the map they would leave (R27): one that takes an entry from a pair with queued writes and no
entry left is ignored, and KBUSY sets. They are judged once, so a pair that only an ignored write would have given an entry may be left with
none: DESIGN CHOICE, log entry 113. -/
def Tower.applyKmap (t : Tower) : Tower :=
  let after := applyMap t.kmap t.pending
  let refused := t.pending.filter fun e =>
    let old := t.entry e.1
    kmapValid old && !(t.queue (kmapPair old)).isEmpty && !mapHolds after (kmapPair old) && kmapPair old != (if kmapValid e.2 then kmapPair e.2 else 512)
  let good := t.pending.filter fun e => !refused.contains e
  { t with kmap := applyMap t.kmap good, pending := [], kbusy := t.kbusy || !refused.isEmpty }

def Tower.writeKmap (t : Tower) (k : Nat) (v : Word) : Tower := { t with pending := Sparse.insert t.pending k (v.setWidth 10) }
/-- KMAP as read (R26). -/
def Tower.readKmap (t : Tower) (k : Nat) : Word := ((Sparse.find? t.pending k).getD (t.entry k)).setWidth 64

/-! ### Copies -/

/-- How many writes of the order a die has taken. -/
def Tower.taken (t : Tower) (die : Nat) : Nat := Sparse.get 0 t.applied die

def Tower.asleep (t : Tower) (die : Nat) : Bool := die < 8 && !t.awake.getLsbD die

/-- One write into a die's copy. -/
def State.colWrite (s : State) (tower die : Nat) (w : ColWrite) : State := s.putBytes (colLoc tower die w.off) (bytesOf w.n w.val)

/-- Drops writes that every die has taken. -/
def Tower.prune (t : Tower) : Tower :=
  let k := ((List.range 9).map t.taken).foldl Nat.min t.order.length
  { t with order := t.order.drop k, applied := (List.range 9).foldl (fun a d => Sparse.put 0 a d (t.taken d - k)) t.applied }

/-- A die takes its next write (R32, R36, R37, R40): it applies it, or logs it while asleep or replaying; a stale die takes it only
during a reload, and marks its line fresh: also while it sleeps, DEDUCED, log entry 67. -/
def State.dieTakes (s : State) (tower die : Nat) : State :=
  let t := s.tower tower
  match t.order[t.taken die]? with
  | none => s
  | some w =>
    let step (t : Tower) : Tower := { t with applied := Sparse.put 0 t.applied die (t.taken die + 1) }
    let s :=
      if die = 8 then s.colWrite tower die w
      else if t.reload.getLsbD die then
        (s.colWrite tower die w).modTower tower fun t =>
          let f := Sparse.get [] t.fresh die
          { t with fresh := Sparse.put [] t.fresh die (if f.contains (w.off / 64) then f else w.off / 64 :: f) }
      else if t.asleep die then
        if t.stale.getLsbD die then s
        else if Sparse.get 0 t.logged die ≥ 1024 then
          s.modTower tower fun t => { t with stale := bset t.stale die, catchup := Sparse.put [] t.catchup die [] }
        else
          s.modTower tower fun t => { t with catchup := Sparse.put [] t.catchup die (Sparse.get [] t.catchup die ++ [w]),
                                             logged := Sparse.put 0 t.logged die (Sparse.get 0 t.logged die + 1) }
      else if t.stale.getLsbD die then s
      else if t.replay.getLsbD die then
        s.modTower tower fun t => { t with catchup := Sparse.put [] t.catchup die (Sparse.get [] t.catchup die ++ [w]) }
      else s.colWrite tower die w
    s.modTower tower fun t => (step t).prune

/-- A die takes every write of kerfs up to `k`. -/
def State.dieCatch (s : State) (tower die k : Nat) : Nat → State
  | 0 => s
  | n + 1 =>
    let t := s.tower tower
    match t.order[t.taken die]? with
    | some w => if w.kerf ≤ k then (s.dieTakes tower die).dieCatch tower die k n else s
    | none => s

/-- A die takes everything that has been transmitted. -/
def State.dieFlush (s : State) (tower die : Nat) : State :=
  let t := s.tower tower
  s.dieCatch tower die t.kerf (t.order.length + 1)

/-- Every die has taken the writes of kerfs up to `k` (R32). -/
def State.catchAll (s : State) (tower k : Nat) : State :=
  (List.range 9).foldl (fun s d => s.dieCatch tower d k ((s.tower tower).order.length + 1)) s

/-! ### Acceptance and transmission (R29-R32) -/

/-- The pair of a core's Col writes. -/
def colPair (p core : Nat) : Nat := 8 * p + layerOf core % 8

/-- Waiting writes stand in the order in which they reached their queue: by cycle, then core, then slot (R29). -/
def ColWait.before (a b : ColWait) : Bool :=
  a.since < b.since || (a.since == b.since && (a.core < b.core || (a.core == b.core && a.slot < b.slot)))

def insertWait (w : ColWait) : List ColWait → List ColWait
  | [] => [w]
  | x :: r => if w.before x then w :: x :: r else x :: insertWait w r

/-- The pair of a Col write. -/
def ColWrite.pair (w : ColWrite) : Nat := 8 * w.part + w.layer

/-- The queue of a pair has an entry that is neither taken nor kept for a write that may go on. -/
def Tower.room (t : Tower) (pair : Nat) : Bool :=
  (t.queue pair).length + (t.waiting.filter fun w => w.ok && w.w.pair == pair).length < 16

/-- The oldest waiting write of a pair with room. Of those that came in one cycle the next has its entry once the one before is in the
queue (R29). -/
def Tower.acceptable (t : Tower) : Option ColWait :=
  t.waiting.find? fun w => !w.ok && t.room w.w.pair && !(t.waiting.any fun x => x.w.pair == w.w.pair && x.before w && (!x.ok || x.since == w.since))

/-- An entry has freed: it is kept for a waiting Col write, whose thread may issue it from the next cycle on (R29, R179): DESIGN CHOICE,
log entry 100. -/
def State.colAccept (s : State) (tower : Nat) : State :=
  match (s.tower tower).acceptable with
  | none => s
  | some w => s.modTower tower fun t => { t with waiting := t.waiting.map fun x => if x = w then { x with ok := true } else x }

/-- In each kerf a die that replays puts the two oldest writes of its catch-up buffer into its copy (R37). -/
def State.replayStep (s : State) (tower : Nat) : List Nat → State
  | [] => s
  | d :: r =>
    let t := s.tower tower
    let s :=
      if t.replay.getLsbD d then
        let q := Sparse.get [] t.catchup d
        ((q.take 2).foldl (fun s w => s.colWrite tower d w) s).modTower tower fun t =>
          { t with catchup := Sparse.put [] t.catchup d (q.drop 2) }
      else s
    s.replayStep tower r

/-- A kerf passes (R31): at kerf 0 the pending map writes are judged; the head of the owning pair's queue is broadcast. Before it is, every die
has taken the writes of kerfs up to 4 before it, so that no two differ by more than 4 kerfs (R32). -/
def State.kerfStep (s : State) (tower : Nat) : State :=
  let k := (s.tower tower).kerf
  let s := if k % 64 = 0 then s.modTower tower Tower.applyKmap else s
  let s := if 4 ≤ k then s.catchAll tower (k - 4) else s
  let t := s.tower tower
  let e := t.entry (k % 64)
  let s :=
    if kmapValid e then
      match t.queue (kmapPair e) with
      | [] => s
      | w :: r =>
        (s.modTower tower fun t => { t.setQueue (kmapPair e) r with order := t.order ++ [{ w with kerf := k }] }).charge w.part 15 1
    else s
  (s.replayStep tower (List.range 8)).modTower tower fun t => { t with kerf := k + 1 }

/-- A store to space 0x3 of the thread in the current slot, after its checks: it enters its queue, or waits for an entry (R28-R30). -/
def State.colStore (s : State) (t : Thread) (da n : Nat) (v : Vec) : Out :=
  let c := s.cur.core
  let tw := towerOf c
  let pair := colPair t.part c
  let y := s.tower tw
  let w : ColWrite := { id := s.fresh, part := t.part, layer := layerOf c % 8, tid := t.tid, off := da % 2 ^ 20, n := n, val := v, kerf := 0 }
  let s1 : State := { s.here Thread.noResv with fresh := s.fresh + 1 }
  let enters : Out := .retire ((s1.modTower tw fun y => y.setQueue pair (y.queue pair ++ [w])).dropColWait c t.tid)
  if !mapHolds y.kmap pair then .trap 5 (BitVec.ofNat 64 da) 0
  else
    match y.waiting.find? fun x => x.w.tid == t.tid with
    | some x => if x.ok then enters else .admission s
    | none =>
      if y.room pair ∧ !y.waiting.any (fun x => x.w.pair == pair) then enters
      else
        .admission (s1.modTower tw fun y =>
          { y with waiting := insertWait { core := c, slot := s.cur.slot, since := s.now, ok := false, w := w } y.waiting })

/-- Every Col write of a thread in this tower is applied at each awake die, and logged or made moot at each sleeping one (R34).
A write that an awake stale die discards (R38) is done with there: DEDUCED, log entry 66. -/
def Tower.colDone (t : Tower) (tid : Word) : Bool :=
  let mine (w : ColWrite) : Bool := w.tid == tid
  !(t.waiting.any fun w => mine w.w) && !(t.queues.any fun q => q.2.any mine)
    && !((t.order.zipIdx).any fun (w, i) => mine w && (List.range 9).any fun d => t.taken d ≤ i)
    && !((List.range 8).any fun d => t.replay.getLsbD d && (Sparse.get [] t.catchup d).any mine)

/-- The same in every tower: a thread may have moved since it wrote. -/
def State.colDone (s : State) (tid : Word) : Bool := s.towers.all fun e => e.2.colDone tid

/-! ### Sleep, wake and reload (R36-R40, R420) -/

/-- The lowest-numbered core of partition `p` on layer `l`. -/
def State.firstCoreOn (s : State) (p l : Nat) : Option Nat :=
  let x := s.part p
  if x.en then
    let lo := Nat.max x.base (1024 * l)
    if lo < Nat.min (x.base + x.len) (1024 * (l + 1)) then some lo else none
  else none

/-- Sends type 0x09 to each partition with cores on the die (R38, R40). -/
def State.staleMessages (s : State) (l : Nat) (g2 : Word) : List Nat → State
  | [] => s
  | p :: r =>
    (match s.firstCoreOn p l with
      | some c => s.postOwn p (.service (l / 8)) none c (.table 9 [BitVec.ofNat 64 l, g2] [])
      | none => s).staleMessages l g2 r

/-- The layer's cores may run: awake, and not replaying (R37). -/
def State.layerLive (s : State) (l : Nat) : Bool :=
  let t := s.tower (l / 8)
  t.awake.getLsbD (l % 8) && !t.replay.getLsbD (l % 8)

/-- The core may run and be reached: its layer is in service (R18, R19) and awake. -/
def State.coreLive (s : State) (c : Nat) : Bool := isChan c || (s.inService (layerOf c) && s.layerLive (layerOf c))

def homeLayer : Home → Option Nat
  | .spad c => some (layerOf c)
  | .edram l _ => some l
  | _ => none

/-- Something is addressed to a sleeping layer (R420): an entry that waits in a ready queue of it among them. A task-queue entry, which names no
core, and a gang that is being placed wake every layer with cores of their partition: DESIGN CHOICE, log entry 99. -/
def State.itemsFor (s : State) (l : Nat) : Bool :=
  s.net.msgs.any (fun m => m.away.isNone && !isChan m.target && layerOf m.target == l && m.permit)
    || s.net.homeQ.any (fun h => homeLayer h.home == some l && !h.src.isLoop)
    || s.auxs.any (fun a => a.2.slices.any fun x => !x.2.inbox.isEmpty && (s.sliceClusters a.1)[x.1]?.any fun cl => cl / 128 == l)
    || s.parts.any (fun p => (!p.2.tasks.isEmpty || p.2.gang.isSome) && (s.firstCoreOn p.1 l).isSome)
    || s.cores.any (fun e => !isChan e.1 && layerOf e.1 == l && !(e.2.ready ++ e.2.readyHo).isEmpty)

/-- The core through whose cluster a slice reaches memory. -/
def State.sliceCore (s : State) (p i : Nat) : Nat := 8 * (s.sliceClusters p).getD i 0

/-- The slice may begin a pass (R155, R159), where its layer is in service (R18): also on a layer that sleeps, DEDUCED, log entry 99. -/
def State.mayPass (s : State) (p i : Nat) : Bool :=
  let a := s.aux p
  let x := a.slice i
  a.run.st == .running && !a.park && x.fire.length < 16 && x.due && !x.logStop && i < s.sliceCount p && s.inService (layerOf (s.sliceCore p i))

/-- A pass of the slice is due, or waits for its log's records (R172). -/
def State.passing (s : State) (p i : Nat) : Bool := s.mayPass p i || s.net.tickets.any fun k => k.key == .log p i

/-- Everything on a layer is idle (R420): a slot that a gang holds counts as occupied, and a pass that is due as one in progress. -/
def State.layerIdle (s : State) (l : Nat) : Bool :=
  s.cores.all (fun e => isChan e.1 || layerOf e.1 != l
      || (e.2.slots.isEmpty && e.2.reserved.isEmpty && e.2.ready.isEmpty && e.2.readyHo.isEmpty && e.2.disp.isEmpty))
    && s.vmus.all (fun e => e.1 / 256 != l || e.2.running.isEmpty)
    && s.clusters.all (fun e => e.1 / 128 != l || (e.2.fifo.isEmpty && e.2.run.isNone))
    && s.auxs.all (fun a => a.2.slices.all fun x => (x.2.fire.isEmpty && !s.passing a.1 x.1) || !(s.sliceClusters a.1)[x.1]?.any fun cl => cl / 128 == l)
    && (s.tower (l / 8)).queues.all (fun q => q.1 % 8 != l % 8 || q.2.isEmpty)

/-- A frame boundary: kerf 0 is next (R24). -/
def Tower.atFrame (t : Tower) : Bool := t.kerf % 64 == 0

/-- A layer falls asleep (R420). What was transmitted before is applied, not logged (R36). A layer that still replays its catch-up buffer
does not: DESIGN CHOICE, log entry 99. -/
def State.sleepLayer (s : State) (l : Nat) : State :=
  let t := s.tower (l / 8)
  let i := l % 8
  if t.atFrame && t.sleep.getLsbD i && s.layerLive l && s.layerIdle l then
    (s.dieFlush (l / 8) i).modTower (l / 8) fun t => { t with awake := bclr t.awake i, logged := Sparse.put 0 t.logged i 0, catchup := Sparse.put [] t.catchup i [] }
  else s

/-- A sleeping layer wakes, and replays or reports itself stale (R37, R38). What was transmitted while it slept is logged first
(R36). -/
def State.wakeLayer (s : State) (l : Nat) : State :=
  let i := l % 8
  if (s.tower (l / 8)).atFrame && !(s.tower (l / 8)).awake.getLsbD i && (!(s.tower (l / 8)).sleep.getLsbD i || s.itemsFor l) then
    let s := s.dieFlush (l / 8) i
    let t := s.tower (l / 8)
    let s := s.modTower (l / 8) fun t => { t with awake := bset t.awake i, sleep := bclr t.sleep i }
    if t.stale.getLsbD i then s.staleMessages l 0 (List.range 64)
    else s.modTower (l / 8) fun t => { t with replay := bput t.replay i (!(Sparse.get [] t.catchup i).isEmpty) }
  else s

/-- Replay ends once the buffer is empty (R37). -/
def State.replayDone (s : State) (l : Nat) : State :=
  s.modTower (l / 8) fun t =>
    if (Sparse.get [] t.catchup (l % 8)).isEmpty then { t with replay := bclr t.replay (l % 8) } else t

/-- A write to COLRLD (R40). A layer whose reload is under way goes on with it: DEDUCED, log entry 67. -/
def Tower.startReload (t : Tower) (v : Word) : Tower :=
  let go := v.setWidth 8 &&& t.stale &&& t.awake &&& ~~~t.reload
  { t with reload := t.reload ||| go, fresh := t.fresh.filter fun e => !go.getLsbD e.1 }

/-- The bytes of the Carcass copy, as listed. -/
def State.carcass (s : State) (tower : Nat) : List (Nat × Byte) :=
  (s.mem.filter fun e => colLoc tower 8 0 ≤ e.1 && e.1 < colLoc tower 9 0).map fun e => (e.1 - colLoc tower 8 0, e.2)

/-- A reload completes (R40): every line that is not fresh holds the Carcass copy's, which has every write that was transmitted before. -/
def State.reloadDone (s : State) (l : Nat) : State :=
  let tw := l / 8
  let i := l % 8
  let s := if (s.tower tw).reload.getLsbD i then (s.dieFlush tw 8).dieFlush tw i else s
  let t := s.tower tw
  if t.reload.getLsbD i then
    let fresh := Sparse.get [] t.fresh i
    let base := colLoc tw i 0
    let kept := s.mem.filter fun e => e.1 < base || colLoc tw (i + 1) 0 ≤ e.1 || fresh.contains ((e.1 - base) / 64)
    let m := ((s.carcass tw).filter fun e => !fresh.contains (e.1 / 64)).foldl (fun m e => Sparse.put 0 m (base + e.1) e.2) kept
    let s := { s with mem := m }.modTower tw fun t =>
      { t with stale := bclr t.stale i, reload := bclr t.reload i, fresh := Sparse.put [] t.fresh i [] }
    s.staleMessages l 1 (List.range 64)
  else s

def Tower.colstat (t : Tower) : Word :=
  BitVec.ofNat 64 (t.awake.toNat + 2 ^ 8 * t.stale.toNat + 2 ^ 16 * t.reload.toNat + if t.kbusy then 2 ^ 24 else 0)

/-! ### Events -/

def execKmapWrite (s : State) : Result :=
  given s .kmapWrite fun s => s.modTower s.env.unit fun t => t.writeKmap s.env.sub s.env.val
def execKmapApply (s : State) : Result :=
  given s .kmapApply fun s => s.modTower s.env.unit fun t => if t.atFrame then t.applyKmap else t
def execColWriteAccept (s : State) : Result := given s .colWriteAccept fun s => s.colAccept s.env.unit
def execKerfTransmit (s : State) : Result := given s .kerfTransmit fun s => s.kerfStep s.env.unit
def execColApply (s : State) : Result := given s .colApply fun s => s.dieTakes s.env.unit s.env.sub
def execLsleepSleep (s : State) : Result :=
  given s .lsleepSleep fun s => s.modTower s.env.unit fun t => { t with sleep := t.sleep ||| s.env.val.setWidth 8 }
def execLsleepWake (s : State) : Result :=
  given s .lsleepWake fun s => s.modTower s.env.unit fun t => { t with sleep := t.sleep &&& ~~~s.env.val.setWidth 8 }
def execLayerSleep (s : State) : Result := given s .layerSleep fun s => s.sleepLayer s.env.unit
def execLayerWake (s : State) : Result := given s .layerWake fun s => s.wakeLayer s.env.unit
def execColReplayDone (s : State) : Result := given s .colReplayDone fun s => s.replayDone s.env.unit
def execColrldWrite (s : State) : Result :=
  given s .colrldWrite fun s => s.modTower s.env.unit fun t => t.startReload s.env.val
def execColReloadDone (s : State) : Result := given s .colReloadDone fun s => s.reloadDone s.env.unit

end Sys2Proof.Machine
end

