-- ==== Sys2Proof/Machine/Byand.lean ====
section
/-! DEFINITION. Byand and time (R62-R75, R216, R418): admission of packets, combining at switch outputs, links, beacons and the
pulse of the translation units. -/

namespace Sys2Proof.Machine

/-- FLIT_RETRANSMIT (R64). -/
def execFlitRetransmit (s : State) : Result :=
  given s .flitRetransmit fun s => s.modPort s.env.unit fun x => { x with retry := satInc x.retry }

/-! ### Admission (R71) -/

/-- A local physical address lies in an enabled import window of `p`. -/
def PartAux.imports (a : PartAux) (addr : Nat) : Bool :=
  (List.range 4).any fun w =>
    let e := Sparse.get 0 a.bywin w
    let base := bitsOf e 41 16 * 2 ^ 16
    e.getLsbD 0 && base ≤ addr && addr < base + bitsOf e 63 42 * 2 ^ 16

/-- The partition that admits a packet. Of several whose windows hold its address the lowest-numbered admits it, an N-form is admitted by
the windows of its word, and a partition admits nothing while it is not enabled: DESIGN CHOICE, log entries 72 to 74. -/
def State.admits (s : State) (k : ByPacket) : Option Nat :=
  if !s.by_.set then none
  else
    (List.range 64).find? fun p =>
      let a := s.aux p
      a.bypart.getLsbD 16 && a.bypart.setWidth 16 == k.dom && (s.part p).en
        && (match k.body with
          | .mem addr op => a.imports addr && (isHbm addr || isSram addr) && !opLrSc op && (!opUpd op || isHbm addr)
          | .msg c .. | .fill c .. => if isChan c then false else (s.part p).owns c)

/-- A reply, refusal or acknowledgement goes back. -/
def State.replyOut (s : State) (m : BitVec 22) (st : Status) (v : Vec) : State :=
  s.modByand fun b => { b with sentOut := b.sentOut ++ [(m.toNat, st, v)] }

/-- A refused packet is answered BYREFUSE and counts in REFUSE (R71, R75); one packet counts once, however many requests combined in it:
DEDUCED, log entry 95. -/
def State.refusePacket (s : State) (port : Nat) (k : ByPacket) : State :=
  (s.replyOut k.src .byrefuse 0).modPort port fun x => { x with refuse := satInc x.refuse }

/-- Notes what the next identity stands for: a packet of another module, whose reply carries `n` bytes. -/
def State.noteInside (s : State) (k : ByPacket) (p n : Nat) : State :=
  s.modByand fun b => { b with inside := b.inside ++ [{ id := s.fresh, src := k.src.toNat, part := p, bytes := n }] }

/-- An admitted packet goes on as the partition's own traffic, with its expiry and its mark (R71, R72, R214). -/
def State.admitPacket (s : State) (port p : Nat) (k : ByPacket) : State :=
  match k.body with
  | .mem addr op =>
    let s := s.charge p 14 (opBytes op * (k.extra + 1))
    match op, homeOf addr with
    | .upd o w v, some (.hbm ch) => (s.noteInside k p 0).postOwn p (.byand port) none (chanCore ch) (.update addr o w v k.expiry 0)
    | _, some h =>
      let hdr : Header := { id := s.fresh, part := p, op := op, loc := addr, home := h, dest := 0, expiry := k.expiry,
                            uncmb := (s.part p).cmboff || k.noCombine, mems := [s.fresh], extra := k.extra, src := .cluster }
      let s := s.noteInside k p (opReplies op * (k.extra + 1))
      ({ s with fresh := s.fresh + 1 } : State).enterNet hdr (xbarHops (port / 16) (4208 + port % 16) h addr)
    | _, none => s
  | .msg c ty g v => ((s.charge p 14 (MsgBody.table ty g v).bytes).noteInside k p 0).postOwn p (.byand port) none c (.table ty g v)
  | .fill c slot tid kind reg val =>
    ((s.charge p 14 (MsgBody.fill slot tid kind reg val).bytes).noteInside k p 0).postOwn p (.byand port) none c (.fill slot tid kind reg val)

/-- BYAND_INGRESS: the ingress refuses, rejects an expired lease, or admits (R71, R214); that what is not admitted is refused, its lease
expired or not, is a DESIGN CHOICE, log entry 121. -/
def execByandIngress (s : State) : Result :=
  given s .byandIngress fun s =>
    let k := s.env.pkt
    match s.admits k with
    | none => s.refusePacket s.env.unit k
    | some p =>
      if k.expiry.any (· ≤ s.md.ltc.toNat) then s.replyOut k.src .expired 0 else s.admitPacket s.env.unit p k

/-- The reply of an admitted request goes back to its module, its payload counted (R94). -/
def State.insideReply (s : State) (id : Nat) : State :=
  match s.net.replies.find? (·.id == id) with
  | some r =>
    if s.by_.inside.any (·.id == id) then
      (s.modNet fun n => { n with replies := n.replies.filter (·.id != id) }).answerInside id r.status r.val
    else s
  | none => s

/-! ### Byand switches (R72) -/

def mayCombineBy (x y : ByHeader) : Bool :=
  x.dom == y.dom && x.dest == y.dest && x.addr == y.addr && x.op == y.op && x.width == y.width && !x.noCombine && !y.noCombine

/-- A header that came in cycle `at_` joins an output: it combines with the oldest queued request that it may join while one of the output's
32 entries is free, or is queued. -/
def State.bySwitchIn (s : State) (out at_ : Nat) (h : ByHeader) : State :=
  let q := Sparse.get [] s.by_.queues out
  let used := (s.by_.waits.filter fun w => w.1 == out).length
  let queue := s.modByand fun b => { b with queues := Sparse.put [] b.queues out (q ++ [(at_, h)]) }
  match q.find? fun x => mayCombineBy x.2 h with
  | some x =>
    if used < 32 then
      let y := { x.2 with value := amoApply x.2.op x.2.width x.2.value h.value, request := s.fresh, count := x.2.count + h.count }
      { s with fresh := s.fresh + 1
               by_ := { s.by_ with queues := Sparse.put [] s.by_.queues out (q.map fun z => if z = x then (x.1, y) else z),
                                   waits := s.by_.waits ++ [(out, y.request, x.2, h)] } }
    else queue
  | none => queue

/-- Headers that come in one cycle stand in the order of their ingress ports (R72). -/
def insertHeader (h : ByHeader) : List ByHeader → List ByHeader
  | [] => [h]
  | x :: r => if h.ingress < x.ingress then h :: x :: r else x :: insertHeader h r

/-- What came to an output: in which cycle, and the headers. -/
def State.byArrived (s : State) (out : Nat) : Nat × List ByHeader := Sparse.get (0, []) s.by_.arrived out

/-- The headers that came in an earlier cycle join the output, once all that came with them are known. -/
def State.bySwitchSettle (s : State) (out : Nat) : State :=
  let a := s.byArrived out
  if a.1 = s.now then s
  else a.2.foldl (fun s h => s.bySwitchIn out a.1 h) (s.modByand fun b => { b with arrived := Sparse.put (0, []) b.arrived out (0, []) })

/-- A header comes to an output in this cycle. -/
def State.bySwitchCome (s : State) (out : Nat) (h : ByHeader) : State :=
  let l := if (s.byArrived out).1 = s.now then (s.byArrived out).2 else []
  s.modByand fun b => { b with arrived := Sparse.put (0, []) b.arrived out (s.now, insertHeader h l) }

/-- The head of an output passes on (R72). -/
def State.bySwitchOut (s : State) (out : Nat) : State :=
  match Sparse.get [] s.by_.queues out with
  | x :: r => s.modByand fun b => { b with queues := Sparse.put [] b.queues out r, passed := b.passed ++ [(out, x.2)] }
  | [] => s

/-- BYAND_SWITCH_HEADER: a header comes to a switch output; or (with `write`) the output passes its head on. -/
def execByandSwitchHeader (s : State) : Result :=
  let out := s.env.unit
  let s1 := s.bySwitchSettle out
  .next (if s.env.write then s1.bySwitchOut out else s1.bySwitchCome out s.env.hdr)

/-- A combined reply reaches its entry of a Byand switch: V to the first, and the rest to the second (R53, R72). -/
def State.bySplit (s : State) (request : Nat) (r : RemoteReply) : State :=
  match s.by_.waits.find? (·.2.1 == request) with
  | some w =>
    let v := (r.value.setWidth 64 : Word)
    s.modByand fun b => { b with
      waits := b.waits.filter (·.2.1 != request)
      split := b.split ++ [(w.2.2.1.request, r.status, r.value),
                           (w.2.2.2.request, r.status, (splitSecond w.2.2.1.op w.2.2.1.width v w.2.2.1.value).setWidth 512)] }
  | none => s

/-- BYAND_TIMEOUT (R74). -/
def execByandTimeout (s : State) : Result := .next (s.byandLost s.env.unit)

/-! ### Links (R75) -/

/-- The packets that left on a link are lost with it: no reply comes, and they end at their timeout. -/
def State.loseSent (s : State) (q : Nat) : State :=
  let s := s.modByand fun b => { b with out := b.out.map fun o => if o.port = q then { o with lost := true } else o }
  s.modNet fun n => { n with msgs := n.msgs.map fun m => if m.away.any (fun w => w.1 == q && w.2.2.isSome) then { m with lost := true } else m }

def execLinkDown (s : State) : Result :=
  given s .linkDown fun s =>
    if (s.port s.env.unit).up then ((s.modPort s.env.unit fun x => { x with up := false }).loseSent s.env.unit).irqModule else s

def execLinkReturn (s : State) : Result := given s .linkReturn fun s => s.modPort s.env.unit fun x => { x with up := true }

/-- The first write of BYID sets MOD and SET (R67). -/
def State.writeByid (s : State) (v : Word) : State :=
  if s.by_.set then s else s.modByand fun b => { b with mod_ := v.setWidth 22, set := true }

def execByidWrite (s : State) : Result := .next (s.writeByid s.env.val)

/-! ### Time (R73, R216, R418) -/

/-- A time beacon: `d` is the master's LTC less this module's, in ns. Within bound the LTC is steered, forward at once or by
holding it still (its pace: DESIGN CHOICE, log entry 90). Beyond the bound SKEW sets, and a module that is behind steps forward to the
master's time: at its first beacon by R418, and at a later one by DESIGN CHOICE, log entry 90. -/
def State.beacon (s : State) (d : Int) : State :=
  if s.by_.isMaster then s
  else
    let s := s.modByand fun b => { b with beacons := b.beacons + 1, missed := 0 }
    let ahead := d < 0
    let step : State → State := fun s =>
      if ahead then s.modMod fun m => { m with hold := d.natAbs } else s.modMod fun m => { m with ltc := m.ltc + BitVec.ofNat 64 d.natAbs, hold := 0 }
    if d.natAbs ≤ 128 then
      (step s).modByand fun b =>
        if b.skew then (if b.goodBeacons ≥ 1 then { b with skew := false, goodBeacons := 0 } else { b with goodBeacons := b.goodBeacons + 1 })
        else b
    else (step s).modByand fun b => { b with skew := true, goodBeacons := 0 }

def execTimeBeacon (s : State) : Result := .next (s.beacon s.env.offset)

/-- BEACON_SEND: only the time master sends. -/
def execBeaconSend (s : State) : Result :=
  .next (if s.by_.isMaster then s.modByand fun b => { b with beacons := b.beacons + 1 } else s)

/-- The module counts microseconds without a beacon, once it has its number: DESIGN CHOICE, log entry 75. -/
def Byand.counts (b : Byand) : Bool := b.set && !b.isMaster

/-- BEACON_LOSS: 64 µs without a beacon set SKEW on a module that is not the master. -/
def execBeaconLoss (s : State) : Result :=
  .next (if s.by_.counts && s.by_.missed ≥ 64 then s.modByand fun b => { b with skew := true, goodBeacons := 0, missed := 0 } else s)

/-- Every lease of a layer's translation unit counts as expired: both buffers empty, with their hotness adds (R216, R218). -/
def State.expireLeases (s : State) (l : Nat) : State :=
  let held := (s.layer l).llt
  let s := s.modLayer l fun y => { y with llt := [] }
  let s := held.foldl (fun s x => s.flushHot x) s
  { s with clusters := s.clusters.filterMap fun e =>
      if e.1 / 128 = l then
        let c := { e.2 with tlb := [] }
        if c = Cluster.reset then none else some (e.1, c)
      else some e }

/-- TRANSLATION_PULSE (R216): `offset` is the copy's difference from the reference in ns. -/
def execTranslationPulse (s : State) : Result :=
  given s .translationPulse fun s =>
    let l := s.env.unit
    if s.env.offset.natAbs > 16 ∨ s.by_.skew then
      let s := (s.expireLeases l).modLayer l fun y => { y with skewed := 2 }
      (s.modMod fun m => { m with tstat := bset m.tstat l }).irqModule
    else s.modLayer l fun y => { y with skewed := y.skewed - 1 }

/-- HOTNESS_FLUSH (R218): an entry whose lease has expired adds its counter and is dropped. -/
def execHotnessFlush (s : State) : Result :=
  given s .hotnessFlush fun s =>
    let l := s.env.unit
    match (s.layer l).llt[s.env.sub]? with
    | none => s
    | some x =>
      if x.expiry ≤ s.md.ltc.toNat then (s.modLayer l fun y => { y with llt := y.llt.eraseIdx s.env.sub }).flushHot x else s

/-! ### Registers -/

def Byand.bytime (b : Byand) : Word :=
  BitVec.ofNat 64 (b.master.toNat + (if b.isMaster then 2 ^ 22 else 0) + if b.skew then 2 ^ 23 else 0)

def Byand.byid (b : Byand) : Word := BitVec.ofNat 64 (b.mod_.toNat + if b.set then 2 ^ 22 else 0)

/-- BYSTAT(q) as read (R75). -/
def State.bystat (s : State) (q : Nat) : Word :=
  let x := s.port q
  BitVec.ofNat 64 ((if x.up then 0 else 1) + (if q = 0 then 2 * s.by_.tmo.toNat else 0) + 2 ^ 8 * x.retry.toNat + 2 ^ 24 * x.refuse.toNat
    + 2 ^ 40 * x.lost.toNat)

def State.writeBystat (s : State) (q : Nat) (v : Word) : State :=
  let s := if q = 0 then s.modByand fun b => { b with tmo := (v >>> 1).setWidth 4 } else s
  s.modPort q fun x => { x with retry := x.retry &&& ~~~(v >>> 8).setWidth 16, refuse := x.refuse &&& ~~~(v >>> 24).setWidth 16,
                                lost := x.lost &&& ~~~(v >>> 40).setWidth 16 }

/-! ### Network events -/

/-- SWITCH_HEADER_ARRIVAL: one network cycle of one switch (R49, R51, R52). -/
def execSwitchHeaderArrival (s : State) : Result :=
  given s .switchHeaderArrival fun s => s.switchCycle s.env.unit s.env.sub s.env.third

/-- REPLY_SPLIT (R53): the entry's combined reply splits; with `write`, an entry of a Byand switch (R72). -/
def execReplySplit (s : State) : Result :=
  .next (if s.env.write then s.bySplit s.env.unit s.env.remote
    else match s.net.waits.find? (·.id == s.env.unit) with
      | some e => s.splitReply e
      | none => s)

/-- A layer whose home is asleep serves nothing (R420). A scratchpad or eDRAM group of a layer that is not yet in service is served:
DEDUCED, log entry 76. -/
def State.homeLive (s : State) (h : Home) : Bool := (homeLayer h).all s.layerLive

/-- HOME_QUEUE_PERFORM (R226). -/
def execHomeQueuePerform (s : State) : Result :=
  .next (if s.homeLive s.env.home then s.homePerform s.env.home s.env.bad else s)

/-- ACCESS_REPLY (R50, R225): to a requester of this module, or back through Byand. -/
def execAccessReply (s : State) : Result := .next ((s.accessReply s.env.unit s.env.remote).insideReply s.env.unit)

/-- A near-buffer entry in the loop-back port, on its way to the banks with the global accesses that have arrived (R223). -/
def NearEntry.header (e : NearEntry) (c p : Nat) : Header :=
  { id := e.id, part := p, op := .write e.n e.val, loc := spadLoc c e.off, home := .spad c, dest := 0, expiry := none, uncmb := true,
    mems := [], extra := 0, src := .loop e.acc e.tid }

/-- NEAR_BUFFER_DRAIN (R227): the oldest entry enters the loop-back port; accesses that wait for room go on. -/
def State.drainNear (s : State) (c : Nat) : State :=
  match (s.core c).near with
  | [] => s
  | e :: r =>
    let s := s.modCore c fun k => { k with near := r }
    let s := s.modNet fun n => { n with homeQ := n.homeQ ++ [e.header c ((s.partOf c).getD 0)] }
    (s.net.accs.filter fun a => a.core == c && a.held.isNone && a.pieces.any fun x => x.st == .todo && x.isLocal).foldl
      (fun s a => s.advanceAcc a.id) s

def execNearBufferDrain (s : State) : Result := given s .nearBufferDrain fun s => s.drainNear s.env.unit

/-- EDRAM_REFRESH_WINDOW (R208). -/
def execEdramRefreshWindow (s : State) : Result :=
  given s .edramRefreshWindow fun s =>
    let l := s.env.unit
    if s.md.edRdy ∧ (s.layer l).winEnd ≤ s.now then
      s.modLayer l fun y => { y with group := (y.group + 1) % 64, winEnd := s.now + 1024 }
    else s

/-- RESERVATION_EXPIRY (R235): 1,024 cycles after the LR. -/
def execReservationExpiry (s : State) : Result :=
  given s .reservationExpiry fun s =>
    s.modThread s.env.unit s.env.sub fun t =>
      match t.resv with
      | some (_, at_) => if at_ + 1024 ≤ s.now then { t with resv := none } else t
      | none => t

/-- FAULT_RECORD_ENQUEUE (R220): a fault that waits at a full queue enqueues. -/
def execFaultRecordEnqueue (s : State) : Result :=
  given s .faultRecordEnqueue fun s =>
    match (s.aux s.env.unit).fqWait with
    | [] => s
    | r :: rest => if (s.aux s.env.unit).fq.length < 64 then (s.modAux s.env.unit fun a => { a with fqWait := rest }).pageFault s.env.unit r else s

end Sys2Proof.Machine
end

