-- ==== Sys2Proof/Machine/Bringup.lean ====
section
/-! DEFINITION. Module reset, bring-up and full service (R17-R22), attestation (R80, R81, R97), and the host's requests (R76-R78). -/

namespace Sys2Proof.Machine

/-- MSTAT (R21). -/
def Mod.mstat (m : Mod) : Word :=
  BitVec.ofNat 64 (m.layerUp.toNat + (if m.hbmRdy then 2 ^ 32 else 0) + (if m.edRdy then 2 ^ 33 else 0) + (if m.colRdy then 2 ^ 34 else 0)
    + (if m.narrow then 2 ^ 35 else 0) + (if m.full then 2 ^ 36 else 0) + if m.fail then 2 ^ 37 else 0)

/-- Changes the module's state, and raises the module interrupt if MSTAT changes (R22). -/
def State.setStat (s : State) (f : Mod → Mod) : State :=
  let s' := s.modMod f
  if s'.md.mstat = s.md.mstat then s' else s'.irqModule

/-- MODULE_RESET (R17, R418): the state after reset, with a new system key (R91). What the environment and the model number
stays. No byte of HBM5 is left standing: DESIGN CHOICE, log entry 84. -/
def execModuleReset (s : State) : Result :=
  .next { State.reset with
    md := { Mod.reset with sysKey := s.md.keys, keys := s.md.keys + 1 }, env := s.env, cur := { s.cur with used := false }, agenda := s.agenda,
    fresh := s.fresh, drawn := s.drawn }

/-- FIRMWARE_IMAGE_LOAD: the boot ROM takes one image and records its digest (R17, R81). -/
def execFirmwareImageLoad (s : State) : Result :=
  .next (if s.md.image.isSome then s else s.modMod fun m => { m with image := some s.env.bytes, digest := Config.sha384 s.env.bytes })

/-- LAYER_JOIN (R20): none joins after a failed self-test. -/
def execLayerJoin (s : State) : Result :=
  given s .layerJoin fun s => if s.md.fail then s else s.setStat fun m => { m with layerUp := bset m.layerUp s.env.unit }

def execSelfTestFail (s : State) : Result := .next (if s.md.full then s else s.setStat fun m => { m with fail := true })

def execHbm5TrainingDone (s : State) : Result := .next (s.setStat fun m => { m with hbmRdy := true })

/-- EDRAM_CALIBRATION_DONE (R21, R208): every layer's first refresh window begins. -/
def execEdramCalibrationDone (s : State) : Result :=
  .next (if s.md.edRdy then s
    else ((List.range 32).foldl (fun s l => s.modLayer l fun y => { y with group := 0, winEnd := s.now + 1024 }) s).setStat
      fun m => { m with edRdy := true })

def execColReady (s : State) : Result := .next (s.setStat fun m => { m with colRdy := true })

/-- Type 0x05 messages to the cores of T0 L0 that belong to a partition (R22). -/
def State.timerMessages (s : State) (w : Word) : List Nat → State
  | [] => s
  | c :: r =>
    (match s.partOf c with
      | some p => s.postOwn p (.service 0) none c (.table 5 [w] [])
      | none => s).timerMessages w r

/-- FULL_SERVICE (R20-R22). -/
def execFullService (s : State) : Result :=
  .next (
    let m := s.md
    if m.full || m.fail || m.layerUp != BitVec.allOnes 32 || !m.hbmRdy || !m.edRdy || !m.colRdy then s
    else
      let s := s.setStat fun m => { m with full := true, narrow := true }
      s.timerMessages s.md.mstat (List.range 1024))

/-! ### Snapshots (R97) -/

/-- The 152 bytes of a snapshot, from its sequence number on. -/
def snapBytes (p : Nat) (epoch : BitVec 16) (ltc : Word) (seq : Nat) (m : Sparse Word) : List Byte :=
  leBytes 2 p ++ bytesOf 2 epoch ++ leBytes 4 0 ++ bytesOf 8 ltc ++ leBytes 8 seq
    ++ (List.range 16).flatMap fun i => bytesOf 8 (Sparse.get 0 m i)

/-- A snapshot of a partition: counted, and of a torn-down one its closing snapshot with a fresh sequence number. -/
def State.snapshot (s : State) (p : Nat) : List Byte × State :=
  let x := s.part p
  let seq := x.snaps + 1
  let bs := match x.closing with
    | some c => c.take 16 ++ leBytes 8 seq ++ c.drop 24
    | none => snapBytes p x.epoch s.md.ltc seq x.meters
  (bs, s.modPart p fun x => { x with snaps := seq })

/-- PART(p) as read (R86). -/
def Part.word (x : Part) : Word :=
  BitVec.ofNat 64 (x.base + 2 ^ 16 * x.len + (if x.en then 2 ^ 32 else 0) + (if x.det then 2 ^ 33 else 0) + (if x.hostirq then 2 ^ 34 else 0)
    + (if x.key.isSome then 2 ^ 35 else 0) + 2 ^ 48 * x.epoch.toNat)

/-! ### SPDM (R80, R81) -/

def State.answerSpdm (s : State) (r : Spdm) : State := { s with ext := .spdm r }

def execGetVersion (s : State) : Result := .next (s.answerSpdm (.version 0x13))
def execGetCapabilities (s : State) : Result := .next (s.answerSpdm (.capabilities true true true))
def execNegotiateAlgorithms (s : State) : Result := .next (s.answerSpdm (.algorithms true true true))
def execGetDigests (s : State) : Result := .next (s.answerSpdm (.digests (Config.sha384 Config.certificateChain)))
def execGetCertificate (s : State) : Result := .next (s.answerSpdm (.certificate Config.certificateChain))
def execSpdmUnsupported (s : State) : Result := .next (s.answerSpdm .unsupportedRequest)

/-- A free nonce and signature of the responder. -/
def execChallenge (s : State) : Result :=
  .next (
    let (n, s) := s.drawFree
    s.answerSpdm (.challengeAuth (Config.nonce n) (Config.signature n (bytesOf 32 s.env.nonce))))

/-- One measurement block (R81). An index that the table does not list has none: DESIGN CHOICE, log entry 108. -/
def State.block (s : State) (i : Nat) : List (Nat × List Byte) × State :=
  if i = 1 then ([(1, bytesOf 48 s.md.digest)], s)
  else if i = 2 then ([(2, bytesOf 48 (Config.sha384 ((List.range 64).flatMap fun p => bytesOf 8 (s.part p).word)))], s)
  else if i = 3 then ([(3, bytesOf 4 Config.bootRomVersion)], s)
  else if 0x10 ≤ i ∧ i < 0x50 then let (b, s) := s.snapshot (i - 0x10); ([(i, b)], s)
  else ([], s)

def State.blocks (s : State) : List Nat → List (Nat × List Byte) × State
  | [] => ([], s)
  | i :: r =>
    let (b, s) := s.block i
    let (bs, s) := s.blocks r
    (b ++ bs, s)

/-- GET_MEASUREMENTS: block `unit`, or all of them (0xFF) sampled in one cycle; the signature covers the requester's nonce. -/
def execGetMeasurements (s : State) : Result :=
  .next (
    let ids := if s.env.unit = 0xFF then [1, 2, 3] ++ (List.range 64).map (· + 0x10) else [s.env.unit]
    let (bs, s) := s.blocks ids
    let (n, s) := s.drawFree
    s.answerSpdm (.measurements bs (Config.nonce n)
      (Config.signature n (bytesOf 32 s.env.nonce ++ bs.flatMap fun b => leBytes 1 b.1 ++ b.2))))

/-! ### Host requests (R76-R78) -/

def execHostUnsupportedRequest (s : State) : Result := .next { s with ext := .unsupported }

/-- CONFIGURATION_WRITE: Bus Master Enable (R78). -/
def execConfigurationWrite (s : State) : Result := .next (s.modMod fun m => { m with bme := s.env.write })

/-- APERTURE_ACCESS (R76, R77): local physical memory at APBASE plus the offset, entered by the PCIe function at port 4,416 of the crossbar of
T0 (R410), as one request to the home of its first byte. What would reach host memory or nothing is answered as an Unsupported Request, and a
request of more than 64 bytes comes as requests for its parts: DESIGN CHOICE, log entry 96. A store of more than 8 bytes brings them in `bytes`. -/
def execApertureAccess (s : State) : Result :=
  given s .apertureAccess fun s =>
    let o := s.env.addr.toNat
    let a := s.md.apbase.toNat + o
    let n := s.env.size
    match homeOf a with
    | some h =>
      if o + n > 2 ^ 32 ∨ !(isHbm a || isSram a) ∨ !(isHbm (a + n - 1) || isSram (a + n - 1)) then { s with ext := .unsupported }
      else
        let v : Vec := if n ≤ 8 then s.env.val.setWidth 512 else BitVec.ofNat 512 (leNat (s.env.bytes.take n))
        let hdr : Header := { id := s.fresh, part := 0, op := if s.env.write then .write n v else .read n, loc := a, home := h,
                              dest := 0, expiry := none, uncmb := true, mems := [], extra := 0, src := .aperture }
        ({ s with fresh := s.fresh + 1 } : State).enterNet hdr (xbarHops 0 4416 h a)
    | none => { s with ext := .unsupported }

/-- `core` register of a core (R9). -/
def coreReg (c : Nat) : Word :=
  if isChan c then BitVec.ofNat 64 (portOf c + 2 ^ 13 * towerOf c + 2 ^ 25)
  else
    let (row, col) := meshOf (c % 1024)
    BitVec.ofNat 64 (c + 2 ^ 15 * col + 2 ^ 20 * row)

/-- `rfwin` of a core (R208): with the cycle in which a window ends begins the next group's. -/
def State.rfwin (s : State) (c : Nat) : Word :=
  if isChan c ∨ !s.md.edRdy then 0
  else
    let y := s.layer (layerOf c)
    if y.winEnd ≤ s.now then BitVec.ofNat 64 ((y.group + 1) % 64 + 2 ^ 6 * 1023 + 2 ^ 16)
    else BitVec.ofNat 64 (y.group + 2 ^ 6 * (y.winEnd - s.now - 1) + 2 ^ 16)

end Sys2Proof.Machine
end

