-- ==== Sys2Proof/Machine/Threads.lean ====
section
/-! DEFINITION. What a release waits for (R230, R233), reads and writes that an engine or a header read makes at once, kernel
headers (R109), and how a thread starts, takes its place on a core and ends (R116, R127, R183, R372). -/

namespace Sys2Proof.Machine

/-! ### Releases (R230, R233) -/

/-- The youngest entry of a core's near buffer, or of its loop-back port, that is not yet written. -/
def State.nearLast (s : State) (c : Nat) : Option Nat :=
  ((((s.core c).near.getLast?).map (·.id)).or (((s.looped c).getLast?).map (·.id)))

/-- What `fence.sys` would wait for now: the thread's unperformed accesses and N-forms, its messages, and the near buffer. -/
def State.releaseOf (s : State) (c : Nat) (tid : Word) : Release :=
  { accs := (s.net.accs.filter fun a => a.tid == tid && a.kind != .copyRead && a.kind != .copyWrite && !a.performed).map (·.id),
    msgs := (s.net.msgs.filter fun m => m.from_ == some tid).map (·.id), core := c, near := s.nearLast c }

/-- Near-buffer entries of a core up to the entry `k` have been written to the banks (R233). -/
def State.written (s : State) (c k : Nat) : Bool := (s.core c).near.all (k < ·.id) && (s.looped c).all (k < ·.id)

/-- An entry of a core's near buffer, or of its loop-back port, comes from an access and a thread of which `f` holds. -/
def State.nearHas (s : State) (c : Nat) (f : Nat → Word → Bool) : Bool :=
  ((s.core c).near.any fun e => f e.acc e.tid) || (s.looped c).any fun h => match h.src with
    | .loop acc tid => f acc tid
    | _ => false

/-- The conditions hold: the accesses are performed, and what they brought to the near buffer is in the banks with what stood there before. -/
def State.released (s : State) (r : Release) : Bool :=
  (r.accs.all fun id => match s.acc id with
    | some a => a.performed
    | none => true)
  && r.msgs.all (fun id => !s.net.msgs.any (·.id == id))
  && r.near.all (s.written r.core) && !s.nearHas r.core fun acc _ => r.accs.contains acc

def Release.idle (r : Release) : Bool := r.accs.isEmpty && r.msgs.isEmpty && r.near.isNone

/-- A message whose conditions hold begins to wait for its permit (R47). -/
def State.freeMsg (s : State) (m : Msg) : State :=
  match m.rel with
  | some r =>
    if s.released r then
      let s := s.modNet fun n => { n with msgs := n.msgs.map fun x => if x.id = m.id then { x with rel := none, asked := s.now } else x }
      match m.via with
      | some cl => s.grantPermits cl m.slice
      | none => s
    else s
  | none =>
    match m.via with
    | some cl => if m.permit then s else s.grantPermits cl m.slice
    | none => s

/-- Lets every message go whose conditions hold, and one of the hardware take its permit (R47). -/
def State.freeMsgs (s : State) : State := s.net.msgs.foldl State.freeMsg s

/-- Sends a message of the thread `tid` on core `c`, as a release (R230). -/
def State.sendFrom (s : State) (p : Nat) (tid : Word) (c target : Nat) (away : Option (Nat × BitVec 22 × Option Nat)) (body : MsgBody) :
    State :=
  let r := s.releaseOf c tid
  s.postTo p (some tid) c s.cur.slot .core target away (if r.idle then none else some r) body

/-- A request or message of the thread waits in its cluster's port for a permit (R47), or its EPUSH for an entry of the launch queue (R105):
either keeps the thread out of the rotation. -/
def State.portHeld (s : State) (tid : Word) : Bool :=
  (s.net.port.any fun h => s.net.reqs.any fun r => r.id == h.id && s.net.accs.any fun a =>
    a.id == r.acc && a.tid == tid && a.kind != .copyRead && a.kind != .copyWrite)
  || (s.net.msgs.any fun m => m.from_ == some tid && m.via.isSome && !m.permit && m.rel.isNone)
  || s.parts.any fun e => e.2.lqIn.any (·.tid == tid)

/-! ### Reads and writes made at once -/

/-- What an access made at once gives. -/
inductive Direct where
  | ok (bs : List Byte)
  | page (da : Nat) (malformed : Bool)
  | fail (da : Nat) (st : Status)
  deriving DecidableEq, Repr

/-- The bytes `da` to `da + n − 1` cut at multiples of `size`. -/
def cutAt (size : Nat) : Nat → Nat → Nat → List (Nat × Nat)
  | 0, _, _ => []
  | fuel + 1, da, n =>
    if n = 0 then []
    else
      let k := Nat.min n (size - da % size)
      (da, k) :: cutAt size fuel (da + k) (n - k)

/-- Cut at pages. -/
def pagePieces (fuel da n : Nat) : List (Nat × Nat) := cutAt 4096 fuel da n

/-- A page of these bytes names another module: the read goes over Byand (R65, R211). -/
def State.isFar (s : State) (c p da n : Nat) : Bool :=
  match (s.resolve c p .read (.read n) da).1 with
  | .at_ t => isEgress t.home
  | _ => false

/-- The read of another module's bytes that has been sent for an errand. -/
def State.farOf (s : State) (key : Errand) (da : Nat) : Option Access :=
  s.net.accs.find? fun a => a.cont == .errand key && a.pieces.any (·.da == da)

/-- Its reply is back. -/
def Access.back (a : Access) : Bool := a.pieces.all fun x => x.st == .done

/-- Sends the read of `n` bytes of another module that an errand of the slot's thread needs, as an access of the thread. -/
def State.askFar (s : State) (key : Errand) (kind : AccKind) (c slot : Nat) (t : Thread) (da n : Nat) (word : IWord) : State :=
  (s.dropFar key).launchAccess
    { id := s.fresh, core := c, slot := slot, tid := t.tid, part := t.part, kind := kind, marked := false, nform := false, op := none,
      pieces := onePiece da n, buf := [], cont := .errand key, pc := t.pc, word := word, held := none, failed := none, rights := none }

/-- Where a piece of what hardware reads or writes for itself goes: all of it lies in space 0x0 (R107, R170, R196), and what runs past its end is
nothing. -/
def State.resolvePaged (s : State) (c p : Nat) (need : Need) (op : MemOp) (da : Nat) : Res × State :=
  if da < 2 ^ 48 then s.resolve c p need op da else (.fail .noTarget, s)

/-- The 64-byte lines, with their homes, that an access to these bytes touches within the module. What does not resolve has none. -/
def State.linesOf (s : State) (c p : Nat) (need : Need) (blocks : List (Nat × Nat)) : List (Home × Nat) :=
  blocks.flatMap fun b => (pagePieces (b.2 / 4096 + 3) b.1 b.2).flatMap fun x =>
    match (s.resolvePaged c p need (.read x.2) x.1).1 with
    | .at_ t => if isEgress t.home then [] else (cutAt 64 (x.2 / 64 + 3) t.loc x.2).map fun y =>
        ((homeOf y.1).getD t.home, y.1 / 64 * 64)
    | _ => []

/-- The pieces of `n` bytes at a target in another module, one for each 64-byte line: each an operation `f` of its place among these bytes and
of its length, at its line's egress port (R65, R69). -/
def Target.away (t : Target) (n : Nat) (f : Nat → Nat → MemOp) : List Away :=
  (cutAt 64 (n / 64 + 3) t.loc n).map fun y =>
    { home := .egress (y.1 / 64 % 64 ^^^ t.dest.toNat % 64), loc := y.1, dest := t.dest, expiry := t.expiry, op := f (y.1 - t.loc) y.2 }

/-- What a read of `n` bytes of another module asks there, and a write of bytes. -/
def Target.awayReads (t : Target) (n : Nat) : List Away := t.away n fun _ k => .read k
def Target.awayWrites (t : Target) (bs : List Byte) : List Away :=
  t.away bs.length fun o k => .write k (BitVec.ofNat 512 (leNat ((bs.drop o).take k)))

/-- The reads over Byand that an access to these bytes makes. -/
def State.awayReads (s : State) (c p : Nat) (blocks : List (Nat × Nat)) : List Away :=
  blocks.flatMap fun b => (pagePieces (b.2 / 4096 + 3) b.1 b.2).flatMap fun x =>
    match (s.resolvePaged c p .read (.read x.2) x.1).1 with
    | .at_ t => if isEgress t.home then t.awayReads x.2 else []
    | _ => []

/-- A block cut at pages, with its bytes. -/
def byPage (da : Nat) (bs : List Byte) : List (Nat × List Byte) :=
  (pagePieces (bs.length / 4096 + 3) da bs.length).map fun x => (x.1, (bs.drop (x.1 - da)).take x.2)

/-- The writes over Byand that a write of these blocks makes. -/
def State.awayWrites (s : State) (c p : Nat) (blocks : List (Nat × List Byte)) : List Away :=
  (blocks.flatMap fun b => byPage b.1 b.2).flatMap fun x =>
    match (s.resolvePaged c p .write (.write x.2.length 0) x.1).1 with
    | .at_ t => if isEgress t.home then t.awayWrites x.2 else []
    | _ => []

/-- The read that hardware makes of these bytes for itself has had its turn at every home that it touches, and its reply from every other
module: it is made at once then. -/
def State.served (s : State) (key : Errand) (c p : Nat) (need : Need) (blocks : List (Nat × Nat)) : Bool :=
  s.turnsHad key (s.linesOf c p need blocks) && s.awayHad key (s.awayReads c p blocks)

/-- Asks for what the read has not asked for. -/
def State.askFor (s : State) (key : Errand) (c p : Nat) (need : Need) (blocks : List (Nat × Nat)) : State :=
  (s.askLines key c p (s.linesOf c p need blocks)).askAways key c p (s.awayReads c p blocks)

/-- The places of blocks of bytes. -/
def places (blocks : List (Nat × List Byte)) : List (Nat × Nat) := blocks.map fun b => (b.1, b.2.length)

/-- The same of a write. -/
def State.servedWrite (s : State) (key : Errand) (c p : Nat) (blocks : List (Nat × List Byte)) : Bool :=
  s.turnsHad key (s.linesOf c p .write (places blocks)) && s.awayHad key (s.awayWrites c p blocks)

def State.askWrite (s : State) (key : Errand) (c p : Nat) (blocks : List (Nat × List Byte)) : State :=
  (s.askLines key c p (s.linesOf c p .write (places blocks))).askAways key c p (s.awayWrites c p blocks)

/-- `n` bytes that something outside the module returns. -/
def takeExt (n : Nat) (ext : List Byte) : List Byte × List Byte := ((ext ++ List.replicate n 0).take n, ext.drop n)

/-- What the environment has fixed for an access outside the module; with nothing fixed, a free value (log entry 10). -/
def State.fixedOr (s : State) (ext : List Byte) : List Byte × State :=
  if ext.isEmpty then (Config.outside s.drawn, { s with drawn := s.drawn + 1 }) else (ext, s)

/-- What other modules have replied to these pieces: the bytes that they give, or the first failure. A piece without a reply counts as lost. -/
def repliesOf (got : List Ticket) : List Away → List Byte → Except Status (List Byte)
  | [], acc => .ok acc
  | x :: r, acc =>
    match x.reply got with
    | some (.ok, v) => repliesOf got r (acc ++ bytesOf (opReplies x.op) v)
    | some (st, _) => .error st
    | none => .error .bylost

/-- The first failure among what other modules have replied to these writes. -/
def refusalOf (got : List Ticket) (xs : List Away) : Option Status :=
  (xs.filterMap fun x => (x.reply got).map (·.1)).find? (· != .ok)

/-- Reads pieces in order; what comes from the host is taken from `ext`, and what another module has replied from `got`. An uncorrectable error ends it and raises line 2 (R209). -/
def State.readPieces (s : State) (c p : Nat) (bad : Bool) (ext : List Byte) (got : List Ticket) :
    List (Nat × Nat) → List Byte → Direct × List Byte × State
  | [], acc => (.ok acc, ext, s)
  | (da, n) :: r, acc =>
    match s.resolvePaged c p .read (.read n) da with
    | (.page m, s) => (.page da m, ext, s)
    | (.fail st, s) => (.fail da st, ext, s)
    | (.at_ t, s) =>
      match t.home with
      | .host =>
        if s.md.bme then
          let (ext, s) := s.fixedOr ext
          let (bs, ext) := takeExt n ext
          (s.charge p 12 n).readPieces c p bad ext got r (acc ++ bs)
        else (.fail da .busMaster, ext, s)
      | .egress _ =>
        match repliesOf got (t.awayReads n) [] with
        | .ok bs => s.readPieces c p bad ext got r (acc ++ bs)
        | .error st => (.fail da st, ext, s)
      | _ =>
        if bad && (isHbm t.loc || isSram t.loc) then (.fail da .uncorrectable, ext, s.irqLine p 2)
        else (s.chargeBytes p t.loc false n).readPieces c p bad ext got r (acc ++ s.readBytes (s.keyOf p) t.loc n)

/-- Reads `n` bytes of a device address at once, for partition `p` through core `c`'s translation. -/
def State.directRead (s : State) (c p da n : Nat) (bad : Bool) (ext : List Byte) (got : List Ticket := []) : Direct × List Byte × State :=
  s.readPieces c p bad ext got (pagePieces (n / 4096 + 3) da n) []

/-- Where pieces of a write go; the first that does not resolve, or that another module has refused, stops it. -/
def State.resolvePieces (s : State) (c p : Nat) (got : List Ticket) : List (Nat × List Byte) → List (Target × List Byte) →
    Except Direct (List (Target × List Byte)) × State
  | [], acc => (.ok acc.reverse, s)
  | (da, bs) :: r, acc =>
    match s.resolvePaged c p .write (.write bs.length 0) da with
    | (.page m, s) => (.error (.page da m), s)
    | (.fail st, s) => (.error (.fail da st), s)
    | (.at_ t, s) =>
      if t.home = .host ∧ !s.md.bme then (.error (.fail da .busMaster), s)
      else
        match if isEgress t.home then refusalOf got (t.awayWrites bs) else none with
        | some st => (.error (.fail da st), s)
        | none => s.resolvePieces c p got r ((t, bs) :: acc)

/-- Bytes written one by one at a location, each a write performed there; what lies in another module has been written there. -/
def State.storeTarget (s : State) (p : Nat) (t : Target) (bs : List Byte) : State :=
  match t.home with
  | .host => s.charge p 12 bs.length
  | .egress _ => s
  | _ => (s.storeEach (s.keyOf p) t.loc bs).chargeBytes p t.loc true bs.length

/-- Writes blocks at once, within the module all of them or none. -/
def State.directWrite (s : State) (c p : Nat) (blocks : List (Nat × List Byte)) (got : List Ticket := []) : Direct × State :=
  match s.resolvePieces c p got (blocks.flatMap fun b => byPage b.1 b.2) [] with
  | (.error e, s) => (e, s)
  | (.ok l, s) => (.ok [], l.foldl (fun s x => s.storeTarget p x.1 x.2) s)

/-! ### Kernel headers (R109) -/

def hdrField (w hi lo : Nat) : Nat := w / 2 ^ lo % 2 ^ (hi + 1 - lo)

/-- MAGIC, VER, ENTRY alignment and reserved fields of the 32-byte header `w`. -/
def hdrForm (w : Nat) : Bool :=
  hdrField w 15 0 == 0x0D96 && hdrField w 19 16 == 1 && hdrField w 63 38 == 0 && hdrField w 255 104 == 0 && hdrField w 103 64 % 4 == 0

/-- The register requests lie in range. -/
def hdrRegs (w : Nat) : Bool :=
  1 ≤ hdrField w 25 20 && hdrField w 25 20 ≤ 32 && hdrField w 30 26 ≤ 16 && hdrField w 35 31 ≤ 16

def hdrOf (w : Nat) : KHdr :=
  { gregs := hdrField w 25 20, vregs := hdrField w 30 26, tiles := hdrField w 35 31, migrate := hdrField w 36 36 == 1,
    supv := hdrField w 37 37 == 1, entry := BitVec.ofNat 64 (hdrField w 103 64) }

/-- Rounded requests (R183). -/
def KHdr.gAlloc (h : KHdr) : Nat := (h.gregs + 7) / 8 * 8
def KHdr.vAlloc (h : KHdr) : Nat := (h.vregs + 3) / 4 * 4

/-- A start in the header's shape, with every register zero and full. -/
def KHdr.start (h : KHdr) (p : Nat) (prio : BitVec 2) (ctx : Ctx) (life : Life) : Start :=
  { part := p, prio := prio, supv := h.supv, entry := h.entry, gregs := h.gAlloc, vregs := h.vAlloc, tiles := h.tiles,
    migrate := h.migrate, named := false, g := [], v := [], sg := ctx.sg, fm := ctx.fm, sc := ctx.sc, life := life }

/-! ### Threads -/

/-- The first home turn of slot `k` strictly after now (R127). -/
def State.nextHome (s : State) (k : Nat) : Nat := s.now + 1 + (k + 16 - (s.now + 1) % 16) % 16

/-- The thread that a start begins, with its `tid` (R358). -/
def Start.thread (st : Start) (tid : Word) : Thread :=
  { part := st.part, pc := st.entry, mode := st.supv, gcnt := 0, gcond := false, prio := st.prio, tid := tid, supv := st.supv,
    gregs := st.gregs, vregs := st.vregs, tiles := st.tiles, migrate := st.migrate, named := st.named, g := st.g, v := st.v,
    m := [], md := [], gEmpty := 0, vEmpty := 0, mEmpty := 0, gDue := 0, vDue := 0, mDue := 0, sg := st.sg, fm := st.fm,
    sc := st.sc, cnt := [], avail := .rotation, last := 0, from_ := 0, region := none, chain := none, asking := .no, resv := none,
    fence := none, reports := [] }

/-- Keeps, for each context with a thread on the core, the cycle since which it is resident (R130). -/
def State.track (s : State) (c : Nat) : State :=
  s.modCore c fun k =>
    let held := (k.slots.map fun e => e.2.context).eraseDups
    { k with resident := held.foldl (fun t x => Sparse.insert t x ((Sparse.find? k.resident x).getD s.now)) [] }

/-- Puts a thread into a slot; it issues at the slot's next home turn (R127). -/
def State.place (s : State) (c slot : Nat) (t : Thread) : State :=
  (s.setThread c slot { t with from_ := s.nextHome slot, last := 0 }).track c

/-- A thread starts (R358). -/
def State.begin_ (s : State) (c slot : Nat) (st : Start) : State :=
  let n := (s.core c).starts
  let tid : Word := BitVec.ofNat 64 (n % 2 ^ 28 + c * 2 ^ 28)
  let s := s.modCore c fun k => { k with starts := n + 1 }
  let s : State := { s with lives := Sparse.put .reset s.lives tid.toNat st.life }
  s.place c slot (st.thread tid)

/-- Frees a slot and its granules, with what its thread waits for. -/
def State.vacate (s : State) (c slot : Nat) : State :=
  let s1 := (((s.dropThread c slot).track c).endFetch c slot).dropErrands c slot
  match s.thread c slot with
  | some t => s1.dropColWait c t.tid
  | none => s1

/-! ### Room on a core (R126, R183) -/

/-- The slot's class. -/
def slotClass (supv : Bool) (slot : Nat) : Bool := if supv then slot < 2 else 2 ≤ slot && slot < 16

/-- The header of an active launch. -/
def State.launchHdr (s : State) (p id : Nat) : Option KHdr := ((s.part p).launches.find? (·.id == id)).map (·.hdr)

/-- Granules and tiles in use: (general, vector, tiles), with those that reserved slots stand for. -/
def State.inUse (s : State) (c : Nat) : Nat × Nat × Nat :=
  let k := s.core c
  let res := k.reserved.filterMap fun e => (s.partOf c).bind fun p => s.launchHdr p e.2
  ((k.slots.map fun e => e.2.gregs).sum + (res.map (·.gAlloc)).sum, (k.slots.map fun e => e.2.vregs).sum + (res.map (·.vAlloc)).sum,
    (k.slots.map fun e => e.2.tiles).sum + (res.map (·.tiles)).sum)

/-- A request fits the free granules and tiles. -/
def State.fits (s : State) (c gregs vregs tiles : Nat) : Bool :=
  let (g, v, m) := s.inUse c
  g + gregs ≤ 384 && v + vregs ≤ (if isChan c then 0 else 128) && m + tiles ≤ (if isChan c then 0 else 16)

def State.slotFree (s : State) (c slot : Nat) : Bool :=
  (s.thread c slot).isNone && (Sparse.find? (s.core c).reserved slot).isNone

/-- A new entry finds room in the ready queue (R126, R134). -/
def Core.room (k : Core) : Bool := k.ready.length < 16 && k.readyHo.isEmpty

/-- LOAD of a core (R140). -/
def Core.load (k : Core) : Nat := Nat.min 30 (k.slots.length + k.ready.length)

/-- Entries that wait in the core take freed places first (R134), and begin to wait in the queue then (R124). -/
def Core.settleReady (k : Core) (now : Nat) : Core :=
  match k.readyHo with
  | e :: r => if k.ready.length < 16 then { k with ready := k.ready ++ [{ e with since := now }], readyHo := r } else k
  | [] => k

/-! ### Ends (R112, R157, R315, R365, R372) -/

/-- The thread waits in no barrier and in no STABW: its instruction has been given up, by a restart of its region or by ERET `skip`. -/
def Life.leaveWaits (l : Life) : Life := { l with bar := none, inStabw := false, stab := none }

def State.leaveWaits (s : State) (tid : Word) : State := s.modLife tid Life.leaveWaits

/-- A work unit ends: counted, and in every barrier arrived from then on. -/
def State.unitEnd (s : State) (p launch unit : Nat) (ok : Bool) : State :=
  s.modPart p fun x => { x with launches := x.launches.map fun l =>
    if l.id = launch then { l with ended := l.ended ++ [unit], bad := if ok then l.bad else l.bad + 1 } else l }

/-- A body ends: its slice may begin a pass (R159). -/
def State.bodyEnd (s : State) (p i : Nat) : State := s.modSlice p i fun x => { x with bodies := x.bodies - 1, due := true }

/-- Where a thread that is written out has its record. -/
def State.spillOf (s : State) (tid : Word) : Option Spill := s.net.spills.find? (·.tid == tid)

/-- The core at which a thread is or was last. -/
def State.whereIs (s : State) (p : Nat) (tid : Word) : Nat :=
  match s.findThread tid with
  | some (c, _) => c
  | none =>
    match s.spillOf tid with
    | some x => x.core
    | none => (s.part p).base

/-- A thread ends; `ok` for EXIT. Its parent's result register is filled with its `g1`, or with all ones when system
software ended it. -/
def State.endThread (s : State) (c slot : Nat) (ok : Bool) : State :=
  match s.thread c slot with
  | none => s
  | some t =>
    let life := s.life t.tid
    let s := match t.chain with
      | some x => (s.stopAsking t).endLeave x.leave
      | none => s.stopAsking t
    let s := s.vacate c slot
    let s : State := { s with lives := Sparse.erase s.lives t.tid.toNat }
    let s := match life.parent with
      | some (ptid, reg) =>
        s.post t.part none c slot .core (s.whereIs t.part ptid) (.result ptid reg (if ok then t.gr 1 else BitVec.allOnes 64))
      | none => s
    let s := match life.launch, life.unit with
      | some l, some w => s.unitEnd t.part l w ok
      | _, _ => s
    match life.body with
    | some (i, _) => s.bodyEnd t.part i
    | none => s

end Sys2Proof.Machine
end

