-- ==== Sys2Proof/Machine/Launch.lean ====
section
/-! DEFINITION. The launch engine of a partition (R103-R120): its two queues, the launch parameter block and its checks, work
packets, completions, and the group table. -/

namespace Sys2Proof.Machine

/-! ### Queues (R103-R106, R113, R114) -/

/-- A partition that takes work: enabled and with no command in progress (R101, R103). -/
def Part.takes (x : Part) : Bool := x.en && !x.busy

/-- A push of bench core `i` (R104): of one cycle's pushes, which stand at the end of the queue, it goes behind those of lower-numbered
bench cores and its own (R106). Of more pushes than the queue has room for the last in this order are dropped. -/
def Part.pushAt (x : Part) (i : Nat) (w : Word) : Part :=
  let old := x.lq.length - x.lqNew.length
  let k := (x.lqNew.filter (· ≤ i)).length
  { x with lq := (x.lq.take (old + k) ++ w :: x.lq.drop (old + k)).take 64, lqNew := (x.lqNew.take k ++ i :: x.lqNew.drop k).take (64 - old),
           lqdrop := x.lqdrop || 64 ≤ x.lq.length }

def State.benchPush (s : State) (p i : Nat) (w : Word) : State := s.modPart p fun x => if x.takes then x.pushAt i w else x

/-- Entries that came in an earlier cycle. The engine takes one of these: that it leaves the pushes of the cycle for the next, when their
order is known, is a DESIGN CHOICE, log entry 82. -/
def Part.lqOld (x : Part) : List Word := x.lq.take (x.lq.length - x.lqNew.length)

/-- EPUSH commands reach the queue by cycle; of one cycle by core, then slot (R106). -/
def Push.before (a b : Push) : Bool :=
  a.since < b.since || (a.since == b.since && (a.core < b.core || (a.core == b.core && a.slot < b.slot)))

def insertPush (w : Push) : List Push → List Push
  | [] => [w]
  | x :: r => if w.before x then w :: x :: r else x :: insertPush w r

/-- An EPUSH's command is on its way to the queue (R105). -/
def State.enginePush (s : State) (p : Nat) (t : Thread) (w : Word) : State :=
  let x : Push := { since := s.now, core := s.cur.core, slot := s.cur.slot, tid := t.tid, word := w }
  s.modPart p fun y => { y with lqIn := insertPush x y.lqIn }

/-- Room for one more EPUSH. -/
def Part.lqRoom (x : Part) : Bool := x.lq.length + x.lqIn.length < 64

/-- The end of a cycle: the EPUSH commands that have arrived follow the cycle's bench pushes (R106). One that finds the queue full, as the
pushes of the cycle left it, waits for an entry, and its thread with it (R105). -/
def Part.lqSettle (x : Part) : Part :=
  let n := 64 - x.lq.length
  { x with lq := x.lq ++ (x.lqIn.take n).map (·.word), lqIn := x.lqIn.drop n, lqNew := [] }

/-- An EPUSH's entry: a command with a non-zero reserved byte completes with BADLPB, as an address with a reserved bit does. -/
def launchEntry (cmd : Vec) : Word := cmd.setWidth 64 ||| if cmd >>> 64 = 0 then 0 else BitVec.ofNat 64 (2 ^ 63)

/-- A turn of this cycle in which a bench core of a lower number than `i` pops the completion queue of `p` (R82, R83, R113). -/
def State.popsFirst (s : State) (p i : Nat) : Turn → Bool
  | .event .benchAccess e =>
    let tag := Sparse.get 0x40 s.md.bench e.unit
    e.addr.toNat / 8 * 8 == 2 ^ 55 + 0x300000 + 0x1000 * p && e.size == 8 && !e.write && e.op.isNone && e.unit < i
      && (tag.getLsbD 6 || bitsOf tag 5 0 == p)
  | _ => false

/-- The place in the completion queue of the record that a pop of bench core `i` returns: those of one cycle are in the order of the bench
cores' numbers, before all others (R106). The host and threads that read CQPOP stand with EPOP, for `i` = 16: DESIGN CHOICE, log entry 82. -/
def State.cqPlace (s : State) (p i : Nat) : Nat := (s.agenda.filter (s.popsFirst p i)).length

/-- Pops the completion queue; an empty one gives 0xFF. -/
def State.popCq (s : State) (p i : Nat) : Word × State :=
  let k := s.cqPlace p i
  match (s.part p).cq[k]? with
  | some w => (w, s.modPart p fun x => { x with cq := x.cq.eraseIdx k })
  | none => (0xFF, s)

/-- Sends the next completion message, one at a time on the engine's own permit (R112). -/
def State.pumpEngine (s : State) (p : Nat) : State :=
  match (s.part p).msgHeld with
  | [] => s
  | (ty, w, c) :: r =>
    if s.net.msgs.any fun m => m.frm == .launch && m.part == p then s
    else
      let m : Msg := { id := s.fresh, part := p, from_ := none, src := none, slot := 0, via := none, permit := true, asked := s.now, way := .port,
                       frm := .launch, target := c, away := none, rel := none, body := .table ty [w] [], dom := 0, lost := false }
      ({ s with fresh := s.fresh + 1, net := { s.net with msgs := s.net.msgs ++ [m] } } : State).modPart p fun x => { x with msgHeld := r }

/-- A record enters the completion queue, or is held (R114). -/
def State.placeRecord (s : State) (p : Nat) (w : Word) : State :=
  let x := s.part p
  if x.cqHeld.isEmpty ∧ x.cq.length < 64 then (s.modPart p fun x => { x with cq := x.cq ++ [w] }).irqLine p 0
  else s.modPart p fun x => { x with cqHeld := x.cqHeld ++ [w] }

/-- Posts a completion to the destinations named (R112). -/
def State.postDone (s : State) (p : Nat) (cdest : BitVec 2) (mtype ncore : Nat) (w : Word) : State :=
  let s := if cdest = 1 ∨ cdest = 2 then
      (s.modPart p fun x => { x with msgHeld := x.msgHeld ++ [(mtype, w, ncore)] }).pumpEngine p
    else s
  if cdest = 1 then s else s.placeRecord p w

/-- A completion record (R112). -/
def doneWord (status bad : Nat) (tag : BitVec 32) : Word :=
  BitVec.ofNat 64 (status + 2 ^ 8 * Nat.min bad 0xFFFFFF + 2 ^ 32 * tag.toNat)

/-! ### Group table (R119, R120) -/

def gtabV (e : Word) : Bool := e.getLsbD 0
def gtabFuzzy (e : Word) : Bool := e.getLsbD 1
def gtabFirst (e : Word) : Nat := bitsOf e 27 4
def gtabLast (e : Word) : Nat := bitsOf e 51 28
def gtabStride (e : Word) : Nat := bitsOf e 63 52

/-- Work unit `w` is a member. -/
def gtabMember (e : Word) (w : Nat) : Bool :=
  gtabFirst e ≤ w && w ≤ gtabLast e && (w - gtabFirst e) % gtabStride e == 0

def Part.group (x : Part) (g : Nat) : Word := Sparse.get 0 x.gtab g

/-- The group list is accepted (R120). -/
def Part.groupsOk (x : Part) (gl : List Nat) (count : Nat) : Bool :=
  gl.all (fun g => gtabV (x.group g) && gtabFirst (x.group g) < count) && gl.eraseDups.length == gl.length
    && (gl.length ≤ 4 || (List.range count).all fun w => (gl.filter fun g => gtabMember (x.group g) w).length ≤ 4)

/-- A group-table write (R119). -/
def State.writeGtab (s : State) (p g : Nat) (v : Word) : State :=
  s.modPart p fun x =>
    let v := v &&& ~~~(12 : Word)
    let named := x.launches.any fun l => l.glist.contains g
    let fuzzy := (x.gtab.filter fun e => e.1 != g && gtabFuzzy e.2).length + if gtabFuzzy v then 1 else 0
    if named ∨ fuzzy > 16 ∨ (gtabV v ∧ (gtabStride v = 0 ∨ gtabFirst v > gtabLast v)) then { x with gerr := true }
    else { x with gtab := Sparse.put 0 x.gtab g v }

/-- A write of a group-table entry that a turn of this cycle makes, from the host or a bench core (R83, R119, R416). -/
def State.gtabTurn (s : State) (p : Nat) : Turn → Option (Nat × Word)
  | .event .gtabWrite e => if e.unit = p then some (e.sub, e.val) else none
  | .event .registerWrite e =>
    let o := e.addr.toNat
    if e.write ∧ e.size = 8 ∧ o % 8 = 0 ∧ !isEgress e.home ∧ o / 0x800 = 2 * (0x100 + p) + 1 then some (o % 0x800 / 8, e.val) else none
  | .event .benchAccess e =>
    let o := e.addr.toNat - 2 ^ 55
    let tag := Sparse.get 0x40 s.md.bench e.unit
    if e.write ∧ e.size = 8 ∧ o % 8 = 0 ∧ 2 ^ 55 ≤ e.addr.toNat ∧ o / 0x800 = 2 * (0x100 + p) + 1 ∧ (tag.getLsbD 6 ∨ bitsOf tag 5 0 = p) then
      some (o % 0x800 / 8, e.val)
    else none
  | _ => none

/-- A write of the group table of `p` is still to come in this cycle. -/
def State.gtabComes (s : State) (p : Nat) : Bool := !(s.agenda.filterMap (s.gtabTurn p)).isEmpty

/-! ### Taking a launch (R107-R111) -/

/-- What the checks of R110 give. -/
inductive Taken where
  | done (status : Nat) (tag : BitVec 32) (cdest : BitVec 2) (mtype ncore : Nat)
  | active (l : Launch)
  deriving DecidableEq, Repr

/-- Bits of a block, by byte offset and size. -/
def lpbField (b : Nat) (off n : Nat) : Nat := b / 2 ^ (8 * off) % 2 ^ (8 * n)

/-- An engine read, all of which lies in space 0x0, which is not held for a page that is absent (R107); translated by walks, as from the
Carcass. One that another module refuses or that is lost gives nothing, as a page that is absent; so does one that meets an uncorrectable error:
DESIGN CHOICE, log entry 77. -/
def State.engineRead (s : State) (p da n : Nat) (bad : Bool) (ext : List Byte) (got : List Ticket) : Option Nat × List Byte × State :=
  match s.directRead 32768 p da n bad ext got with
  | (.ok bs, ext, s) => (some (leNat bs), ext, s)
  | (_, ext, s) => (none, ext, s)

/-- Step 3: reserved fields, CDEST, GCNT, alignment, and the message's destination. -/
def State.lpbOk (s : State) (p b : Nat) : Bool :=
  let f := lpbField b
  let ctl := f 12 4
  let cdest := ctl / 4 % 4
  let ncore := f 24 8
  f 0 8 < 2 ^ 52 && ctl / 16 % 2 ^ 12 == 0 && f 20 4 / 2 ^ 8 == 0 && f 113 15 == 0 && cdest != 3 && f 112 1 ≤ 8 && f 0 8 % 32 == 0
    && f 32 8 % 32 == 0
    && (cdest == 0 || (0x40 ≤ f 20 1 && ncore / 2 ^ 16 == s.by_.mod_.toNat && ncore % 2 ^ 16 < 32768 && (s.part p).owns (ncore % 2 ^ 16)))

/-- Slots of a class in a partition (R110 step 11). -/
def Part.classSlots (x : Part) (supv : Bool) : Nat := (if supv then 2 else 14) * x.len

/-- Eight descriptors of a segment table. -/
def segTable (w : Nat) : Sparse Seg :=
  (List.range 8).foldl (fun t i => Sparse.put 0 t i (segClean (BitVec.ofNat 128 (w / 2 ^ (128 * i))))) []

/-- A block's format words and scale pointers. -/
def lpbCtx (b segs : Nat) : Ctx :=
  { sg := segTable segs,
    fm := (List.range 4).foldl (fun t i => Sparse.put 0 t i (BitVec.ofNat 32 (lpbField b (56 + 4 * i) 4))) [],
    sc := (List.range 4).foldl (fun t i => Sparse.put 0 t i (BitVec.ofNat 64 (lpbField b (72 + 8 * i) 8))) [] }

/-- Steps 6 to 11, with the header and the segment table read. -/
def State.checkLaunch (s : State) (p b hdr segs : Nat) : Taken :=
  let f := lpbField b
  let tag := BitVec.ofNat 32 (f 16 4)
  let cdest := BitVec.ofNat 2 (f 12 4 / 4)
  let fail (n : Nat) : Taken := .done n tag cdest (f 20 1) (f 24 2)
  let h := hdrOf hdr
  let ctx := lpbCtx b segs
  let sg0 := Sparse.get 0 ctx.sg 0
  let gl := (List.range (f 112 1)).map fun i => f (104 + i) 1
  if !hdrForm hdr then fail 4
  else if !hdrRegs hdr then fail 3
  else if !segX sg0 ∨ segLimit sg0 ≤ h.entry.toNat then fail 7
  else if !(s.part p).groupsOk gl (f 8 4) then fail 8
  else if f 14 2 > (s.part p).classSlots h.supv then fail 9
  else
    .active { id := s.fresh, prio := BitVec.ofNat 2 (f 12 4), cdest := cdest, mtype := f 20 1, ncore := BitVec.ofNat 64 (f 24 8),
              count := f 8 4, gang := f 14 2, tag := tag, arg0 := BitVec.ofNat 64 (f 40 8), arg1 := BitVec.ofNat 64 (f 48 8), khdr := f 0 8, hdr := h,
              ctx := ctx, glist := gl, placed := 0, ended := [], bad := 0 }

/-- The checks of R110 in order on a launch-queue entry; `got` is what other modules have replied to the engine's reads. -/
def State.takeLaunch (s : State) (p : Nat) (w : Word) (bad : Bool) (ext : List Byte) (got : List Ticket) : Taken × State :=
  if bitsOf w 63 52 ≠ 0 ∨ w.toNat % 128 ≠ 0 then (.done 5 0 0 0 0, s)
  else
    match s.engineRead p w.toNat 128 bad ext got with
    | (none, _, s) => (.done 6 0 0 0 0, s)
    | (some b, ext, s) =>
      let f := lpbField b
      let tag := BitVec.ofNat 32 (f 16 4)
      let cdest := BitVec.ofNat 2 (f 12 4 / 4)
      if !s.lpbOk p b then (.done 5 tag 0 0 0, s)
      else if f 8 4 > 2 ^ 24 then (.done 2 tag cdest (f 20 1) (f 24 2), s)
      else if f 8 4 = 0 then (.done 1 tag cdest (f 20 1) (f 24 2), s)
      else
        match s.engineRead p (f 0 8) 32 bad ext got with
        | (none, _, s) => (.done 6 tag cdest (f 20 1) (f 24 2), s)
        | (some hdr, ext, s) =>
          match s.engineRead p (f 32 8) 128 bad ext got with
          | (none, _, s) => (.done 6 tag cdest (f 20 1) (f 24 2), s)
          | (some segs, _, s) => (s.checkLaunch p b hdr segs, s)

/-- What the engine reads for an entry: its block, and once that has been reached the header and the segment table that it names (R109,
R110). -/
def State.launchBlocks (s : State) (p : Nat) (w : Word) : List (Nat × Nat) :=
  if bitsOf w 63 52 ≠ 0 ∨ w.toNat % 128 ≠ 0 then []
  else
    (w.toNat, 128) :: if s.served (.launch p) 32768 p .read [(w.toNat, 128)] then
      match (s.engineRead p w.toNat 128 false [] (s.gotBy (.launch p))).1 with
      | some b =>
        let f := lpbField b
        if s.lpbOk p b ∧ f 8 4 ≠ 0 ∧ f 8 4 ≤ 2 ^ 24 then [(f 0 8, 32), (f 32 8, 128)] else []
      | none => []
    else []

/-- LAUNCH_TAKE (R107, R110, R114, R115, R207): the oldest entry, once its reads have had their turn at their homes (R49), unless a record is held, 16 launches are active, or the
partition is in its load state. It sees the group table as the cycle's writes leave it (R119): it follows the cycle's attempts, and waits for
the writes that are still to come. -/
def execLaunchTake (s : State) : Result :=
  given s .launchTake fun s =>
    let p := s.env.unit
    let x := s.part p
    if !s.eventsRun then s
    else if s.gtabComes p then { s with agenda := s.agenda ++ [.event .launchTake s.env] }
    else if !x.takes ∨ !x.cqHeld.isEmpty ∨ x.launches.length ≥ 16 ∨ (s.aux p).loadSt then s
    else
      match x.lqOld with
      | [] => s
      | w :: _ =>
        if !s.served (.launch p) 32768 p .read (s.launchBlocks p w) then s.askFor (.launch p) 32768 p .read (s.launchBlocks p w)
        else
        match ((s.dropTicket (.launch p)).modPart p fun x => { x with lq := x.lq.drop 1 }).takeLaunch p w s.env.bad s.env.bytes
            (s.gotBy (.launch p)) with
        | (.done st tag cdest mt nc, s) => s.postDone p cdest mt nc (doneWord st 0 tag)
        | (.active l, s) => ({ s with fresh := s.fresh + 1 } : State).modPart p fun x => { x with launches := x.launches ++ [l] }

/-! ### Work packets (R115, R116) -/

/-- The launch whose packet comes next. -/
def nextLaunch : List Launch → Option Launch
  | [] => none
  | l :: r =>
    match nextLaunch r with
    | none => if l.placed < l.count then some l else none
    | some m => if l.placed < l.count ∧ m.prio ≤ l.prio then some l else some m

/-- WORK_PACKET_PLACE: the next packet, or a whole gang as one entry, enters the task queue. A gang
that is being placed keeps its place there (R125, R129). -/
def execWorkPacketPlace (s : State) : Result :=
  given s .workPacketPlace fun s =>
    let p := s.env.unit
    let x := s.part p
    if !x.takes ∨ x.tasks.length + (if x.gang.isSome then 1 else 0) ≥ 256 then s
    else
      match nextLaunch x.launches with
      | none => s
      | some l =>
        let n := Nat.min (Nat.max 1 l.gang) (l.count - l.placed)
        let t : Task := { launch := l.id, khdr := l.khdr, gang := l.placed / Nat.max 1 l.gang, first := l.placed, n := n, prio := l.prio, since := s.now, lvl := 0 }
        s.modPart p fun x => { x with tasks := x.tasks ++ [t],
                                      launches := x.launches.map fun y => if y.id = l.id then { y with placed := y.placed + n } else y }

/-- The start of work unit `w` (R116). -/
def Launch.startOf (l : Launch) (p w : Nat) : Start :=
  { l.hdr.start p l.prio l.ctx { Life.reset with part := p, launch := some l.id, unit := some w } with
    g := [(1, BitVec.ofNat 64 w), (2, l.arg0), (3, l.arg1), (4, BitVec.ofNat 64 l.count)].foldl (fun t e => Sparse.put 0 t e.1 e.2) [] }

/-! ### Completion (R112, R114) -/

/-- LAUNCH_COMPLETE: the last work unit of some launch has ended. Its barrier state ends with it. -/
def execLaunchComplete (s : State) : Result :=
  given s .launchComplete fun s =>
    let p := s.env.unit
    match (s.part p).launches.find? fun l => l.ended.length ≥ l.count with
    | none => s
    | some l =>
      let s := s.modPart p fun x => { x with launches := x.launches.filter (·.id != l.id) }
      let s := s.modAux p fun a => { a with members := a.members.filter (·.launch != l.id), arrivals := a.arrivals.filter (·.launch != l.id),
                                            phases := a.phases.filter (·.1 != l.id) }
      s.postDone p l.cdest l.mtype (l.ncore.toNat % 2 ^ 16) (if l.bad = 0 then doneWord 0 0 l.tag else doneWord 0xA l.bad l.tag)

/-- COMPLETION_PLACE: a held record finds room. -/
def execCompletionPlace (s : State) : Result :=
  given s .completionPlace fun s =>
    let p := s.env.unit
    match (s.part p).cqHeld with
    | [] => s
    | w :: r =>
      if (s.part p).cq.length < 64 then (s.modPart p fun x => { x with cqHeld := r, cq := x.cq ++ [w] }).irqLine p 0 else s

/-- CQPOP_READ (R113). -/
def execCqpopRead (s : State) : Result :=
  given s .cqpopRead fun s =>
    let (w, s) := s.popCq s.env.unit 16
    { s with ext := .data 8 w }

def execLqpushWrite (s : State) : Result := given s .lqpushWrite fun s => s.benchPush s.env.unit s.env.sub s.env.val
def execGtabWrite (s : State) : Result := given s .gtabWrite fun s => s.writeGtab s.env.unit s.env.sub s.env.val

/-- LSTAT (R118). -/
def Part.lstat (x : Part) : Word :=
  BitVec.ofNat 64 (x.lq.length + 2 ^ 7 * x.cq.length + 2 ^ 14 * x.launches.length + (if x.lqdrop then 2 ^ 19 else 0)
    + if x.gerr then 2 ^ 20 else 0)

def State.writeLstat (s : State) (p : Nat) (v : Word) : State :=
  s.modPart p fun x => { x with lqdrop := x.lqdrop && !v.getLsbD 19, gerr := x.gerr && !v.getLsbD 20 }

end Sys2Proof.Machine
end

