-- ==== Sys2Proof/Machine/Sched.lean ====
section
/-! DEFINITION. Scheduling (R121-R140): aging, the task queue and the distributors, ready queues, gangs, hand-over and the spill
engine, parking, and load balancing. -/

namespace Sys2Proof.Machine

/-! ### Registers (R122, R123, R137) -/

def State.schedWord (s : State) (p q : Nat) : BitVec 32 := Sparse.get 0 (s.aux p).sched q
/-- SLICE and AGE in cycles. -/
def State.slice_ (s : State) (p q : Nat) : Nat := 1024 * bitsOf (s.schedWord p q) 15 0
def State.agePeriod (s : State) (p q : Nat) : Nat := 1024 * bitsOf (s.schedWord p q) 31 16

def State.ctxWord (s : State) (p q : Nat) : Word := Sparse.get 0 (s.aux p).ctxbase q
/-- The context may be written out. -/
def State.ctxValid (s : State) (p q : Nat) : Bool := (s.ctxWord p q).getLsbD 0
/-- Address of the record of slot `k` at core offset `o` (R136). -/
def State.recordAt (s : State) (p q o k : Nat) : Nat := bitsOf (s.ctxWord p q) 51 16 * 2 ^ 16 + 0x11000 * (16 * o + k)

/-- A moved thread of the partition. -/
def Entry.moves (e : Entry) (p : Nat) : Bool :=
  match e.kind with
  | .moved t => t.part == p
  | _ => false

def Msg.moves (m : Msg) (p : Nat) : Bool :=
  match m.body with
  | .thread t => t.part == p
  | _ => false

/-- Some thread of the partition that has started is not written out: in a slot, on its way to another core, or in a ready queue there. -/
def State.hasThread (s : State) (p : Nat) : Bool :=
  (s.cores.any fun e => (e.2.slots.any fun t => t.2.part == p) || (e.2.ready ++ e.2.readyHo).any (·.moves p)) || s.net.msgs.any (·.moves p)

/-- PARKED (R137). -/
def State.parked (s : State) (p : Nat) : Bool := (s.aux p).park && !s.hasThread p

def State.perr (s : State) (p : Nat) : State := s.modPart p fun x => { x with perr := true }

/-- The partition places work: enabled, no command in progress, not parked. -/
def State.places (s : State) (p : Nat) : Bool := (s.part p).takes && !(s.aux p).park

/-- An entry of a ready queue may start. While its partition parks no record is restored (R137), but what has been placed or
has arrived still starts: a trap report is handled during a park (R133). -/
def State.starts (s : State) (e : Entry) : Bool :=
  match e.kind with
  | .restore p .. => s.places p
  | .start st => (s.part st.part).takes
  | .moved t => (s.part t.part).takes

/-! ### Order of waiting work (R124) -/

/-- Effective priority. -/
def effPrio (prio : BitVec 2) (lvl : Nat) : Nat := Nat.min 3 (prio.toNat + lvl)

/-- `a` is served before `b`: higher effective priority, longer waiting, lower work unit. -/
def Entry.before (a b : Entry) : Bool :=
  let p := effPrio a.prio a.lvl
  let q := effPrio b.prio b.lvl
  q < p || (p == q && (a.since < b.since || (a.since == b.since && a.unit < b.unit)))

def bestEntry : List Entry → Option Entry
  | [] => none
  | e :: r =>
    match bestEntry r with
    | none => some e
    | some x => if x.before e then some x else some e

def Task.before (a b : Task) : Bool :=
  let p := effPrio a.prio a.lvl
  let q := effPrio b.prio b.lvl
  q < p || (p == q && (a.since < b.since || (a.since == b.since && a.first < b.first)))

def bestTask : List Task → Option Task
  | [] => none
  | e :: r =>
    match bestTask r with
    | none => some e
    | some x => if x.before e then some x else some e

/-- A level is gained for each full period, up to effective priority 3; levels gained stay. -/
def gain (now since period : Nat) (prio : BitVec 2) (lvl : Nat) : Nat :=
  if period = 0 then lvl else Nat.max lvl (Nat.min ((now - since) / period) (3 - prio.toNat))

def EntryKind.part : EntryKind → Nat
  | .start st => st.part
  | .moved t => t.part
  | .restore p .. => p

def State.ageTask (s : State) (p i : Nat) : State :=
  s.modPart p fun x => { x with tasks := x.tasks.zipIdx.map fun (t, j) =>
    if i = j then { t with lvl := gain s.now t.since (s.agePeriod p t.prio.toNat) t.prio t.lvl } else t }

def State.ageReady (s : State) (c i : Nat) : State :=
  s.modCore c fun k => { k with ready := k.ready.zipIdx.map fun (e, j) =>
    if i = j then { e with lvl := gain s.now e.since (s.agePeriod e.kind.part e.prio.toNat) e.prio e.lvl } else e }

/-- AGE_PERIOD. -/
def execAgePeriod (s : State) : Result :=
  given s .agePeriod fun s =>
    match s.env.site with
    | .task p i => s.ageTask p i
    | .ready c i => s.ageReady c i

/-! ### Distributors (R125) -/

/-- The cores of the partition on a layer that have room. -/
def State.openCores (s : State) (p l : Nat) : List Nat :=
  (s.coresOf p).filter fun c => layerOf c == l && s.coreLive c && (s.core c).room

/-- Fewest occupied slots plus ready-queue entries; ties to the lowest core number. -/
def State.leastLoaded (s : State) : List Nat → Option Nat
  | [] => none
  | c :: r =>
    let n (c : Nat) : Nat := (s.core c).slots.length + (s.core c).ready.length
    match s.leastLoaded r with
    | none => some c
    | some d => if n d < n c then some d else some c

/-- Layers in the order in which they are offered an entry. -/
def offerOrder (last : Nat) (ls : List Nat) : List Nat := ls.filter (last ≤ ·) ++ ls.filter (· < last)

/-- A ready-queue entry is added. -/
def State.enready (s : State) (c : Nat) (e : Entry) : State := s.modCore c fun k => { k with ready := k.ready ++ [e] }

/-- Offers a packet to the distributors. -/
def State.distribute (s : State) (p : Nat) (t : Task) (l : Launch) : State :=
  match (offerOrder (s.part p).lastLayer (s.layersOf p)).findSome? fun y => (s.leastLoaded (s.openCores p y)).map fun c => (y, c) with
  | none => s
  | some (y, c) =>
    let s := s.modPart p fun x => { x with tasks := x.tasks.erase t, lastLayer := y + 1 }
    s.enready c { kind := .start (l.startOf p t.first), prio := t.prio, since := t.since, lvl := t.lvl, unit := t.first }

/-! ### Gangs (R128, R129) -/

/-- Reserves free slots of the header's class, one a member, until `n` are held. -/
def State.reserveFrom (s : State) (h : KHdr) (id : Nat) : List (Nat × Nat) → Nat → List (Nat × Nat) → List (Nat × Nat) × State
  | [], _, acc => (acc.reverse, s)
  | _, 0, acc => (acc.reverse, s)
  | (c, k) :: r, n + 1, acc =>
    if slotClass h.supv k ∧ s.slotFree c k ∧ s.fits c h.gAlloc h.vAlloc h.tiles ∧ s.coreLive c then
      (s.modCore c fun x => { x with reserved := Sparse.insert x.reserved k id }).reserveFrom h id r n ((c, k) :: acc)
    else s.reserveFrom h id r (n + 1) acc

/-- Every (core, slot) of the partition, in ascending order. -/
def State.allSlots (s : State) (p : Nat) : List (Nat × Nat) := (s.coresOf p).flatMap fun c => (List.range 16).map fun k => (c, k)

def State.unreserve (s : State) (rs : List (Nat × Nat)) : State :=
  rs.foldl (fun s x => s.modCore x.1 fun k => { k with reserved := Sparse.erase k.reserved x.2 }) s

/-- A gang at the head takes its first slot: its placement starts. -/
def State.startGang (s : State) (p : Nat) (t : Task) (l : Launch) : State :=
  match s.reserveFrom l.hdr l.id (s.allSlots p) t.n [] with
  | ([], _) => s
  | (rs, s) => s.modPart p fun x => { x with tasks := x.tasks.erase t, gang := some (t, s.now, rs) }

/-- Ascending (core, slot). -/
def insertSlot (x : Nat × Nat) : List (Nat × Nat) → List (Nat × Nat)
  | [] => [x]
  | y :: r => if x.1 < y.1 ∨ (x.1 = y.1 ∧ x.2 < y.2) then x :: y :: r else y :: insertSlot x r

/-- Every member is written into its slot: identifiers ascend with core and slot. -/
def State.placeGang (s : State) (p : Nat) (t : Task) (l : Launch) (rs : List (Nat × Nat)) : State :=
  let s := (s.unreserve rs).modPart p fun x => { x with gang := none }
  ((rs.foldr insertSlot []).zipIdx).foldl (fun s (x, i) => s.begin_ x.1 x.2 (l.startOf p (t.first + i))) s

/-- GANG_PLACE. -/
def execGangPlace (s : State) : Result :=
  given s .gangPlace fun s =>
    let p := s.env.unit
    match (s.part p).gang with
    | none => s
    | some (t, at_, rs) =>
      match (s.part p).launches.find? (·.id == t.launch) with
      | none => s
      | some l =>
        if !s.places p then s
        else
          let (more, s) := s.reserveFrom l.hdr l.id (s.allSlots p) (t.n - rs.length) []
          let rs := rs ++ more
          if rs.length = t.n then s.placeGang p t l rs else s.modPart p fun x => { x with gang := some (t, at_, rs) }

/-- GANG_TIMEOUT: 4,096 cycles after its placement started. -/
def execGangTimeout (s : State) : Result :=
  given s .gangTimeout fun s =>
    let p := s.env.unit
    match (s.part p).gang with
    | none => s
    | some (t, at_, rs) =>
      if at_ + 4096 ≤ s.now then
        let t := { t with lvl := gain s.now t.since (s.agePeriod p t.prio.toNat) t.prio t.lvl }
        (s.unreserve rs).modPart p fun x => { x with gang := none, tasks := t :: x.tasks }
      else s

/-- TASK_QUEUE_OFFER (R125): while a gang is being placed nothing else is offered (R129). -/
def execTaskQueueOffer (s : State) : Result :=
  given s .taskQueueOffer fun s =>
    let p := s.env.unit
    let x := s.part p
    if !s.places p ∨ x.gang.isSome then s
    else
      match bestTask x.tasks with
      | none => s
      | some t =>
        match x.launches.find? (·.id == t.launch) with
        | none => s
        | some l => if l.gang > 1 then s.startGang p t l else s.distribute p t l

/-! ### Ready queue to slot (R126, R127, R194) -/

/-- The head: on a channel core, of the partition whose turn it is. -/
def Core.head (k : Core) (chan : Bool) : Option Entry :=
  if chan then
    match nextPart k.turnPart (k.ready.map (·.kind.part)) with
    | none => none
    | some p => bestEntry (k.ready.filter fun e => e.kind.part == p)
  else bestEntry k.ready

/-- The spilled thread whose record a restore names. -/
def State.spilled (s : State) (p : Nat) (prio : BitVec 2) (off slot : Nat) : Option Spill :=
  s.net.spills.find? fun x => x.part == p && x.prio == prio && x.off == off && x.slot == slot && x.phase == 1

/-- The entry can start in the slot: class, granules, and the record's slot. -/
def State.canStart (s : State) (c slot : Nat) (e : Entry) : Bool :=
  match e.kind with
  | .start st => slotClass st.supv slot && s.fits c st.gregs st.vregs st.tiles
  | .moved t => slotClass t.supv slot && s.fits c t.gregs t.vregs t.tiles
  | .restore p q off slots =>
    slots.contains slot && (match s.spilled p q off slot with
      | some x => s.fits c x.t.gregs x.t.vregs x.t.tiles
      | none => true)

def State.setSpill (s : State) (x y : Spill) : State :=
  s.modNet fun n => { n with spills := n.spills.map fun z => if z = x then y else z }

/-- A restore begins in the slot: its granules are held. -/
def State.beginRestore (s : State) (c slot : Nat) (x : Spill) : State :=
  ((s.setSpill x { x with phase := 2, core := c }).setThread c slot { x.t with avail := .spilling, tid := x.tid }).track c

/-- The head starts, or begins to be restored, in the slot. -/
def State.startHead (s : State) (c slot : Nat) (e : Entry) : State :=
  let drop (s : State) : State := s.modCore c fun k => { k with ready := k.ready.erase e, turnPart := e.kind.part }.settleReady s.now
  match e.kind with
  | .start st => (drop s).begin_ c slot st
  | .moved t => (drop s).place c slot { t with avail := .rotation }
  | .restore p q off slots =>
    let rest := slots.filter (· != slot)
    let s := if rest.isEmpty then drop s
      else s.modCore c fun k => { k with ready := k.ready.map fun y => if y = e then { y with kind := .restore p q off rest } else y }
    match s.spilled p q off slot with
    | some x => s.beginRestore c slot x
    | none => s

/-- READY_QUEUE_START: at a home turn of a free slot, the head alone is considered. -/
def execReadyQueueStart (s : State) : Result :=
  given s .readyQueueStart fun s =>
    let c := s.env.unit
    let k := s.env.sub
    match (s.core c).head (isChan c) with
    | none => s
    | some e =>
      if s.now % 16 = k ∧ s.slotFree c k ∧ s.coreLive c ∧ s.starts e ∧ s.canStart c k e then s.startHead c k e else s

/-! ### Hand-over (R130-R134) -/

/-- The entry cannot start for lack of a slot or granules: a hand-over entry, of which one of the slots that it names cannot, or another that
can in no slot (R130). -/
def State.stuck (s : State) (c : Nat) (e : Entry) : Bool :=
  let can (k : Nat) : Bool := s.slotFree c k && s.canStart c k e
  match e.kind with
  | .restore _ _ _ slots => slots.any fun k => !can k
  | _ => (List.range 16).all fun k => !can k

/-- Contexts that may be handed over for a head of effective priority `n`: lowest priority, longest resident first. -/
def State.outgoing (s : State) (c n : Nat) : List (Nat × Nat) → Option (Nat × Nat)
  | [] => none
  | (x, since) :: r =>
    let q := x % 4
    let p := x / 4
    let good := s.slice_ p q != 0 && since + s.slice_ p q ≤ s.now && q ≤ n && s.ctxValid p q
    match s.outgoing c n r with
    | none => if good then some (x, since) else none
    | some (y, sy) => if good ∧ (q < y % 4 ∨ (q = y % 4 ∧ since ≤ sy)) then some (x, since) else some (y, sy)

/-- Slots of a core with threads of a context (or, for a park, of every context that may be written out). A slot whose thread is still being
read back is not handed over: DESIGN CHOICE, log entry 122. -/
def State.contextSlots (s : State) (c : Nat) (f : Thread → Bool) : List (Nat × Word) :=
  ((s.core c).slots.filter fun e => f e.2 && e.2.avail != .spilling).map fun e => (e.1, e.2.tid)

/-- A core begins to park the partition's threads. -/
def State.beginPark (s : State) (p c : Nat) : State :=
  let sl := s.contextSlots c fun t => t.part == p && s.ctxValid p t.prio.toNat
  if (s.core c).handOver.isSome ∨ sl.isEmpty then s
  else s.modCore c fun k => { k with handOver := some { part := p, prio := 0, park := true, slots := sl, gone := [] } }

/-- At a check of a core whose partition parks, threads that have started since join the park (R130, R137). -/
def State.parkMore (s : State) (p c : Nat) : State :=
  match (s.core c).handOver with
  | none => s.beginPark p c
  | some h =>
    if h.park ∧ h.part = p then
      let more := (s.contextSlots c fun t => t.part == p && s.ctxValid p t.prio.toNat).filter fun x => !h.slots.contains x
      s.modCore c fun k => { k with handOver := some { h with slots := h.slots ++ more } }
    else s

/-- A check for a head that cannot start (R130). -/
def State.checkHead (s : State) (c : Nat) : State :=
  let k := s.core c
  match k.handOver, k.head false with
  | none, some e =>
    if !s.stuck c e ∨ !s.starts e then s
    else
      match s.outgoing c (effPrio e.prio e.lvl) k.resident with
      | none => s
      | some (x, _) =>
        let h : HandOver := { part := x / 4, prio := BitVec.ofNat 2 x, park := false,
                              slots := s.contextSlots c fun t => t.context == x, gone := [] }
        s.modCore c fun k => { k with handOver := some h }
  | _, _ => s

/-- HANDOVER_CHECK (R130). -/
def execHandoverCheck (s : State) : Result :=
  given s .handoverCheck fun s =>
    let c := s.env.unit
    if isChan c ∨ s.now % 1024 ≠ 0 ∨ !s.coreLive c then s
    else
      match s.partOf c with
      | some p => if (s.aux p).park then s.parkMore p c else s.checkHead c
      | none => s.checkHead c

/-- No access, dispatch or result of the thread is outstanding, child results apart (R131, R237). -/
def State.settledThread (s : State) (t : Thread) : Bool :=
  (s.net.accs.all fun a => a.tid != t.tid || a.kind == .fetch) && (t.gDue &&& ~~~(s.life t.tid).kids) == 0 && t.vDue == 0 && t.mDue == 0
    && (s.cores.all fun e => e.2.disp.all fun o => o.tid != t.tid) && (s.vmus.all fun e => e.2.running.all fun o => o.tid != t.tid)

/-- The slot may leave (R131, R133, R344). A wait for an instruction line holds nothing back. -/
def State.mayLeave (s : State) (c k : Nat) (t : Thread) : Bool :=
  (match t.avail with
    | .rotation | .fence | .admission | .parked => true
    | .memory => (Sparse.find? (s.core c).fetching k).isSome
    | _ => false) && t.chain.isNone && !s.awaits c k && s.settledThread t

/-- SLOT_LEAVE: at its home turn. -/
def execSlotLeave (s : State) : Result :=
  given s .slotLeave fun s =>
    let c := s.env.unit
    let k := s.env.sub
    match (s.core c).handOver, s.thread c k with
    | some h, some u =>
      if s.now % 16 = k ∧ h.slots.contains (k, u.tid) ∧ s.mayLeave c k u then
        let t : Thread := { u with avail := .spilling, resv := none, asking := .no, fence := none }.count 7 1
        let x : Spill := { part := t.part, prio := t.prio, off := c - (s.part t.part).base, slot := k, core := c, tid := t.tid, phase := 0,
                           t := t, ltc := s.md.ltc, held := none, fills := [], seen := 0, buf := [] }
        ((((s.stopAsking u).setThread c k t).endFetch c k).dropColWait c t.tid).modNet
          fun n => { n with spills := n.spills ++ [x] }
      else s
    | _, _ => s

/-! ### Records (R136) -/

/-- The live-in general and vector registers of a mask, ascending. -/
def liveG (mask : Word) : List Nat := (List.range 32).filter fun n => n != 0 && mask.getLsbD n
def liveV (mask : Word) : List Nat := (List.range 16).filter fun n => mask.getLsbD (32 + n)

def stateWord (t : Thread) : Word :=
  BitVec.ofNat 64 (1 + (if t.supv then 2 else 0) + 4 * t.prio.toNat + 2 ^ 4 * t.gregs + 2 ^ 10 * t.vregs + 2 ^ 15 * t.tiles
    + (if t.region.isSome then 2 ^ 20 else 0) + if t.named then 2 ^ 21 else 0)

def fullWord (t : Thread) : Word :=
  (~~~t.gEmpty).setWidth 64 ||| ((~~~t.vEmpty).setWidth 64 <<< 32) ||| ((~~~t.mEmpty).setWidth 64 <<< 48)

/-- General register as recorded: a live-in of an open region holds its checkpoint. -/
def Thread.recG (t : Thread) (n : Nat) : Word :=
  match t.region with
  | some r => if (liveG r.mask).contains n then Sparse.get 0 r.g n else t.gr n
  | none => t.gr n
def Thread.recV (t : Thread) (n : Nat) : Vec :=
  match t.region with
  | some r => if (liveV r.mask).contains n then Sparse.get 0 r.v n else t.vr n
  | none => t.vr n

def words (ws : List Word) : List Byte := ws.flatMap fun w => bytesOf 8 w

/-- The record of a thread that left when the LTC was `ltc`, as blocks at offsets: what is allocated and, in a region, LIVEIN, CKG and CKV. -/
def State.record (s : State) (t : Thread) (ltc : Word) : List (Nat × List Byte) :=
  let idem := match t.region with
    | some r => [(128, bytesOf 8 r.mask), (2048, words ((liveG r.mask).map (Sparse.get 0 r.g ·))),
        (2176, (liveV r.mask).flatMap fun n => bytesOf 64 (Sparse.get 0 r.v n))]
    | none => []
  let pc := match t.region with
    | some r => r.rstart
    | none => t.pc
  let rstart := match t.region with
    | some r => r.rstart
    | none => 0
  [(0, words [pc, s.psw t, t.tid, stateWord t, fullWord t, rstart, ltc]),
   (64, words ((List.range 8).map (Sparse.get 0 t.cnt ·))),
   (512, words ((List.range t.gregs).map t.recG)),
   (768, (List.range t.vregs).flatMap fun n => bytesOf 64 (t.recV n)),
   (1792, (List.range 8).flatMap fun n => bytesOf 16 (t.seg n)),
   (1920, (List.range 4).flatMap fun n => bytesOf 4 (Sparse.get 0 t.fm n)),
   (1936, words ((List.range 4).map (Sparse.get 0 t.sc ·))),
   (1968, (List.range t.tiles).flatMap fun n => bytesOf 4 (t.shape n))]
  ++ idem ++ (List.range t.tiles).map fun n => (4096 + 4096 * n, bytesOf 4096 (t.mr n))

/-- A held save-area access enqueues its record (R131, R220). -/
def State.spillFault (s : State) (x : Spill) (write rights malformed : Bool) (da : Nat) : State :=
  let token := s.token
  let s : State := { s with fresh := s.fresh + 1 }
  (s.setSpill x { x with held := some token }).pageFault x.part
    { kind := if write then 1 else 0, rx := false, cause := malformed, rights := rights, spill := true, da := da, core := x.core,
      copy := false, slot := x.slot, chan := false, token := token }

/-- Any other failure of a save-area access is held as a fault is. -/
def State.spillFail (s : State) (x : Spill) (write : Bool) : Direct → State
  | .page da m => s.spillFault x write false m da
  | .fail da st => s.spillFault x write (st == .rights) false da
  | .ok _ => s

/-- Places the hand-over entry of a context's records (R134). -/
def State.placeRestore (s : State) (c p : Nat) (q : BitVec 2) (off : Nat) (slots : List Nat) : State :=
  let e : Entry := { kind := .restore p q off slots, prio := q, since := s.now, lvl := 0, unit := 0 }
  s.modCore c fun k => if k.ready.length < 16 then { k with ready := k.ready ++ [e] } else { k with readyHo := k.readyHo ++ [e] }

/-- Restore entries for slots of a core offset, one a context. -/
def State.placeRestores (s : State) (c p off : Nat) (gone : List (BitVec 2 × Nat)) : State :=
  [0, 1, 2, 3].foldl (fun s q =>
    let sl := (gone.filter (·.1 == q)).map (·.2)
    if sl.isEmpty then s else s.placeRestore c p q off sl) s

/-- A hand-over or park whose slots have all left or ended is over (R133, R134, R138). When PARK has become 0 before that, its slots go on
leaving, and the records restore to the core that they left, without SHIFT: DESIGN CHOICE, log entry 117. -/
def State.endHandOver (s : State) (c : Nat) : State :=
  match (s.core c).handOver with
  | none => s
  | some h =>
    if h.slots.any fun (k, tid) => (s.thread c k).any (·.tid == tid) then s
    else
      let off := c - (s.part h.part).base
      let s := s.modCore c fun k => { k with handOver := none }
      if (s.aux h.part).park then
        let s := s.modAux h.part fun a => { a with parked := a.parked ++ h.gone.map fun g => (g.1.toNat, off, g.2) }
        if h.park then s else s.beginPark h.part c
      else s.placeRestores c h.part off h.gone

/-- A fill of one register of a thread (R182). -/
def Thread.fillReg (t : Thread) (k : RegKind) (n : Nat) (v : Vec) : Thread :=
  match k with
  | .g => t.setG n (v.setWidth 64)
  | .v => t.setV n v
  | .m => t.setM n (v.setWidth 32768)
  | .c => t

/-- Bytes for a register of the thread (R132, R142, R379). -/
def Thread.takeFill (t : Thread) (f : RegFill) : Thread :=
  match f.kind with
  | .g => t.setG f.reg (f.val.setWidth 64)
  | .v =>
    let v := (tilePut ((t.vr f.reg).setWidth 32768) f.off f.n f.val.toNat).setWidth 512
    if f.full then t.setV f.reg v else { t with v := Sparse.put 0 t.v f.reg v }
  | .m =>
    let m := tilePut (t.mr f.reg) f.off f.n f.val.toNat
    if f.full then t.setM f.reg m else { t with m := Sparse.put 0 t.m f.reg m }
  | .c => t

/-- Offset of a register in a save record, and its bit in FULL (R136). -/
def recPlace (k : RegKind) (n : Nat) : Nat × Nat :=
  match k with
  | .v => (768 + 64 * n, 32 + n)
  | .m => (4096 + 4096 * n, 48 + n)
  | _ => (512 + 8 * n, n)

def recSize : RegKind → Nat
  | .v => 64
  | .m => 4096
  | _ => 8

/-- The byte of FULL that a fill of its whole register changes: its place in the record, and its bit (R136). -/
def fillBit (f : RegFill) : Nat × Nat := (32 + (recPlace f.kind f.reg).2 / 8, (recPlace f.kind f.reg).2 % 8)

/-- What a fill reads of its record. -/
def State.fillReads (s : State) (x : Spill) (f : RegFill) : List (Nat × Nat) :=
  if f.full then [(s.recordAt x.part x.prio.toNat x.off x.slot + (fillBit f).1, 1)] else []

/-- What a fill writes of its record, where the byte of FULL is `b`. -/
def State.fillBlocks (s : State) (x : Spill) (f : RegFill) (b : Byte) : List (Nat × List Byte) :=
  let base := s.recordAt x.part x.prio.toNat x.off x.slot
  (base + (recPlace f.kind f.reg).1 + f.off, bytesOf f.n f.val) :: if f.full then [(base + (fillBit f).1, [bset b (fillBit f).2])] else []

/-- The byte of FULL that a fill finds in the record. -/
def State.fillFinds (s : State) (x : Spill) (f : RegFill) (got : List Ticket) : Direct × State :=
  if f.full then
    match s.directRead x.core x.part (s.recordAt x.part x.prio.toNat x.off x.slot + (fillBit f).1) 1 s.env.bad s.env.bytes got with
    | (d, _, s) => (d, s)
  else (.ok [], s)

/-- Writes a fill's bytes, and the full bit where it sets it, into a record (R132). -/
def State.putFill (s : State) (x : Spill) (f : RegFill) (got : List Ticket) : Direct × State :=
  match s.fillFinds x f got with
  | (.ok bs, s) => s.directWrite x.core x.part (s.fillBlocks x f (bs.headD 0)) got
  | (e, s) => (e, s)

/-- Fills that wait are written into a record in the order in which they came (R132). An access that fails is held, and its fill waits
for the wake. -/
def State.flushFills (s : State) (x : Spill) : List RegFill → State
  | [] => s.setSpill x { x with fills := [] }
  | f :: r =>
    let key := Errand.record x.core x.slot
    let got := s.gotBy key
    let y : Spill := { x with fills := f :: r }
    if !s.served key x.core x.part .read (s.fillReads x f) then (s.setSpill x y).askFor key x.core x.part .read (s.fillReads x f)
    else
      match s.fillFinds x f got with
      | (.ok bs, _) =>
        let ws := s.fillBlocks x f (bs.headD 0)
        if !s.servedWrite key x.core x.part ws then (s.setSpill x y).askWrite key x.core x.part ws
        else
          match (s.dropTicket key).putFill x f got with
          | (.ok _, s) => s.flushFills x r
          | (e, s) => (s.setSpill x y).spillFail y true e
      | (e, s) => ((s.dropTicket key).setSpill x y).spillFail y true e

/-- Bytes for a register of a thread that has left (R132): into the thread still being written, into its record, or kept for the restore
under way. -/
def State.fillAway (s : State) (x : Spill) (f : RegFill) : State :=
  let keep : Spill := { x with fills := x.fills ++ [f] }
  match x.phase with
  | 0 => (s.setSpill x { x with t := x.t.takeFill f }).modThread x.core x.slot fun t => if t.tid = x.tid then t.takeFill f else t
  | 1 => if x.held.isSome then s.setSpill x keep else (s.setSpill x keep).flushFills keep keep.fills
  | _ => s.setSpill x keep

/-- The record of a thread is written: the slot and its granules are free. -/
def State.spillOut (s : State) (x : Spill) : State :=
  let c := x.core
  let base := s.recordAt x.part x.prio.toNat x.off x.slot
  let key := Errand.record c x.slot
  let blocks := (s.record x.t x.ltc).map fun b => (base + b.1, b.2)
  if !s.servedWrite key c x.part blocks then s.askWrite key c x.part blocks
  else
    match (s.dropTicket key).directWrite c x.part blocks (s.gotBy key) with
    | (.ok _, s) =>
      let s := (s.setSpill x { x with phase := 1 }).vacate c x.slot
      (s.modCore c fun y => { y with handOver := y.handOver.map fun h => { h with gone := h.gone ++ [(x.prio, x.slot)] } }).endHandOver c
    | (e, s) => s.spillFail x true e

/-- SPILL_DONE: a record is written, or fills that wait for it are. -/
def execSpillDone (s : State) : Result :=
  given s .spillDone fun s =>
    let c := s.env.unit
    let k := s.env.sub
    match s.net.spills.find? fun x => x.core == c && x.slot == k && x.held.isNone && (x.phase == 0 || (x.phase == 1 && !x.fills.isEmpty)) with
    | none => s
    | some x => if x.phase = 0 then s.spillOut x else s.flushFills x x.fills

/-- The allocation, class and priority that a record's STATE word names (R136). -/
def Thread.allocOf (t : Thread) (w : Word) : Thread :=
  { t with supv := w.getLsbD 1, prio := BitVec.ofNat 2 (bitsOf w 3 2), gregs := bitsOf w 9 4, vregs := bitsOf w 14 10, tiles := bitsOf w 19 15 }

/-- The part of a record that is read after its first words, for a thread of this allocation. -/
def recordRanges (t : Thread) : List (Nat × Nat) :=
  [(512, 8 * t.gregs), (768, 64 * t.vregs), (1792, 176), (1968, 4 * t.tiles), (2048, 384)]
  ++ (List.range t.tiles).map fun n => (4096 + 4096 * n, 4096)

/-- Reads ranges into a buffer, and counts them. -/
def State.readRanges (s : State) (c p base : Nat) (bad : Bool) (ext : List Byte) (got : List Ticket) : List (Nat × Nat) → Nat → Sparse Byte →
    Direct × Nat × Sparse Byte × List Byte × State
  | [], k, b => (.ok [], k, b, ext, s)
  | (o, n) :: r, k, b =>
    match s.directRead c p (base + o) n bad ext got with
    | (.ok bs, ext, s) => s.readRanges c p base bad ext got r (k + 1) (putBuf b o bs)
    | (e, ext, s) => (e, k, b, ext, s)

def bufWord (b : Sparse Byte) (o : Nat) : Word := BitVec.ofNat 64 (bufNat b o 8)

/-- A table of `n` values. -/
def tableOf {α : Type} [DecidableEq α] (d : α) (n : Nat) (f : Nat → α) : Sparse α := (List.range n).foldl (fun t i => Sparse.put d t i (f i)) []

/-- The region that a record holds. -/
def recRegion (b : Sparse Byte) : Option Region :=
  if (bufWord b 24).getLsbD 20 then
    let mask := bufWord b 128
    some { rstart := bufWord b 40, mask := mask,
           g := (liveG mask).zipIdx.foldl (fun t (n, i) => Sparse.put 0 t n (bufWord b (2048 + 8 * i))) [],
           v := (liveV mask).zipIdx.foldl (fun t (n, i) => Sparse.put 0 t n (BitVec.ofNat 512 (bufNat b (2176 + 64 * i) 64))) [] }
  else none

/-- Restarts a region (R142): every due result is discarded, live-ins take their checkpoint, the guard closes, and counter 5
counts it. Child results stay due. -/
def Thread.restart (t : Thread) (r : Region) (kids : BitVec 32) : Thread :=
  let t := { t with gDue := t.gDue &&& kids, vDue := 0, mDue := 0, gcnt := 0, gcond := false, pc := r.rstart }
  let t := (liveG r.mask).foldl (fun t n => t.setG n (Sparse.get 0 r.g n)) t
  let t := (liveV r.mask).foldl (fun t n => t.setV n (Sparse.get 0 r.v n)) t
  t.count 5 1

/-- The thread that a record holds, for a thread of the allocation of `t` (R136), with the fills that came while it was read. Like what has
reached the record, they are in the registers that the restart of an open region then finds (R132, R142). -/
def recThread (t : Thread) (b : Sparse Byte) (fills : List RegFill) (kids : BitVec 32) : Thread :=
  let psw := bufWord b 8
  let full := bufWord b 32
  let u : Thread := { t with
    pc := bufWord b 0, mode := psw.getLsbD 0, gcnt := BitVec.ofNat 2 (bitsOf psw 2 1), gcond := psw.getLsbD 3,
    tid := bufWord b 16, named := (bufWord b 24).getLsbD 21,
    g := tableOf 0 t.gregs fun n => if n = 0 then 0 else bufWord b (512 + 8 * n),
    v := tableOf 0 t.vregs fun n => BitVec.ofNat 512 (bufNat b (768 + 64 * n) 64),
    m := tableOf 0 t.tiles fun n => BitVec.ofNat 32768 (bufNat b (4096 + 4096 * n) 4096),
    md := tableOf 0 t.tiles fun n => BitVec.ofNat 32 (bufNat b (1968 + 4 * n) 4),
    gEmpty := bclr (~~~full.setWidth 32) 0, vEmpty := ~~~(full >>> 32).setWidth 16, mEmpty := ~~~(full >>> 48).setWidth 16,
    gDue := kids, vDue := 0, mDue := 0,
    sg := tableOf 0 8 fun n => segClean (BitVec.ofNat 128 (bufNat b (1792 + 16 * n) 16)),
    fm := tableOf 0 4 fun n => BitVec.ofNat 32 (bufNat b (1920 + 4 * n) 4),
    sc := tableOf 0 4 fun n => bufWord b (1936 + 8 * n), cnt := tableOf 0 8 fun n => bufWord b (64 + 8 * n),
    avail := .rotation, region := none, chain := none }
  let u := fills.foldl Thread.takeFill u
  match recRegion b with
  | some r => { u.restart r kids with region := some r }
  | none => u

/-- Reads what is left of a record: its first words, which name the thread's allocation, and then what that allocation holds (R131, R136).
It gives what has been read with it: a read that has been performed is not made again. `got` is what other modules have replied. -/
def State.readRecord (s : State) (x : Spill) (got : List Ticket) : Direct × Spill × State :=
  let base := s.recordAt x.part x.prio.toNat x.off x.slot
  let rest (s : State) (n : Nat) (b : Sparse Byte) (ext : List Byte) : Direct × Spill × State :=
    match s.readRanges x.core x.part base s.env.bad ext got ((recordRanges (x.t.allocOf (bufWord b 24))).drop (n - 1)) n b with
    | (d, n, b, _, s) => (d, { x with seen := n, buf := b }, s)
  if x.seen = 0 then
    match s.readRanges x.core x.part base s.env.bad s.env.bytes got [(0, 136)] 0 x.buf with
    | (.ok _, n, b, ext, s) => rest s n b ext
    | (e, _, _, _, s) => (e, x, s)
  else rest s x.seen x.buf s.env.bytes

/-- What a restore still reads of its record. -/
def State.restoreBlocks (s : State) (x : Spill) : List (Nat × Nat) :=
  (((0, 136) :: recordRanges x.t).drop x.seen).map fun (b : Nat × Nat) => (s.recordAt x.part x.prio.toNat x.off x.slot + b.1, b.2)

/-- What a restore that has read its record writes there: VALID goes (R136). -/
def State.clearValid (s : State) (x : Spill) : List (Nat × List Byte) :=
  [(s.recordAt x.part x.prio.toNat x.off x.slot + 24, [bclr (BitVec.ofNat 8 (bufNat x.buf 24 1)) 0])]

/-- RESTORE_DONE: the record is read and its VALID cleared; the thread is in place (R127, R131, R138). -/
def execRestoreDone (s : State) : Result :=
  given s .restoreDone fun s =>
    let c := s.env.unit
    let k := s.env.sub
    match s.net.spills.find? fun x => x.core == c && x.slot == k && x.phase == 2 with
    | none => s
    | some x =>
      let key := Errand.record c k
      if x.held.isSome then s
      else if !s.served key c x.part .read (s.restoreBlocks x) then s.askFor key c x.part .read (s.restoreBlocks x)
      else
        match (s.dropTicket key).readRecord x (s.gotBy key) with
        | (.ok _, y, s1) =>
          if !s.servedWrite key c x.part (s.clearValid y) then s.askWrite key c x.part (s.clearValid y)
          else
          match s1.directWrite c x.part (s.clearValid y) (s.gotBy key) with
          | (.ok _, s2) =>
            let t := recThread (x.t.allocOf (bufWord y.buf 24)) y.buf x.fills (s.life x.tid).kids
            let s3 := if (bufWord y.buf 24).getLsbD 20 then s2.leaveWaits x.tid else s2
            ((s3.modNet fun n => { n with spills := n.spills.filter (· != x) }).place c k t)
          | (e, s2) => (s2.setSpill x y).spillFail y true e
        | (e, y, s1) => (s1.setSpill x y).spillFail y false e

/-! ### Parking (R137, R138) -/

/-- Records of the partition that an entry of a ready queue would restore. -/
def Entry.records (e : Entry) (p : Nat) : List (Nat × Nat × Nat) :=
  match e.kind with
  | .restore q r off slots => if q = p then slots.map fun k => (r.toNat, off, k) else []
  | _ => []

/-- The restores that wait in a core join the records that wait for the end of the park. -/
def State.takeRestores (s : State) (p c : Nat) : State :=
  let k := s.core c
  let keep (e : Entry) : Bool := (e.records p).isEmpty
  let s := s.modAux p fun a => { a with parked := a.parked ++ (k.ready ++ k.readyHo).flatMap (·.records p) }
  if (k.ready ++ k.readyHo).all keep then s
  else s.modCore c fun k => { k with ready := k.ready.filter keep, readyHo := k.readyHo.filter keep }

/-- PARK becomes 1: every core begins. -/
def State.park (s : State) (p : Nat) : State :=
  if (s.aux p).park then s
  else (s.coresOf p).foldl (fun s c => (s.takeRestores p c).beginPark p c) (s.modAux p fun a => { a with park := true })

/-- The records that a hand-over of the core has written so far. -/
def State.takeGone (s : State) (p c : Nat) : State :=
  match (s.core c).handOver with
  | none => s
  | some h =>
    if h.part = p ∧ h.gone ≠ [] then
      let off := c - (s.part p).base
      (s.modAux p fun a => { a with parked := a.parked ++ h.gone.map fun g => (g.1.toNat, off, g.2) }).modCore c fun k =>
        { k with handOver := some { h with gone := [] } }
    else s

/-- PARK becomes 0: every record restores at its shifted core. -/
def State.unpark (s : State) (p : Nat) : State :=
  if !(s.aux p).park then s
  else
    let s := (s.coresOf p).foldl (fun s c => s.takeGone p c) s
    let a := s.aux p
    let x := s.part p
    let s := s.modAux p fun a => { a with park := false, parked := [] }
    ((a.parked.map (·.2.1)).eraseDups).foldl (fun s off =>
      let gone := (a.parked.filter (·.2.1 == off)).map fun r => (BitVec.ofNat 2 r.1, r.2.2)
      s.placeRestores (x.base + (off + a.shift.toNat) % (Nat.max 1 x.len)) p off gone) s

/-- A write to PSCHED (R137): one that changes SHIFT against its conditions is ignored and sets PERR. -/
def State.writePsched (s : State) (p : Nat) (v : Word) : State :=
  let sh : BitVec 16 := (v >>> 16).setWidth 16
  if sh ≠ (s.aux p).shift ∧ !(s.parked p && sh.toNat < (s.part p).len) then s.perr p
  else
    let s := s.modAux p fun a => { a with shift := sh, bal := v.getLsbD 2 }
    if v.getLsbD 0 then s.park p else s.unpark p

def State.readPsched (s : State) (p : Nat) : Word :=
  let a := s.aux p
  BitVec.ofNat 64 ((if a.park then 1 else 0) + (if s.parked p then 2 else 0) + (if a.bal then 4 else 0) + 2 ^ 16 * a.shift.toNat)

def execPschedPark (s : State) : Result := given s .pschedPark fun s => s.park s.env.unit
def execPschedRestore (s : State) : Result := given s .pschedRestore fun s => s.unpark s.env.unit
def execPschedShift (s : State) : Result := given s .pschedShift fun s => s.writePsched s.env.unit s.env.val

/-- A hand-over or park on core `e` still has the context to write out, or has written it and not yet placed its entry. -/
def HandOver.holds (h : HandOver) (k : Core) (p q : Nat) : Bool :=
  h.part == p && (if h.park then (h.slots.any fun x => (k.thread x.1).any fun t => t.tid == x.2 && t.prio.toNat == q) || h.gone.any (·.1.toNat == q)
    else h.prio.toNat == q)

/-- A moved thread of the context. -/
def EntryKind.movesOf (p q : Nat) : EntryKind → Bool
  | .moved t => t.part == p && t.prio.toNat == q
  | _ => false

def MsgBody.movesOf (p q : Nat) : MsgBody → Bool
  | .thread t => t.part == p && t.prio.toNat == q
  | _ => false

/-- A park of the context is in progress: a started thread of it stands on a compute core, in a slot or a ready queue, or is on its way to
one, which the park will write out. -/
def State.parkHolds (s : State) (p q : Nat) : Bool :=
  (s.aux p).park && s.ctxValid p q
    && ((s.cores.any fun e => !isChan e.1 && ((e.2.slots.any fun x => x.2.part == p && x.2.prio.toNat == q)
        || (e.2.ready ++ e.2.readyHo).any fun x => x.kind.movesOf p q))
      || s.net.msgs.any fun m => !isChan m.target && m.body.movesOf p q)

/-- A record of the context awaits restore, or a hand-over or park of it is in progress (R123). -/
def State.ctxBusy (s : State) (p q : Nat) : Bool :=
  s.net.spills.any (fun x => x.part == p && x.prio.toNat == q) || s.parkHolds p q
    || s.cores.any fun e => e.2.handOver.any fun h => h.holds e.2 p q

def State.writeCtxbase (s : State) (p q : Nat) (v : Word) : State :=
  if s.ctxBusy p q then s
  else s.modAux p fun a => { a with ctxbase := Sparse.put 0 a.ctxbase q (v &&& 0xFFFFFFFFF0001) }

def execCtxbaseWrite (s : State) : Result := given s .ctxbaseWrite fun s => s.writeCtxbase s.env.unit s.env.sub s.env.val

/-! ### Balancing (R139, R140, R374) -/

/-- `loadq` of a core as it would read now. -/
def State.loadWord (s : State) (c : Nat) : Word :=
  let p := s.partOf c
  let own := (List.range 8).map fun i => (i, s.partOf (8 * (c / 8) + i) == p && p.isSome, (s.core (8 * (c / 8) + i)).load)
  let idle := (own.filter (·.2.1)).foldl (fun (b : Option (Nat × Nat)) x => match b with
    | some (_, n) => if x.2.2 < n then some (x.1, x.2.2) else b
    | none => some (x.1, x.2.2)) none
  BitVec.ofNat 64 ((own.map fun x => (if x.2.1 then x.2.2 else 31) * 2 ^ (5 * x.1)).sum + 2 ^ 40 * ((idle.map (·.1)).getD 0))

def loadField (w : Word) (i : Nat) : Nat := bitsOf w (5 * i + 4) (5 * i)
def idleField (w : Word) : Nat := bitsOf w 42 40

/-- LOADQ_UPDATE. -/
def execLoadqUpdate (s : State) : Result :=
  given s .loadqUpdate fun s =>
    (List.range 8).foldl (fun t i =>
      let c := 8 * s.env.unit + i
      if (s.partOf c).isSome then t.modCore c fun k => { k with loadq := s.loadWord c } else t) s

/-- The thread may be moved (R139). -/
def State.movable (s : State) (slot : Nat) (t : Thread) : Bool :=
  2 ≤ slot && t.avail == .rotation && !s.portHeld t.tid && t.asking == .no && (s.net.accs.all fun a => a.tid != t.tid) && !t.due && t.tiles == 0 && t.region.isNone
    && !t.named && t.chain.isNone

/-- Packs a thread into a message to another core (R139, R192). -/
def State.packTo (s : State) (c slot target : Nat) (t : Thread) : State :=
  (s.vacate c slot).post t.part none c slot .core target (.thread ({ t with resv := none, fence := none }.count 7 1))

/-- The thread is one that the core's hand-over or park writes out, which goes before a move (R139). -/
def Core.leaving (k : Core) (slot : Nat) (t : Thread) : Bool := k.handOver.any fun h => h.slots.contains (slot, t.tid)

/-- BALANCE_CHECK. -/
def execBalanceCheck (s : State) : Result :=
  given s .balanceCheck fun s =>
    let c := s.env.unit
    let k := s.core c
    match s.partOf c with
    | none => s
    | some p =>
      let me := loadField k.loadq (c % 8)
      let idle := idleField k.loadq
      let other := loadField k.loadq idle
      if isChan c ∨ s.now % 1024 ≠ 0 ∨ !(s.aux p).bal ∨ !s.places p ∨ !s.coreLive c ∨ other = 31 ∨ me < other + 4 then s
      else
        match (k.slots.filter fun e => s.movable e.1 e.2 && !k.leaving e.1 e.2).getLast? with
        | none => s
        | some (slot, t) => s.packTo c slot (8 * (c / 8) + idle) t

end Sys2Proof.Machine
end

