-- ==== Sys2Proof/Machine/Reaction.lean ====
section
/-! DEFINITION. Reaction programs (R144-R174): tokens and slices, the rule table, passes, logs and replay, firing, budgets,
detection waves, and the RXN instructions (R383-R389). -/

namespace Sys2Proof.Machine

/-! ### Tokens (R145, R146) -/

/-- Word `n` of a token or rule entry. -/
def tokWord (t : Vec) (n : Nat) : Word := (t >>> (64 * n)).setWidth 64
def tokKind (t : Vec) : Nat := bitsOf (tokWord t 0) 11 0
def tokNoid (t : Vec) : Bool := (tokWord t 0).getLsbD 19
def tokIdent (t : Vec) : Nat := bitsOf (tokWord t 0) 63 24

/-- Home slice of a key and kind among `n` slices. -/
def homeSlice (key : Word) (kind n : Nat) : Nat := (phash (key ^^^ BitVec.ofNat 64 (kind * 2 ^ 52))).toNat % n

/-- A token as emitted: the hardware writes PART, INIT, NOID and IDENT (R146). -/
def emitted (v : Vec) (p : Nat) (init noid : Bool) (ident : Nat) : Vec :=
  let w := tokWord v 0 &&& 0x300FFF
    ||| BitVec.ofNat 64 (p * 2 ^ 12 + (if init then 2 ^ 18 else 0) + (if noid then 2 ^ 19 else 0) + ident * 2 ^ 24)
  (v &&& ~~~(BitVec.allOnes 64).setWidth 512) ||| w.setWidth 512

/-! ### Rules (R152-R154) -/

def State.rule (s : State) (p i : Nat) : Vec := Sparse.get 0 (s.aux p).rules i
def ruleV (r : Vec) : Bool := r.getLsbD 0
def ruleArity (r : Vec) : Nat := bitsOf r 3 1
def rulePrio (r : Vec) : BitVec 2 := BitVec.ofNat 2 (bitsOf r 5 4)
def ruleJoin (r : Vec) : Bool := r.getLsbD 6
def ruleType (r : Vec) : Nat := bitsOf r 15 8
def ruleKind (r : Vec) (i : Nat) : Nat := bitsOf r (12 * i + 27) (12 * i + 16)

/-- One guard word is well formed for a rule of this arity. -/
def guardOk (g : Word) (arity : Nat) : Bool :=
  bitsOf g 63 32 == 0 && !g.getLsbD 15 && bitsOf g 3 1 != 7
    && (!g.getLsbD 9 || bitsOf g 14 10 == 0)
    && (!g.getLsbD 0 || (bitsOf g 5 4 < arity && 1 ≤ bitsOf g 8 6 && (g.getLsbD 9 || (bitsOf g 11 10 < arity && 1 ≤ bitsOf g 14 12))))

/-- The checks on a written entry with V = 1 (R152). -/
def ruleOk (r : Vec) : Bool :=
  let n := ruleArity r
  1 ≤ n && n ≤ 4 && ((List.range 4).all fun i => i < n || ruleKind r i == 0) && guardOk (tokWord r 1) n && guardOk (tokWord r 2) n
    && 0x40 ≤ ruleType r && !r.getLsbD 7 && r >>> 192 == 0

/-- A guard holds of a group. -/
def guardHolds (g : Word) (ts : List Vec) : Bool :=
  if !g.getLsbD 0 then true
  else
    let word (s w : Nat) : Word := tokWord (ts.getD s 0) w
    let op := bitsOf g 3 1
    let a := word (bitsOf g 5 4) (bitsOf g 8 6)
    let c : BitVec 16 := (g >>> 16).setWidth 16
    let b := if g.getLsbD 9 then (if op ≤ 3 then c.signExtend 64 else c.setWidth 64) else word (bitsOf g 11 10) (bitsOf g 14 12)
    match op with
    | 0 => a == b
    | 1 => a != b
    | 2 => a.slt b
    | 3 => !a.slt b
    | 4 => a.ult b
    | 5 => !a.ult b
    | 6 => a != 0 && b.toNat % a.toNat == 0
    | _ => false

/-- The group is enabled under a rule (R154). -/
def enabled (r : Vec) (ts : List Vec) : Bool :=
  ts.length == ruleArity r && (ts.zipIdx.all fun (t, i) => tokKind t == ruleKind r i)
    && (!ruleJoin r || ts.all fun t => tokWord t 1 == tokWord (ts.getD 0 0) 1)
    && guardHolds (tokWord r 1) ts && guardHolds (tokWord r 2) ts

/-- The first enabled group in stamp-sequence order: `n` slots are still to fill after those of `acc` (R160). -/
def searchGroup (r : Vec) (toks : List Token) : Nat → List Token → Option (List Token)
  | 0, acc => if enabled r (acc.map (·.word)) then some acc else none
  | n + 1, acc => toks.findSome? fun t =>
      if acc.contains t || tokKind t.word != ruleKind r acc.length
        || (ruleJoin r && acc.any fun u => tokWord u.word 1 != tokWord t.word 1) then none
      else searchGroup r toks n (acc ++ [t])

def firstGroup (r : Vec) (toks : List Token) : Option (List Token) := searchGroup r toks (ruleArity r) []

/-- Valid rules, ascending. -/
def State.validRules (s : State) (p : Nat) : List Nat := (List.range 256).filter fun i => ruleV (s.rule p i)

/-- The next valid rule after `r`, counting cyclically; `r` itself when there is no other. -/
def nextRule (valid : List Nat) (r : Nat) : Nat :=
  match valid.find? (r < ·) with
  | some i => i
  | none => valid.headD r

/-- Some valid rule has an enabled group in the slice. -/
def State.anyGroup (s : State) (p : Nat) (x : Slice) : Bool := (s.validRules p).any fun i => (firstGroup (s.rule p i) x.tokens).isSome

/-! ### Run states (R155, R156, R167, R168) -/

def RunState.code : RunState → Nat
  | .idle => 0
  | .running => 1
  | .stable => 2
  | .stopped => 3
  | .diverged => 4
  | .halted => 5

/-- The run status word (R168). -/
def Run.word (r : Run) : Word :=
  let stop := r.st = .stopped
  BitVec.ofNat 64 (r.st.code + (if stop then 2 ^ 3 * r.cause else 0)
    + (if (stop ∧ r.cause ≠ 0) ∨ r.st = .diverged then 2 ^ 16 * r.slice else 0) + 2 ^ 32 * r.number.toNat)

def State.modRun (s : State) (p : Nat) (f : Run → Run) : State := s.modAux p fun a => { a with run := f a.run }

/-- A message of the run to its owner: from the Mortise unit of slice `from_`, under a permit of its cluster; or, of what the partition as a
whole brings about, from the Carcass die of the owner's tower: DESIGN CHOICE, log entry 92. -/
def State.tellOwner (s : State) (p type : Nat) (from_ : Option Nat) (ws : List Nat) : State :=
  let owner := (s.aux p).run.owner
  s.postOwn p (if from_.isSome then .mortise else .service (towerOf owner)) (from_.map (s.sliceCore p)) owner
    (.table type (ws.map (BitVec.ofNat 64 ·)) [])

/-- Threads of the partition that wait in STABW. -/
def State.stabWaiters (s : State) (p : Nat) : Bool := s.lives.any fun e => e.2.part == p && e.2.inStabw && e.2.stab.isNone

/-- The run leaves RUNNING (or STOPPED): every waiter in STABW is given the word of that moment (R167). -/
def State.leaveRun (s : State) (p : Nat) (st : RunState) (cause slice : Nat) : State :=
  let s := s.modRun p fun r => { r with st := st, cause := cause, slice := slice, wave := none, prev := none, waveDue := 0 }
  let w := (s.aux p).run.word
  { s with lives := s.lives.map fun e =>
      if e.2.part = p ∧ e.2.inStabw ∧ e.2.stab.isNone then (e.1, { e.2 with stab := some w }) else e }

/-- A stop (R156). -/
def State.stopRun (s : State) (p cause slice : Nat) : State :=
  let r := (s.aux p).run
  if r.st = .running then
    (s.leaveRun p .stopped cause slice).tellOwner p 0x0A (if cause = 0 then none else some slice)
      [r.number.toNat, cause, if cause = 0 then 0 else slice]
  else s

/-- Divergence in a slice (R174). -/
def State.diverge (s : State) (p slice : Nat) : State :=
  let r := (s.aux p).run
  if r.st = .running then
    (s.leaveRun p .diverged 0 slice).tellOwner p 0x0C (some slice) [r.number.toNat, slice, ((s.aux p).slice slice).head]
  else s

/-- Every slice may begin a pass (R159). -/
def State.dueAll (s : State) (p : Nat) : State :=
  (List.range (s.sliceCount p)).foldl (fun s i => s.modSlice p i fun x => { x with due := true }) s

/-- The run returns to RUNNING. -/
def State.resumeRun (s : State) (p : Nat) : State :=
  (s.modRun p fun r => { r with st := .running, cause := 0, slice := 0, wave := none, prev := none, waveDue := 0 }).dueAll p

/-! ### Insertion (R148, R150, R151) -/

/-- The emitter's thread has its acknowledgement. -/
def State.ackEmit (s : State) (t : Transfer) : State :=
  match s.thread t.core t.slot with
  | some u => if u.tid = t.tid then s.setThread t.core t.slot { u.advance with from_ := Nat.max u.from_ (s.now + 1) } else s
  | none => s

/-- TOKEN_INSERT: the oldest arrival takes a free entry. -/
def State.insertToken (s : State) (p i : Nat) : State :=
  let x := (s.aux p).slice i
  match x.inbox with
  | [] => s
  | t :: r =>
    if x.tokens.length ≥ 4096 then s
    else
      let s := s.modSlice p i fun x =>
        { x with inbox := r, tokens := x.tokens ++ [{ word := t.word, stamp := x.stamp + 1 }], stamp := x.stamp + 1, recv := x.recv + 1,
                 due := true }
      let s := match s.net.reqs.find? (·.id == t.req) with
        | some q => s.endReq q
        | none => s
      s.ackEmit t

def execTokenInsert (s : State) : Result := given s .tokenInsert fun s => s.insertToken s.env.unit s.env.sub

/-- SLICE_WAIT_TIMEOUT (R151). -/
def execSliceWaitTimeout (s : State) : Result :=
  given s .sliceWaitTimeout fun s =>
    if ((s.aux s.env.unit).slice s.env.sub).inbox.any fun t => t.waited ≥ 65536 then s.stopRun s.env.unit 1 s.env.sub else s

/-! ### Logs (R170-R173) -/

/-- Moves to the next descriptor when the current region is used up. -/
def Slice.turnLog (x : Slice) : Slice :=
  match x.cur, x.nxt with
  | some c, some n => if c.used ≥ c.len then { x with cur := some n, nxt := none } else x
  | _, _ => x

/-- Records that the slice can still write without stopping. -/
def Slice.freeRecords (x : Slice) : Nat :=
  (match x.cur with
    | some c => c.len - c.used
    | none => 0)
  + match x.nxt with
    | some n => n.len
    | none => 0

/-- The slice stops on its log: message 0x0B (R172). -/
def State.logFull (s : State) (p i : Nat) : State :=
  let x := (s.aux p).slice i
  if x.logStop then s
  else
    (s.modSlice p i fun x => { x with logStop := true }).tellOwner p 0x0B (some i) [(s.aux p).run.number.toNat, i, x.written]

/-- A log record (R171). -/
def logRecord (rule ordinal slice arity : Nat) (ids : List Nat) (run : BitVec 32) : Nat :=
  rule + 2 ^ 8 * ordinal + 2 ^ 32 * slice + 2 ^ 44 * arity + ((ids.zipIdx).map fun (d, k) => d * 2 ^ (64 + 40 * k)).sum
    + run.toNat * 2 ^ 224

def State.logNeed (s : State) (p : Nat) : Need := if (s.aux p).run.mode = 1 then .write else .read

/-- Where the records of the slice's log lie from number `k` after those used, `n` of them, through the next region (R170, R171). -/
def Slice.records (x : Slice) (k n : Nat) : List (Nat × Nat) :=
  ((((x.cur.toList ++ x.nxt.toList).flatMap fun c => (List.range (Nat.min (c.len - c.used) (k + n))).map fun j => c.base + 32 * (c.used + j)).drop
    k).take n).map fun da => (da, 32)

/-- Writes the record of a group; false where the write fails, which is handled as log full. -/
def State.writeLog (s : State) (p i rule : Nat) (ts : List Token) : Bool × State :=
  let x := (s.aux p).slice i
  match x.cur with
  | none => (false, s)
  | some c =>
    let w := logRecord rule x.ordinal i ts.length (ts.map fun t => tokIdent t.word) (s.aux p).run.number
    match s.directWrite (s.sliceCore p i) p [(c.base + 32 * c.used, leBytes 32 w)] (s.gotBy (.log p i)) with
    | (.ok _, s) => (true, s.modSlice p i fun x => Slice.turnLog { x with cur := some { c with used := c.used + 1 }, written := x.written + 1 })
    | (_, s) => (false, s)

/-- What the head record of a replayed slice says. -/
inductive Head where
  /-- The records are used up. -/
  | none
  /-- The read failed: the rest of the region and the next descriptor are lost. -/
  | lost
  /-- A token that it names is not resident. -/
  | wait
  | diverge
  | group (rule : Nat) (ts : List Token)
  deriving DecidableEq, Repr

/-- Resident tokens by ident, each the oldest not yet taken. -/
def namedTokens (toks : List Token) : List Nat → List Token → Option (List Token)
  | [], acc => some acc
  | d :: r, acc =>
    match toks.find? fun t => tokIdent t.word == d && !acc.contains t with
    | some t => namedTokens toks r (acc ++ [t])
    | none => Option.none

/-- Judges a record against the slice (R173, R174). -/
def State.judge (s : State) (p i w : Nat) : Head :=
  let x := (s.aux p).slice i
  let r := hdrField w 7 0
  let n := hdrField w 46 44
  let rule := s.rule p r
  if hdrField w 43 32 ≠ i ∨ hdrField w 30 8 ≠ x.ordinal ∨ !ruleV rule ∨ n ≠ ruleArity rule then .diverge
  else
    match namedTokens x.tokens ((List.range n).map fun k => hdrField w (103 + 40 * k) (64 + 40 * k)) [] with
    | Option.none => .wait
    | some ts => if enabled rule (ts.map (·.word)) then .group r ts else .diverge

/-- The head record of a slice (R173): read once, it is kept until it is taken (log entry 102). A later read goes on in what the environment
has fixed. -/
def State.readHead (s : State) (p i : Nat) : Head × State :=
  let x := (s.aux p).slice i
  match x.headRec, x.cur with
  | some w, _ => (s.judge p i w, s)
  | Option.none, Option.none => (.none, s)
  | Option.none, some c =>
    if c.used ≥ c.len then (.none, s)
    else
      match s.directRead (s.sliceCore p i) p (c.base + 32 * c.used) 32 s.env.bad s.env.bytes (s.gotBy (.log p i)) with
      | (.ok bs, ext, s) =>
        (s.judge p i (leNat bs), (({ s with env := { s.env with bytes := ext } } : State).modSlice p i fun x => { x with headRec := some (leNat bs) }))
      | (_, _, s) => (.lost, s)

/-! ### Passes (R158-R161, R164) -/

/-- Holds a group: its tokens leave their entries, it is numbered and enters the fire queue. -/
def State.holdGroup (s : State) (p i rule : Nat) (ts : List Token) : State :=
  let r := s.rule p rule
  let run := (s.aux p).run.number
  let s := s.modSlice p i fun x =>
    { x with tokens := x.tokens.filter fun t => !ts.contains t, ordinal := x.ordinal + 1,
             fire := x.fire ++ [{ rule := rule, mtype := ruleType r, prio := rulePrio r, run := run, ordinal := x.ordinal,
                                  toks := ts.map (·.word), ctx := (s.aux p).run.ctx }] }
  (s.modRun p fun y => { y with picked := y.picked + 1 }).charge p 7 1

/-- Picks groups of one rule while the grant allows: how much of the grant is left, and whether the log stopped the pass. -/
def State.pickRule (s : State) (p i rule : Nat) : Nat → Nat × Bool × State
  | 0 => (0, false, s)
  | g + 1 =>
    let x := (s.aux p).slice i
    if x.ordinal ≥ 2 ^ 23 then (g + 1, false, s)
    else
      match firstGroup (s.rule p rule) x.tokens with
      | none => (g + 1, false, s)
      | some ts =>
        if (s.aux p).run.mode = 1 then
          match s.writeLog p i rule ts with
          | (true, s) => (s.holdGroup p i rule ts).pickRule p i rule g
          | (false, s) => (g + 1, true, s.logFull p i)
        else (s.holdGroup p i rule ts).pickRule p i rule g

/-- The sweep over the valid rules from `r`. -/
def State.sweep (s : State) (p i : Nat) (valid : List Nat) : Nat → Nat → Nat → Nat × State
  | 0, _, grant => (grant, s)
  | n + 1, r, grant =>
    match s.pickRule p i r grant with
    | (left, true, s) => (left, s)
    | (left, false, s) => s.sweep p i valid n (nextRule valid r) left

/-- The head record is taken. -/
def Slice.takeRecord (x : Slice) : Slice :=
  Slice.turnLog { x with cur := x.cur.map (fun c => { c with used := c.used + 1 }), head := x.head + 1, headRec := Option.none }

/-- A pass of a replayed slice: records are taken while the grant allows. -/
def State.replayPass (s : State) (p i : Nat) : Nat → Nat × State
  | 0 => (0, s)
  | g + 1 =>
    if ((s.aux p).slice i).ordinal ≥ 2 ^ 23 then (g + 1, s)
    else
    match s.readHead p i with
    | (.group r ts, s) =>
      ((s.modSlice p i Slice.takeRecord).holdGroup p i r ts).replayPass p i g
    | (.diverge, s) => (g + 1, s.diverge p i)
    | (.lost, s) => (g + 1, (s.modSlice p i fun x => { x with nxt := none }).logFull p i)
    | (.none, s) => (g + 1, if s.anyGroup p ((s.aux p).slice i) then s.logFull p i else s)
    | (.wait, s) => (g + 1, s)

/-- The grant of a pass, with the budget it takes (R160, R164). -/
def State.passGrant (s : State) (p i : Nat) : Nat :=
  let a := s.aux p
  let x := a.slice i
  let n := 16 - x.fire.length
  let n := if a.run.mode = 1 then Nat.min n x.freeRecords else n
  match a.run.left with
  | some b => Nat.min n b
  | none => n

/-- A pass that has filled its log stops its slice at once (R172). Where the budget is spent with it, the run stays RUNNING (R398): the slice
holds its grant until its next pass (R164), DEDUCED, log entry 103. -/
def State.endLog (s : State) (p i : Nat) : State :=
  if (s.aux p).run.mode = 1 ∧ ((s.aux p).slice i).freeRecords = 0 then
    (s.logFull p i).modSlice p i fun x => { x with holds := (s.aux p).run.left == some 0 }
  else s

/-- The budget is spent, and no slice holds a grant (R164). -/
def PartAux.spent (a : PartAux) : Bool := a.run.left == some 0 && !a.slices.any (·.2.holds)

/-- One pass of a slice (R160); the budget is charged with what it picked. -/
def State.pass (s : State) (p i : Nat) : State :=
  let a := s.aux p
  let s := s.modSlice p i fun x => { x with due := false, holds := false }
  if a.run.mode = 1 ∧ (a.slice i).freeRecords = 0 then s.logFull p i
  else
    let grant := s.passGrant p i
    let valid := s.validRules p
    let (left, s) := if a.run.mode = 2 then s.replayPass p i grant else s.sweep p i valid valid.length (a.slice i).rho grant
    let s := s.modRun p fun r => { r with left := r.left.map fun b => b - (grant - left) }
    let s := s.modSlice p i fun x => { x with rho := nextRule valid x.rho, due := x.due || left == 0 }
    let s := s.endLog p i
    if ((s.aux p).slice i).ordinal ≥ 2 ^ 23 then s.stopRun p 2 i
    else if (s.aux p).spent then s.stopRun p 0 0
    else s

/-- The log records that a pass that is made now writes or reads: those that it writes or takes, and the head that it reads and leaves or
loses. -/
def State.logBlocks (s : State) (p i : Nat) : List (Nat × Nat) :=
  let x := (s.aux p).slice i
  let y := ((s.pass p i).aux p).slice i
  let had := if x.headRec.isSome then 1 else 0
  let more := if y.headRec.isSome || (y.logStop && y.cur.any fun c => c.used < c.len) then 1 else 0
  x.records had ((y.written - x.written) + (y.head - x.head) + more - had)

/-- The records that a pass that is made now writes, with their bytes: those of the groups that it holds (R171, R172). -/
def State.logWrites (s : State) (p i : Nat) : List (Nat × List Byte) :=
  let x := (s.aux p).slice i
  let fs := (((s.pass p i).aux p).slice i).fire.drop x.fire.length
  ((x.records 0 fs.length).zip fs).map fun (b, f) =>
    (b.1, leBytes 32 (logRecord f.rule f.ordinal i f.toks.length (f.toks.map tokIdent) f.run))

/-- What such a pass writes or reads over Byand. -/
def State.logAways (s : State) (p i : Nat) : List Away :=
  if (s.aux p).run.mode = 1 then s.awayWrites (s.sliceCore p i) p (s.logWrites p i) else s.awayReads (s.sliceCore p i) p (s.logBlocks p i)

def State.logLines (s : State) (p i : Nat) : List (Home × Nat) := s.linesOf (s.sliceCore p i) p (s.logNeed p) (s.logBlocks p i)

/-- MORTISE_PASS: a pass is made once its log records have had their turns (R47, R170). Of those in another module each is written, or read,
once the one before has come back (R172); a pass counts on a write that has not come back to succeed. -/
def execMortisePass (s : State) : Result :=
  given s .mortisePass fun s =>
    let p := s.env.unit
    let i := s.env.sub
    let key := Errand.log p i
    if !s.mayPass p i then s
    else if s.turnsHad key (s.logLines p i) && s.awayHad key (s.logAways p i) then (s.pass p i).dropTicket key
    else
      (s.askLines key (s.sliceCore p i) p (s.logLines p i)).askAways key (s.sliceCore p i) p
        (((s.logAways p i).filter fun x => (x.reply (s.gotBy key)).isNone).take 1)

/-! ### Firing (R156, R157) -/

/-- The core's vector-table entry for a type: its word and its header, when it is valid. -/
def Core.entry (k : Core) (ty : Nat) : Option (Word × KHdr) :=
  let w := Sparse.get 0 k.vec ty
  if w.getLsbD 0 then (Sparse.find? k.vhdr ty).map fun h => (w, h) else none

/-- The entry can start a body. -/
def Core.bodyEntry (k : Core) (ty : Nat) : Option KHdr :=
  match k.entry ty with
  | some (_, h) => if h.vregs ≠ 0 then some h else none
  | none => none

def State.freeSlotOf (s : State) (c : Nat) (supv : Bool) : Bool := (List.range 16).any fun k => slotClass supv k && s.slotFree c k

/-- LOAD of a core, as `loadq` of its cluster has it (R140). -/
def State.loadOf (s : State) (c : Nat) : Nat := loadField (s.core c).loadq (c % 8)

/-- Lowest LOAD, then lowest core. -/
def State.lowestLoad (s : State) : List Nat → Option Nat
  | [] => none
  | c :: r =>
    match s.lowestLoad r with
    | none => some c
    | some d => if s.loadOf d < s.loadOf c then some d else some c

/-- A run stopped because the slice's head found no core keeps that head until it resumes (R156). -/
def Run.keepsHead (r : Run) (i : Nat) : Bool := r.st == .stopped && r.cause == 3 && r.slice == i

/-- FIRE_SEND: the head of a slice's fire queue goes to a core of its cluster, in the context of the run that picked it. -/
def State.fireHead (s : State) (p i : Nat) : State :=
  let a := s.aux p
  match (a.slice i).fire with
  | [] => s
  | f :: r =>
    if a.run.keepsHead i then s
    else
    let base := s.sliceCore p i
    let able := ((List.range 8).map (base + ·)).filter fun c => ((s.core c).bodyEntry f.mtype).isSome
    if able.isEmpty then s.stopRun p 3 i
    else
      match s.lowestLoad (able.filter fun c => ((s.core c).bodyEntry f.mtype).any fun h => s.freeSlotOf c h.supv) with
      | none => s
      | some c =>
        let life : Life := { Life.reset with part := p, body := some (i, f.ordinal, 0, f.run.toNat) }
        let s := s.modSlice p i fun x => { x with fire := r, bodies := x.bodies + 1 }
        s.post p none base 0 .mortise c (.fire f.mtype f.prio [BitVec.ofNat 64 f.rule, f.run.setWidth 64, BitVec.ofNat 64 f.ordinal] f.toks
          life f.ctx.sg f.ctx.fm f.ctx.sc)

def execFireSend (s : State) : Result :=
  given s .fireSend fun s => if s.env.sub < s.sliceCount s.env.unit then s.fireHead s.env.unit s.env.sub else s

/-! ### Detection waves (R165, R166, R174) -/

/-- What a slice reports: PASSIVE or WAIT (R165, R173). A replayed slice answers by the head record that it has read; one that waits for RLOGM,
or has still to read its head, reports neither: log entry 102. -/
def State.sample (s : State) (p i : Nat) : Bool × Bool :=
  let a := s.aux p
  let x := a.slice i
  let quiet := x.fire.isEmpty && x.bodies == 0 && x.inbox.isEmpty
  let passive := quiet && !s.anyGroup p x
  if a.run.mode ≠ 2 then (passive, false)
  else if x.logStop then (false, false)
  else
    match x.headRec with
    | some w => (false, quiet && s.judge p i w == .wait)
    | none => (passive && !x.cur.any (fun c => c.used < c.len), false)

/-- Samples of every reporter, taken now. -/
def State.samples (s : State) (p : Nat) : Wave :=
  let xs := List.range (s.sliceCount p)
  let rs := xs.map fun i => (i, s.sample p i)
  { sent := (s.aux p).sent, recv := (xs.map fun i => ((s.aux p).slice i).recv).sum, passive := rs.all (·.2.1),
    quiet := rs.all fun r => r.2.1 || r.2.2, waits := (rs.filter (·.2.2)).map (·.1) }

/-- A wave samples every reporter once. -/
def State.takeWave (s : State) (p : Nat) : State := s.modRun p fun r => { r with wave := some (s.samples p) }

/-- No token is in flight, no body runs and no group is enabled now (R166). -/
def State.calm (s : State) (p : Nat) : Bool := (s.samples p).passive && (s.samples p).sent == (s.samples p).recv

/-- DETECTION_WAVE_START: a later wave starts 256 cycles after the one before (R165). -/
def execDetectionWaveStart (s : State) : Result :=
  given s .detectionWaveStart fun s =>
    let p := s.env.unit
    let r := (s.aux p).run
    if r.st = .running ∧ r.wave.isNone ∧ r.waveDue ≤ s.now then s.takeWave p else s

/-- DETECTION_WAVE_COMPLETE: two like waves decide; STABLE is not declared where a token has left since the second was sampled (R166). -/
def State.endWave (s : State) (p : Nat) : State :=
  let r := (s.aux p).run
  match r.wave with
  | none => s
  | some w =>
    let s := s.modRun p fun r => { r with wave := none, prev := some w, waveDue := s.now + 256 }
    match r.prev with
    | none => s
    | some v =>
      let same := w.sent == w.recv && v.sent == v.recv && w.sent == v.sent
      if same ∧ w.passive ∧ v.passive then
        if !s.calm p then s
        else
        let told := s.stabWaiters p
        let s := s.leaveRun p .stable 0 0
        if told then s else s.tellOwner p 0x0D none [r.number.toNat, r.picked]
      else if same ∧ w.quiet ∧ v.quiet ∧ w.waits ≠ [] ∧ v.waits ≠ [] then s.diverge p (w.waits.headD 0)
      else s

def execDetectionWaveComplete (s : State) : Result := given s .detectionWaveComplete fun s => s.endWave s.env.unit

/-! ### Instructions: emission (R147-R149, R383) -/

/-- Record or replay mode of a run that is RUNNING or STOPPED. -/
def Run.strict (r : Run) : Bool := (r.mode == 1 || r.mode == 2) && (r.st == .running || r.st == .stopped)

/-- Emits a token: the transfer leaves as soon as it has a permit of its home cluster, and the thread waits for the acknowledgement. -/
def emitToken (s : State) (t : Thread) (w : Vec) (init noid : Bool) (ident : Nat) : Out :=
  let p := t.part
  let n := s.sliceCount p
  let c := s.cur.core
  let tok := emitted w p init noid ident
  let i := homeSlice (tokWord tok 1) (tokKind tok) n
  let home : Home := .spad (s.sliceCore p i)
  if s.unperformed t.tid then .fence s
  else
    let r : Req := { id := s.fresh, acc := 0, piece := 0, part := p, cluster := permitPort c, slice := home, core := c, slot := s.cur.slot, asked := s.now }
    let h : Header := { id := s.fresh, part := p, op := .write 64 tok, loc := spadLoc (s.sliceCore p i) 0, home := home, dest := 0, expiry := none,
                        uncmb := true, mems := [s.fresh], extra := 0, src := .token i t.tid }
    let s := s.here fun t => t.closeRegion.noResv
    let s : State := { s with fresh := s.fresh + 1, net := { s.net with reqs := s.net.reqs ++ [r], port := s.net.port ++ [h] } }
    let s := s.modAux p fun a => { a with sent := a.sent + 1 }
    let s := match (s.life t.tid).body with
      | some (j, o, k, u) => s.modLife t.tid fun l => { l with body := some (j, o, k + 1, u) }
      | none => s
    .start (s.grantPermits (permitPort c) home) .memory

def execTemit (a : BitVec 4) (s : State) : Result :=
  issue s { vR := [a.toNat] } fun t =>
    let w := t.vr a.toNat
    let run := (s.aux t.part).run
    if bitsOf w 23 22 ≠ 0 ∨ s.sliceCount t.part = 0 then .trap 2 0 0
    else
      match (s.life t.tid).body with
      | some (i, o, k, _) => if k ≥ 16 then .trap 2 0 0 else emitToken s t w false false (2 ^ 39 + i * 2 ^ 27 + o * 2 ^ 4 + k)
      | none => if run.strict then .trap 2 0 0 else emitToken s t w false true 0

def execTemiti (a : BitVec 4) (b : BitVec 5) (s : State) : Result :=
  issue s { vR := [a.toNat], gR := [b.toNat] } fun t =>
    let w := t.vr a.toNat
    let ident := t.gr b.toNat
    if bitsOf w 23 22 ≠ 0 ∨ s.sliceCount t.part = 0 ∨ bitsOf ident 63 39 ≠ 0 ∨ (s.life t.tid).body.isSome then .trap 2 0 0
    else emitToken s t w true false ident.toNat

/-! ### Instructions: reading tokens (R384) -/

/-- An RXN form that acts on slice `i`: an ordinary access there (R355), which has its turn at the slice before it is served. -/
def sliceForm (s : State) (t : Thread) (i : Nat) (closes : Bool) (f : State → State) : Out :=
  let key := Errand.slice s.cur.core s.cur.slot
  let ls : List (Home × Nat) := [(.spad (s.sliceCore t.part i), spadLoc (s.sliceCore t.part i) 0)]
  if s.unperformed t.tid then .fence s
  else if s.turnsHad key ls then .retire (f ((s.dropTicket key).here fun t => (if closes then t.closeRegion else t).noResv))
  else .fence (s.askLines key s.cur.core t.part ls)

/-- An RXN form that acts on the run or its rules (R355): an ordinary access to slice 0, and at once where the partition has no slice: DESIGN
CHOICE, log entry 18. -/
def rxnForm (s : State) (t : Thread) (closes : Bool) (f : State → State) : Out :=
  if s.sliceCount t.part ≠ 0 then sliceForm s t 0 closes f
  else if s.unperformed t.tid then .fence s
  else .retire (f (s.here fun t => (if closes then t.closeRegion else t).noResv))

/-- The selector word is well formed for a partition of `n` slices. -/
def selectOk (w : Word) (n : Nat) : Bool :=
  n != 0 && bitsOf w 15 13 == 0 && bitsOf w 63 28 == 0 && bitsOf w 27 16 < n && (w.getLsbD 12 || bitsOf w 27 16 == 0)

/-- The slice that a key and selector word name. -/
def State.namedSlice (s : State) (p : Nat) (key w : Word) : Nat :=
  if w.getLsbD 12 then bitsOf w 27 16 else homeSlice key (bitsOf w 11 0) (s.sliceCount p)

/-- The slice and the oldest resident token that a key and selector word name. -/
def State.findToken (s : State) (p : Nat) (key w : Word) : Nat × Option Token :=
  (s.namedSlice p key w, ((s.aux p).slice (s.namedSlice p key w)).tokens.find? fun t =>
    tokKind t.word == bitsOf w 11 0 && (w.getLsbD 12 || tokWord t.word 1 == key))

def readToken (s : State) (d : BitVec 4) (a b : BitVec 5) (remove : Bool) : Result :=
  issue s { gR := [a.toNat, b.toNat], vW := [d.toNat] } fun t =>
    let w := t.gr b.toNat
    if !selectOk w (s.sliceCount t.part) then .trap 2 0 0
    else
      sliceForm s t (s.namedSlice t.part (t.gr a.toNat) w) remove fun s =>
        match s.findToken t.part (t.gr a.toNat) w with
        | (_, none) => s.here (·.setV d.toNat (BitVec.allOnes 512))
        | (i, some k) =>
          let s := s.here (·.setV d.toNat k.word)
          if remove then s.modSlice t.part i fun x => { x with tokens := x.tokens.erase k } else s

def execTgrab (d : BitVec 4) (a b : BitVec 5) (s : State) : Result := readToken s d a b true
def execTpeek (d : BitVec 4) (a b : BitVec 5) (s : State) : Result := readToken s d a b false

/-! ### Instructions: rules and runs (R152, R164, R169, R385, R386) -/

/-- The run is in a state that lets the rule table and current logs be written. -/
def RunState.open_ : RunState → Bool
  | .running | .stopped => false
  | _ => true

def execRulew (a : BitVec 5) (b : BitVec 4) (s : State) : Result :=
  issue s { gR := [a.toNat], vR := [b.toNat] } fun t =>
    let i := t.gr a.toNat
    let r := t.vr b.toNat
    if bitsOf i 63 8 ≠ 0 ∨ (ruleV r ∧ !ruleOk r) then .trap 2 0 0
    else if !(s.aux t.part).run.st.open_ then .trap 5 0 0
    else
      rxnForm s t true fun s => s.modAux t.part fun x => { x with rules := Sparse.put 0 x.rules i.toNat (if ruleV r then r else 0) }

/-- Some valid rule's type has no usable entry on some core of some slice. -/
def State.missingEntry (s : State) (p : Nat) : Bool :=
  (s.validRules p).any fun i => (s.sliceClusters p).any fun cl => (List.range 8).any fun j =>
    ((s.core (8 * cl + j)).bodyEntry (ruleType (s.rule p i))).isNone

/-- Why a run is refused; 0: it is accepted. -/
def State.refuseRun (s : State) (p mode : Nat) : Nat :=
  let a := s.aux p
  let xs := (List.range (s.sliceCount p)).map a.slice
  let strict := mode == 1 || mode == 2
  if !a.run.st.open_ then 1
  else if xs.isEmpty then 2
  else if mode = 0 ∧ (s.part p).det then 3
  else if s.missingEntry p then 4
  else if mode = 3 then 5
  else if strict ∧ xs.any (fun x => x.tokens.any (tokNoid ·.word) || x.inbox.any (tokNoid ·.word)) then 6
  else if strict ∧ xs.any (fun x => x.cur.isNone) then 7
  else 0

/-- An accepted run starts (R155, R159, R164, R386). -/
def State.startRun (s : State) (t : Thread) (start mode : Nat) : State :=
  let p := t.part
  let valid := s.validRules p
  let rho := if valid.contains start then start else nextRule valid start
  let s := s.modRun p fun r =>
    { r with number := r.number + 1, st := .running, cause := 0, slice := 0, owner := s.cur.core, ctx := { sg := t.sg, fm := t.fm, sc := t.sc },
             mode := mode, armed := none, left := r.armed, picked := 0, wave := none, prev := none, waveDue := 0 }
  (List.range (s.sliceCount p)).foldl (fun s i => s.modSlice p i fun x =>
    { x with rho := rho, ordinal := 0, due := true, logStop := false, written := 0, head := 0, headRec := none, holds := false,
             inbox := x.inbox.map fun t => { t with waited := 0 } }) s

def execRrun (d a : BitVec 5) (s : State) : Result :=
  issue s { gR := [a.toNat], gW := [d.toNat] } fun t =>
    let w := t.gr a.toNat
    if bitsOf w 63 10 ≠ 0 then .trap 2 0 0
    else
      rxnForm s t true fun s =>
        let n := s.refuseRun t.part (bitsOf w 9 8)
        if n ≠ 0 then s.here (·.setG d.toNat (BitVec.ofNat 64 (n * 2 ^ 32)))
        else
          let s := s.startRun t (bitsOf w 7 0) (bitsOf w 9 8)
          s.here (·.setG d.toNat ((s.aux t.part).run.number.setWidth 64))

def execRhalt (s : State) : Result :=
  issue s {} fun t =>
    rxnForm s t true fun s => if (s.aux t.part).run.st.open_ then s else s.leaveRun t.part .halted 0 0

/-- Item words of RSTAT (R387). -/
def State.statistic (s : State) (p item i : Nat) : Word :=
  let a := s.aux p
  let x := a.slice i
  match item with
  | 0 => BitVec.ofNat 64 a.run.picked
  | 1 => match a.run.left with
    | some b => BitVec.ofNat 64 b
    | none => BitVec.allOnes 64
  | 2 => BitVec.ofNat 64 x.tokens.length
  | 3 => BitVec.ofNat 64 x.inbox.length
  | 4 => BitVec.ofNat 64 x.rho
  | 5 => BitVec.ofNat 64 x.ordinal
  | _ => BitVec.ofNat 64 ((x.cur.map (·.used)).getD 0)

def execRstat (d a : BitVec 5) (s : State) : Result :=
  issue s { gR := [a.toNat], gW := [d.toNat] } fun t =>
    let w := t.gr a.toNat
    let item := bitsOf w 3 0
    let i := bitsOf w 27 16
    if bitsOf w 15 4 ≠ 0 ∨ bitsOf w 63 28 ≠ 0 ∨ item > 6 ∨ (item ≥ 2 ∧ i ≥ s.sliceCount t.part) then .trap 2 0 0
    else
      let f (s : State) : State := s.here (·.setG d.toNat (s.statistic t.part item i))
      if item < 2 then rxnForm s t false f else sliceForm s t i false f

def execRbudg (a : BitVec 5) (s : State) : Result :=
  issue s { gR := [a.toNat] } fun t =>
    let w := t.gr a.toNat
    let b := if w = 0 then none else some w.toNat
    if bitsOf w 63 40 ≠ 0 then .trap 2 0 0
    else
      rxnForm s t true fun s =>
        match (s.aux t.part).run.st with
        | .running => s.modRun t.part fun r => { r with left := b }
        | .stopped => (s.modRun t.part fun r => { r with left := b }).resumeRun t.part
        | _ => s.modRun t.part fun r => { r with armed := b }

/-- A log descriptor is given to a slice (R170). A replayed slice whose records were used up goes on with it in a pass (R173): DEDUCED, log
entry 111. -/
def Slice.giveLog (x : Slice) (r : Run) (l : Log) : Slice :=
  if x.logStop then { x with cur := some l, headRec := none, logStop := false, due := true }
  else if r.st.open_ then { x with cur := some l, headRec := none }
  else
    let spent := x.cur.all fun c => c.used ≥ c.len
    Slice.turnLog { x with nxt := some l, due := x.due || (spent && r.mode == 2) }

def execRlogm (a b : BitVec 5) (s : State) : Result :=
  issue s { gR := [a.toNat, b.toNat] } fun t =>
    let w := t.gr a.toNat
    let base := t.gr b.toNat
    let i := bitsOf w 11 0
    if bitsOf w 15 12 ≠ 0 ∨ bitsOf w 63 40 ≠ 0 ∨ bitsOf base 4 0 ≠ 0 ∨ bitsOf base 63 48 ≠ 0 ∨ i ≥ s.sliceCount t.part then .trap 2 0 0
    else
      sliceForm s t i true fun s => s.modSlice t.part i fun x =>
        x.giveLog (s.aux t.part).run { base := base.toNat, len := bitsOf w 39 16 + 1, used := 0 }

/-! ### Instructions: waiting for stability (R167, R389) -/

def execStabw (d : BitVec 5) (s : State) : Result :=
  issue s { gW := [d.toNat] } fun t =>
    let life := s.life t.tid
    let done (w : Word) : Out :=
      .retire ((s.modLife t.tid fun l => { l with inStabw := false, stab := none }).here (·.setG d.toNat w))
    match life.stab with
    | some w => if life.inStabw then done w else done (s.aux t.part).run.word
    | none =>
      if (s.aux t.part).run.st = .running then .admission (s.modLife t.tid fun l => { l with part := t.part, inStabw := true })
      else done (s.aux t.part).run.word

def execStabq (d : BitVec 5) (s : State) : Result :=
  issue s { gW := [d.toNat] } fun t => rxnForm s t false fun s => s.here (·.setG d.toNat (s.aux t.part).run.word)

end Sys2Proof.Machine
end

