-- ==== Sys2Proof/Machine/Sync.lean ====
section
/-! DEFINITION. The synchronisation group (R313-R320): barriers, fences, CFENCE and WRES. -/

namespace Sys2Proof.Machine

/-! ### Barriers (R314-R317) -/

/-- The active launch that a thread belongs to. -/
def State.launchOf (s : State) (t : Thread) : Option Launch :=
  (s.life t.tid).launch.bind fun id => (s.part t.part).launches.find? (·.id == id)

/-- Group index named by a register. -/
def groupIndex (w : Word) : Nat := bitsOf w 7 0

/-- The work unit of the thread, if it is a member of the group. -/
def State.memberUnit (s : State) (t : Thread) (l : Launch) (g : Nat) : Option Nat :=
  match (s.life t.tid).unit with
  | some w => if gtabMember ((s.part t.part).group g) w && w < l.count then some w else none
  | none => none

def PartAux.member (a : PartAux) (l g w : Nat) : Member :=
  (a.members.find? fun m => m.launch == l && m.group == g && m.unit == w).getD
    { launch := l, group := g, unit := w, made := 0, left := 0, fuzzy := none }

def PartAux.setMember (a : PartAux) (m : Member) : PartAux :=
  { a with members := m :: a.members.filter fun x => !(x.launch == m.launch && x.group == m.group && x.unit == m.unit) }

/-- How many phases of (launch, group) have released. -/
def PartAux.releasedPhases (a : PartAux) (l g : Nat) : Nat :=
  ((a.phases.find? fun x => x.1 == l && x.2.1 == g).map (·.2.2)).getD 0

/-- An arrival of the thread in its next phase; it leaves once `fence.sys` would hold (R234). -/
def State.arrive (s : State) (t : Thread) (l g w : Nat) (fuzzy : Bool) : State :=
  s.modAux t.part fun a =>
    let m := a.member l g w
    let m := { m with made := m.made + 1, fuzzy := if fuzzy then some m.made else m.fuzzy }
    { a.setMember m with arrivals := a.arrivals ++ [{ launch := l, group := g, unit := w, tid := t.tid, rel := s.releaseOf s.cur.core t.tid }] }

/-- The member's previous arrival is in a phase that has not released. -/
def PartAux.early (a : PartAux) (l g : Nat) (m : Member) : Bool := a.releasedPhases l g < m.made

/-- The checks of a member form, then `f` with the launch, group and member record. -/
def memberOut (s : State) (t : Thread) (g : Nat) (f : Nat → Nat → Member → Out) : Out :=
  match s.launchOf t with
  | none => .trap 2 0 0
  | some l =>
    if !l.glist.contains g then .trap 2 0 0
    else
      match s.memberUnit t l g with
      | none => .trap 2 0 0
      | some w => f l.id g ((s.aux t.part).member l.id g w)

/-- A member form. -/
def memberForm (s : State) (a : BitVec 5) (f : Thread → Nat → Nat → Member → Out) : Result :=
  issue s { gR := [a.toNat] } fun t => memberOut s t (groupIndex (t.gr a.toNat)) (f t)

/-- An arriving form: it waits while its previous phase is open, and then arrives. An arrival is a message of the thread, and clears its
reservation (R230, R235). -/
def arriveForm (s : State) (t : Thread) (l g : Nat) (m : Member) (fuzzy : Bool) (f : State → Out) : Out :=
  if (s.aux t.part).early l g m then .park else f ((s.here fun t => t.closeRegion.noResv).arrive t l g m.unit fuzzy)

def execBara (a : BitVec 5) (s : State) : Result :=
  memberForm s a fun t l g m => if m.fuzzy.isSome then .trap 2 0 0 else arriveForm s t l g m false .retire

/-- The thread waits in a phase of a group. -/
def State.setBar (s : State) (t : Thread) (b : Option (Nat × Nat)) : State := s.modLife t.tid fun l => { l with bar := b }

/-- A thread that waits for a phase goes on once it has released. -/
def awaitPhase (s : State) (t : Thread) (l g ph : Nat) : Out :=
  if ph < (s.aux t.part).releasedPhases l g then .retire (s.setBar t none) else .park

/-- A form that may wait: one that waits goes on in the group that it noted, whatever its register holds now (R316); the wait ends with
the launch. -/
def waitForm (s : State) (a : BitVec 5) (again : Thread → Nat → Nat → Nat → Out) (first : Thread → Nat → Out) : Result :=
  issue s { gR := [a.toNat] } fun t =>
    match (s.life t.tid).bar, s.launchOf t with
    | some (g, ph), some l => again t l.id g ph
    | some _, none => .retire (s.setBar t none)
    | none, _ => first t (groupIndex (t.gr a.toNat))

def execBar (a : BitVec 5) (s : State) : Result :=
  waitForm s a (fun t l g ph => awaitPhase s t l g ph) fun t g =>
    memberOut s t g fun l g m =>
      if m.fuzzy.isSome then .trap 2 0 0 else arriveForm s t l g m false fun s => .wait (s.setBar t (some (g, m.made)))

def execFza (a : BitVec 5) (s : State) : Result :=
  memberForm s a fun t l g m =>
    if !gtabFuzzy ((s.part t.part).group g) ∨ m.fuzzy.isSome then .trap 2 0 0 else arriveForm s t l g m true .retire

/-- The pending phase of a member has been waited for. -/
def State.clearFuzzy (s : State) (t : Thread) (l g : Nat) : State :=
  match (s.life t.tid).unit with
  | some w => (s.modAux t.part fun x => x.setMember { x.member l g w with fuzzy := none }).setBar t none
  | none => s.setBar t none

def execFzw (a : BitVec 5) (s : State) : Result :=
  waitForm s a (fun t l g ph => if ph < (s.aux t.part).releasedPhases l g then .retire (s.clearFuzzy t l g) else .park) fun t g =>
    memberOut s t g fun l g m =>
      match m.fuzzy with
      | none => .trap 2 0 0
      | some ph =>
        if !gtabFuzzy ((s.part t.part).group g) then .trap 2 0 0
        else if ph < (s.aux t.part).releasedPhases l g then .retire (s.clearFuzzy t l g)
        else .wait (s.setBar t (some (g, ph)))

/-- BARW: by a thread of the launch that is no member; it waits for the phase current at its issue. -/
def execBarw (a : BitVec 5) (s : State) : Result :=
  waitForm s a (fun t l g ph => awaitPhase s t l g ph) fun t g =>
    match s.launchOf t with
    | none => .trap 2 0 0
    | some l =>
      if !l.glist.contains g ∨ (s.memberUnit t l g).isSome then .trap 2 0 0
      else .wait (s.setBar t (some (g, (s.aux t.part).releasedPhases l.id g)))

/-- Arrivals of a group whose conditions hold leave their threads. -/
def State.leaveArrivals (s : State) (p l g : Nat) : State :=
  ((s.aux p).arrivals.filter fun x => x.launch == l && x.group == g && s.released x.rel).foldl (fun s x =>
    s.modAux p fun a =>
      let m := a.member l g x.unit
      { a.setMember { m with left := m.left + 1 } with arrivals := a.arrivals.erase x }) s

/-- Every member has arrived in the phase or has ended (R315). -/
def State.phaseFull (s : State) (p : Nat) (l : Launch) (g ph : Nat) : Bool :=
  (List.range l.count).all fun w =>
    !gtabMember ((s.part p).group g) w || l.ended.contains w || ph < ((s.aux p).member l.id g w).left

/-- BARRIER_RELEASE. -/
def execBarrierRelease (s : State) : Result :=
  given s .barrierRelease fun s =>
    let p := s.env.unit
    let g := s.env.third
    match (s.part p).launches.find? (·.id == s.env.sub) with
    | none => s
    | some l =>
      if !l.glist.contains g then s
      else
        let s := s.leaveArrivals p l.id g
        let r := (s.aux p).releasedPhases l.id g
        if s.phaseFull p l g r then
          s.modAux p fun a => { a with phases := (l.id, g, r + 1) :: a.phases.filter fun x => !(x.1 == l.id && x.2.1 == g) }
        else s

/-! ### Fences (R233, R318, R319) -/

/-- Every earlier marked access is performed. -/
def State.rxDone (s : State) (tid : Word) : Bool := s.net.accs.all fun a => a.tid != tid || !a.marked || a.nform || a.performed

/-- Every earlier N-form is applied and every earlier message accepted. -/
def State.sysDone (s : State) (tid : Word) : Bool :=
  (s.net.accs.all fun a => a.tid != tid || a.performed) && s.net.msgs.all fun m => m.from_ != some tid

/-- The entry that a waiting fence must see drained: noted when it first waits. -/
def State.fenceMark (s : State) (t : Thread) : Option Nat :=
  match t.fence with
  | some k => some k
  | none => s.nearLast s.cur.core

/-- Near-buffer entries up to the mark are in the banks, and all of the thread, which its earlier accesses may have brought there since. -/
def State.drained (s : State) (tid : Word) (mark : Option Nat) : Bool :=
  mark.all (s.written s.cur.core) && !s.nearHas s.cur.core fun _ u => u == tid

/-- A fence, with the scope's own condition. -/
def fenceForm (s : State) (lb : Bool) (f : Thread → Bool) : Result :=
  issue s {} fun t =>
    let mark := if lb then s.fenceMark t else none
    if f t && (!lb || s.drained t.tid mark) then .retire (s.here fun t => { t with fence := none })
    else .fence (s.here fun t => { t with fence := mark })

def execFenceRx (s : State) : Result := fenceForm s false fun t => s.rxDone t.tid
def execFenceLb (s : State) : Result := fenceForm s true fun t => s.rxDone t.tid
def execFenceSys (s : State) : Result := fenceForm s true fun t => s.rxDone t.tid && s.sysDone t.tid

/-- CFENCE; on a channel core there is nothing to wait for. -/
def execCfence (s : State) : Result :=
  issue s {} fun t => if isChan s.cur.core ∨ s.colDone t.tid then .retire s else .fence s

/-! ### WRES (R320) -/

def Thread.empty (t : Thread) (k : RegKind) (n : Nat) : Thread :=
  match k with
  | .g => if n = 0 then t else { t with gEmpty := bset t.gEmpty n }
  | .v => { t with vEmpty := bset t.vEmpty n }
  | .m => { t with mEmpty := bset t.mEmpty n }
  | .c => t

def wresNames (n : Nat) (q : BitVec 4) : Names :=
  match q.toNat with
  | 0 => { gW := [n] }
  | 1 => { vW := [n] }
  | 2 => { mW := [n] }
  | _ => {}

def execWres (d : BitVec 5) (q : BitVec 4) (s : State) : Result :=
  issue s (wresNames d.toNat q) fun _ =>
    match q.toNat with
    | 0 => .retire (s.here (·.empty .g d.toNat))
    | 1 => .retire (s.here (·.empty .v d.toNat))
    | 2 => .retire (s.here (·.empty .m d.toNat))
    | _ =>
      if isChan s.cur.core then .trap 2 0 0
      else .retire (s.modCore s.cur.core fun k => { k with cEmpty := bset k.cEmpty d.toNat })

end Sys2Proof.Machine
end

