-- ==== Sys2Proof/Machine/Messages.lean ====
section
/-! DEFINITION. Messages and threads (R66, R367-R374): SEND, FILL, GO, SPAWN, JOIN, EXIT, the vector table, LOADQ; and the arrival of
messages at a core (R182, R189-R194, R221, R312). -/

namespace Sys2Proof.Machine

/-! ### Core addresses (R66) -/

def addrCore (w : Word) : Nat := bitsOf w 14 0
def addrChan (w : Word) : Bool := w.getLsbD 15
def addrMod (w : Word) : Nat := bitsOf w 37 16
def addrRsv (w : Word) : Bool := bitsOf w 63 38 == 0

/-- Target and egress of a message to a core address (R367, R67-R69), or its trap. -/
def State.msgTarget (s : State) (p : Nat) (w : Word) : Except TrapInfo (Nat × Option (Nat × BitVec 22 × Option Nat)) :=
  if !addrRsv w || addrChan w then .error (2, 0, 0)
  else if addrMod w = s.by_.mod_.toNat then
    if (s.part p).owns (addrCore w) then .ok (addrCore w, none) else .error (2, 0, 0)
  else if !s.by_.set then .error (4, w, 0)
  else if (s.aux p).bypart.getLsbD 16 = false then .error (6, w, 0)
  else .ok (addrCore w, some (bitsOf w 5 0 ^^^ (addrMod w % 64), BitVec.ofNat 22 (addrMod w), none))

/-! ### SEND and FILL (R367, R368) -/

/-- Types that SEND may send. -/
def sendType (sys : Bool) (ty : Nat) : Bool := 0x40 ≤ ty || (sys && (ty == 5 || ty == 6 || (9 ≤ ty && ty ≤ 13)))

/-- The descriptor is well formed for first register `d`. -/
def sendOk (t : Thread) (d : Nat) (w : Word) : Bool :=
  let ng := bitsOf w 12 8
  let nv := bitsOf w 14 13
  let vb := bitsOf w 19 16
  sendType t.mode (bitsOf w 7 0) && ng ≤ 16 && nv ≤ 2 && !w.getLsbD 15 && bitsOf w 63 20 == 0 && (ng == 0 || d + ng - 1 ≤ 31)
    && d + ng ≤ Nat.max t.gregs d && vb + nv ≤ Nat.max t.vregs vb

/-- Payload registers of a descriptor. -/
def sendRegs (d : Nat) (w : Word) : Names :=
  { gR := (List.range (bitsOf w 12 8)).map (d + ·), vR := (List.range (bitsOf w 14 13)).map (bitsOf w 19 16 + ·) }

/-- Sends a message of the current thread to a core address, as a release that closes the region, and counts it: that counter 6 (R135) counts
those of SEND and FILL alone is a DESIGN CHOICE, log entry 124. Where no permit is free it waits in the
port, and its thread out of the rotation (R47, R355). -/
def sendForm (s : State) (t : Thread) (addr : Word) (body : MsgBody) : Out :=
  match s.msgTarget t.part addr with
  | .error (c, g1, g2) => .trap c g1 g2
  | .ok (target, away) =>
    .retire ((s.here fun t => t.closeRegion.noResv.count 6 1).sendFrom t.part t.tid s.cur.core target away body)

def execSend (d a b : BitVec 5) (s : State) : Result :=
  issue s { gR := [a.toNat, b.toNat], gN := [d.toNat] } fun t =>
    let w := t.gr b.toNat
    let u := sendRegs d.toNat w
    if !sendOk t d.toNat w then .trap 2 0 0
    else if t.blocked u then .park
    else sendForm s t (t.gr a.toNat) (.table (bitsOf w 7 0) (u.gR.map t.gr) (u.vR.map t.vr))

/-- The kind that Q names, and whether it can hold register REG. -/
def fillKind (q : BitVec 4) : RegKind := if q = 1 then .v else if q = 3 then .c else .g
def fillRegOk (k : RegKind) (reg : Nat) : Bool :=
  match k with
  | .g => true
  | .v | .m => reg < 16
  | .c => reg < 8

def fillNames (d a b : Nat) (k : RegKind) : Names :=
  if k = .v then { gR := [a, b], vR := [d] } else { gR := [d, a, b] }

def execFill (d a b : BitVec 5) (q : BitVec 4) (s : State) : Result :=
  let k := fillKind q
  issue s (fillNames d.toNat a.toNat b.toNat k) fun t =>
    let w := t.gr b.toNat
    let reg := bitsOf w 52 48
    let v : Vec := if k = .v then t.vr d.toNat else (t.gr d.toNat).setWidth 512
    if w.getLsbD 47 || bitsOf w 63 53 != 0 || !fillRegOk k reg then .trap 2 0 0
    else sendForm s t (t.gr a.toNat) (.fill (bitsOf w 3 0) (BitVec.ofNat 64 (bitsOf w 46 4)) k reg v)

/-! ### GO and LOADQ (R369, R374) -/

/-- The core that GO names: of the partition, or a channel core of this module. -/
def State.goTarget (s : State) (p : Nat) (w : Word) : Option Nat :=
  if !addrRsv w || addrMod w != s.by_.mod_.toNat then none
  else if addrChan w then (if bitsOf w 14 8 = 0 then some (32768 + bitsOf w 7 0) else none)
  else if (s.part p).owns (addrCore w) then some (addrCore w) else none

/-- Every access and result of the thread is back (R192). -/
def State.clearToMove (s : State) (t : Thread) : Bool := !t.due && s.net.accs.all fun a => a.tid != t.tid

/-- The current thread leaves for another core, going on at the next instruction there. -/
def leaveFor (s : State) (target : Nat) (f : Thread → Thread) (t : Thread) : Out :=
  .gone (s.packTo s.cur.core s.cur.slot target (f ((t.issued s.cur.slot s.now).advance)))

def execGo (a : BitVec 5) (s : State) : Result :=
  issue s { gR := [a.toNat] } fun t =>
    match s.goTarget t.part (t.gr a.toNat) with
    | none => .trap 2 0 0
    | some target =>
      if t.vregs ≠ 0 ∨ t.tiles ≠ 0 then .trap 2 0 0
      else if target = s.cur.core then .retire s
      else if !s.clearToMove t then .fence s
      else leaveFor s target id t

/-- The IDLE core of the current core's cluster; a core outside the partition is never chosen. -/
def State.idleCore (s : State) (p c : Nat) : Nat :=
  let i := 8 * clusterOf c + idleField (s.core c).loadq
  if (s.part p).owns i then i else c

def execLoadq (d : BitVec 5) (s : State) : Result :=
  issue s { gW := [d.toNat] } fun t =>
    let c := s.cur.core
    let w := (s.core c).loadq
    let me := loadField w (c % 8)
    let idle := loadField w (idleField w)
    if !isChan c && me != 31 && idle != 31 && idle + 2 ≤ me && s.movable s.cur.slot { t with avail := .rotation } then
      leaveFor s (s.idleCore t.part c) (·.setG d.toNat 1) t
    else .retire (s.here (·.setG d.toNat 0))

/-! ### Header reads (R109, R355) -/

/-- Reads a kernel header as an unmarked access of the current thread, which waits in memory for it (R355); one of another module goes over
Byand (R65). -/
def readHeader (s : State) (t : Thread) (da : Nat) (f : Nat → State → Out) : Out :=
  let c := s.cur.core
  let key := Errand.header c s.cur.slot
  let fails (s : State) (x : Nat) (st : Status) : Out :=
    .trapIn s (failTrap st).1 (BitVec.ofNat 64 x) (BitVec.ofNat 64 (failTrap st).2)
  match s.farOf key da with
  | some a =>
    if !a.back then .fence s
    else
      match a.failed with
      | none => f (bufNat a.buf 0 32) (s.dropFar key)
      | some (st, x) => fails (s.dropFar key) x st
  | none =>
    if s.unperformed t.tid then .fence s
    else if s.isFar c t.part da 32 then .fence (s.askFar key .load c s.cur.slot t da 32 s.cur.word)
    else if !s.served key c t.part .read [(da, 32)] then .fence (s.askFor key c t.part .read [(da, 32)])
    else
      match (s.dropTicket key).directRead c t.part da 32 s.env.bad s.env.bytes with
      | (.ok bs, _, s1) => f (leNat bs) s1
      | (.page x m, _, s1) =>
        .drop (({ s1 with fresh := s1.fresh + 1 } : State).pageFault t.part (faultOf .load false m x s.cur.core s.cur.slot s1.token)) s1.token
      | (.fail x st, _, s1) => fails s1 x st

/-! ### SPAWN, SPAWND, JOIN and EXIT (R141, R370-R372) -/

/-- Where a child starts. -/
def State.childCore (s : State) (p : Nat) (named : Bool) (cpath : Word) : Nat :=
  let x := s.part p
  if named || x.det || isChan s.cur.core then x.base + (phash cpath).toNat % Nat.max 1 x.len else s.idleCore p s.cur.core

/-- The start of a child. One that SPAWN starts may be balanced, where DET places it too (R141): DESIGN CHOICE, log entry 125. -/
def childStart (h : KHdr) (t : Thread) (life : Life) (named : Bool) (d : Nat) (arg cpath : Word) : Start :=
  let l : Life := { Life.reset with part := t.part, launch := life.launch, path := cpath, parent := if d = 0 then none else some (t.tid, d) }
  { h.start t.part t.prio { sg := t.sg, fm := t.fm, sc := t.sc } l with
    named := named, g := Sparse.put 0 (Sparse.put 0 [] 1 arg) 2 cpath }

/-- SPAWN and SPAWND; the child's start does not count as a message sent (log entry 124). -/
def spawnForm (s : State) (named : Bool) (d a b : BitVec 5) : Result :=
  issue s { gR := [a.toNat, b.toNat], gW := [d.toNat] } fun t =>
    let at_ := (t.gr a.toNat).toNat
    if at_ ≥ 2 ^ 48 ∨ at_ % 32 ≠ 0 then .trap 2 0 0
    else
      readHeader s t at_ fun w s =>
        let life := s.life t.tid
        if !hdrForm w || !hdrRegs w || (hdrOf w).supv || life.ord ≥ 15 || bitsOf life.path 63 60 != 0 || (named && d == 0) then .trapIn s 2 0 0
        else
          let cpath := (life.path <<< 4) ||| BitVec.ofNat 64 (life.ord + 1)
          let target := s.childCore t.part named cpath
          let s := s.here fun t => t.closeRegion.noResv.owe .g d.toNat
          let s := s.modLife t.tid fun l => { l with ord := l.ord + 1, kids := if d = 0 then l.kids else bset l.kids d.toNat }
          .retire (s.sendFrom t.part t.tid s.cur.core target none
            (.child (childStart (hdrOf w) t life named d.toNat (t.gr b.toNat) cpath)))

def execSpawn (d a b : BitVec 5) (s : State) : Result := spawnForm s false d a b
def execSpawnd (d a b : BitVec 5) (s : State) : Result := spawnForm s true d a b

/-- JOIN: until every result register of a child still outstanding is full (R371), by the child's result or by a fill (R181). -/
def execJoin (s : State) : Result :=
  issue s {} fun t => if (s.life t.tid).kids &&& t.gEmpty ≠ 0 then .park else .retire (s.modLife t.tid fun l => { l with ord := 0 })

/-- EXIT: once `fence.sys` would complete and nothing is due. -/
def execExit (s : State) : Result :=
  issue s {} fun t =>
    let mark := s.fenceMark t
    if s.rxDone t.tid && s.sysDone t.tid && s.drained t.tid mark && !t.due then .gone (s.endThread s.cur.core s.cur.slot true)
    else .fence (s.here fun t => { t.closeRegion with fence := mark })

/-! ### Vector table (R188, R373) -/

/-- Types that the vector table has an entry for (R189). -/
def tableType (ty : Nat) : Bool := 0x40 ≤ ty || ty == 5 || ty == 6 || (9 ≤ ty && ty ≤ 13)

/-- KHDR of an entry word. -/
def entryHdr (w : Word) : Nat := bitsOf w 51 5 * 32

/-- Writes an entry and copies the vector context. -/
def State.putEntry (s : State) (t : Thread) (ty : Nat) (w : Word) (h : Option KHdr) : State :=
  (s.here Thread.closeRegion).modCore s.cur.core fun k =>
    { k with vec := Sparse.put 0 k.vec ty w, vctx := { sg := t.sg, fm := t.fm, sc := t.sc },
             vhdr := match h with
               | some x => Sparse.insert k.vhdr ty x
               | none => Sparse.erase k.vhdr ty }

def execSetvec (a b : BitVec 5) (s : State) : Result :=
  issue s { gR := [a.toNat, b.toNat] } fun t =>
    let ty := bitsOf (t.gr a.toNat) 7 0
    let w := t.gr b.toNat
    if isChan s.cur.core || !tableType ty || (ty < 0x40 && !t.mode) || w.getLsbD 4 || bitsOf w 63 52 != 0 then .trap 2 0 0
    else if w.getLsbD 0 = false then .retire (s.putEntry t ty 0 none)
    else if entryHdr w ≥ 2 ^ 48 then .trap 2 0 0
    else
      readHeader s t (entryHdr w) fun hw s =>
        if !hdrForm hw || !hdrRegs hw then .trapIn s 2 0 0
        else .retire ((s.here Thread.noResv).putEntry t ty (bput w 1 (hdrOf hw).supv) (some (hdrOf hw)))

def execGetvec (d a : BitVec 5) (s : State) : Result :=
  issue s { gR := [a.toNat], gW := [d.toNat] } fun t =>
    let ty := bitsOf (t.gr a.toNat) 7 0
    if isChan s.cur.core then .trap 2 0 0
    else .retire (s.here (·.setG d.toNat (if tableType ty then Sparse.get 0 (s.core s.cur.core).vec ty else 0)))

/-! ### Arrivals -/

/-- A message of a given identity that can be accepted now, where its core is live. -/
def State.arriving (s : State) (id : Nat) : Option Msg :=
  s.net.msgs.find? fun m => m.id == id && s.deliverable m && s.coreLive m.target

/-- Removes an accepted message; a completion message frees the launch engine for the next (R112). -/
def State.takeMsg (s : State) (m : Msg) : State :=
  let s := s.dropMsg m
  if m.frm = .launch then s.pumpEngine m.part else s

/-- A fill within the allocation (R182). -/
def Thread.hasReg (t : Thread) (k : RegKind) (n : Nat) : Bool :=
  match k with
  | .g => n < t.gregs
  | .v => n < t.vregs
  | .m => n < t.tiles
  | .c => false

/-- A fill of a thread that has been written out (R132). One of `g0` is discarded (R181). -/
def State.fillSpilled (s : State) (x : Spill) (k : RegKind) (n : Nat) (v : Vec) : State :=
  if k = .g ∧ n = 0 then s else s.fillAway x { kind := k, reg := n, off := 0, n := recSize k, val := v, full := true }

/-- A thread-register fill at a core (R182). -/
def State.fillThread (s : State) (p c slot : Nat) (tid : Word) (k : RegKind) (n : Nat) (v : Vec) : State :=
  let refuse (s : State) : State := s.reportCore p c 0x10 (BitVec.ofNat 64 n) 0
  match s.net.spills.find? fun x => x.tid == tid && x.core == c && x.slot == slot with
  | some x => if x.t.hasReg k n then s.fillSpilled x k n v else refuse s
  | none =>
    match s.thread c slot with
    | some t =>
      if t.tid ≠ tid then s
      else if t.hasReg k n then s.setThread c slot ((t.fillReg k n v).nudge s.now)
      else refuse s
    | none => s

/-- A child's result reaches its parent's register, wherever the parent is (R371). -/
def State.fillResult (s : State) (tid : Word) (n : Nat) (v : Word) : State :=
  let s := s.modLife tid fun l => { l with kids := bclr l.kids n }
  match s.spillOf tid with
  | some x =>
    let y := { x with t := { x.t with gDue := bclr x.t.gDue n } }
    (s.setSpill x y).fillSpilled y .g n (v.setWidth 512)
  | none =>
    match s.findThread tid with
    | some (c, slot) => s.modThread c slot fun t => (t.payG n v).nudge s.now
    | none => s

/-- REGISTER_FILL (R182): a type 0x02 message, or the result of a child. -/
def execRegisterFill (s : State) : Result :=
  given s .registerFill fun s =>
    match s.arriving s.env.unit with
    | none => s
    | some m =>
      match m.body with
      | .fill slot tid k n v =>
        let s := s.takeMsg m
        if isChan m.target then s
        else if k = .c then s.modCore m.target fun x => x.setCommon n (v.setWidth 64)
        else s.fillThread m.part m.target slot tid k n v
      | .result tid n v => if (Sparse.find? s.lives tid.toNat).isSome then (s.takeMsg m).fillResult tid n v else s.takeMsg m
      | _ => s

/-- Types at whose acceptance the supervisor line rises (R84). -/
def lineType (ty : Nat) : Bool := ty == 6 || ty == 9 || ty == 0xA || ty == 0xB || ty == 0xC

/-- Why a message is discarded (R191): 1 for an invalid entry, 2 for too large a payload. -/
def State.discards (s : State) (c ty ng nv : Nat) : Option Nat :=
  match (s.core c).entry ty with
  | none => some 1
  | some (_, h) => if ng + 1 > h.gAlloc ∨ nv > h.vAlloc then some 2 else none

/-- A discarded message is reported; a discarded report raises the error line (R191). -/
def State.discardMsg (s : State) (p c ty why : Nat) : State :=
  if isChan c then s
  else if ty = 6 ∧ why = 1 then s.irqLine p 2
  else s.reportCore p c 0x11 (BitVec.ofNat 64 ty) (BitVec.ofNat 64 why)

/-- Payload in registers from `n` up. -/
def payload {α : Type} [DecidableEq α] (d : α) (n : Nat) (l : List α) : Sparse α :=
  (l.zipIdx).foldl (fun t (x, i) => Sparse.put d t (n + i) x) []

/-- A thread of the vector table (R190). -/
def tableStart (h : KHdr) (p : Nat) (prio : BitVec 2) (ctx : Ctx) (life : Life) (g : List Word) (v : List Vec) : Start :=
  { h.start p prio ctx life with g := payload 0 1 g, v := payload 0 0 v }

/-- Accepts a message that starts a thread from the entry of its type, or discards it. A fire message is never discarded: while its core
has no entry that can start its body it waits in the network with its permit (R156; DEDUCED, log entry 78). -/
def State.acceptTable (s : State) (m : Msg) (ty : Nat) (prio : Option (BitVec 2)) (ctx : Option Ctx) (life : Life) (g : List Word)
    (v : List Vec) : State :=
  let c := m.target
  if isChan c then s.takeMsg m
  else
    match s.discards c ty g.length v.length, (s.core c).entry ty with
    | none, some (w, h) =>
      if (s.core c).room then
        let prio := prio.getD (BitVec.ofNat 2 (bitsOf w 3 2))
        let st := tableStart h m.part prio (ctx.getD (s.core c).vctx) life g v
        let s := (s.takeMsg m).enready c { kind := .start st, prio := prio, since := s.now, lvl := 0, unit := 0 }
        if lineType ty then s.irqLine m.part 1 else s
      else s
    | why, _ => if life.body.isSome then s else (s.takeMsg m).discardMsg m.part c ty (why.getD 1)

/-- MESSAGE_ACCEPT (R190, R191): also the start of a child, which brings its own state. -/
def execMessageAccept (s : State) : Result :=
  given s .messageAccept fun s =>
    match s.arriving s.env.unit with
    | none => s
    | some m =>
      match m.body with
      | .table ty g v => s.acceptTable m ty none none { Life.reset with part := m.part } g v
      | .fire ty prio g v life sg fm sc => s.acceptTable m ty (some prio) (some { sg := sg, fm := fm, sc := sc }) life g v
      | .child st =>
        if (s.core m.target).room then
          (s.takeMsg m).enready m.target { kind := .start st, prio := st.prio, since := s.now, lvl := 0, unit := 0 }
        else s
      | _ => s

/-- A channel core takes a thread only where it finds a slot and granules (R194). -/
def State.takesThread (s : State) (c : Nat) (t : Thread) : Bool :=
  (s.core c).room && (!isChan c || (s.freeSlotOf c t.supv && s.fits c t.gregs t.vregs t.tiles))

/-- MIGRATION_ARRIVAL (R192). -/
def execMigrationArrival (s : State) : Result :=
  given s .migrationArrival fun s =>
    match s.arriving s.env.unit with
    | none => s
    | some m =>
      match m.body with
      | .thread t =>
        if s.takesThread m.target t then
          (s.takeMsg m).enready m.target { kind := .moved t, prio := t.prio, since := s.now, lvl := 0, unit := ((s.life t.tid).unit).getD 0 }
        else s
      | _ => s

/-- The thread that is dropped under a token. -/
def State.droppedBy (s : State) (token : Nat) : Option (Nat × Nat) :=
  s.cores.findSome? fun e => (e.2.slots.find? fun x => x.2.avail == .dropped token).map fun x => (e.1, x.1)

/-- A page wake (R221): the held access is sent again, the dropped thread goes on, the held save-area access is made again. -/
def State.wakeToken (s : State) (token : Nat) : State :=
  if token = 0 then s
  else
    let s := s.wakeAcc token
    let s := match s.net.spills.find? (·.held == some token) with
      | some x => s.setSpill x { x with held := none }
      | none => s
    match s.droppedBy token with
    | some (c, slot) => s.resume c slot
    | none => s

/-- PAGE_WAKE. -/
def execPageWake (s : State) : Result :=
  given s .pageWake fun s =>
    match s.arriving s.env.unit with
    | none => s
    | some m =>
      match m.body with
      | .wake token => (s.takeMsg m).wakeToken token
      | _ => s

/-- REMOTE_UPDATE (R312). -/
def execRemoteUpdate (s : State) : Result :=
  given s .remoteUpdate fun s =>
    match s.arriving s.env.unit with
    | none => s
    | some m =>
      match m.body with
      | .update loc op w v expiry acc => s.applyUpdate m loc op w v expiry acc s.env.bad
      | _ => s

/-- A write to PWAKE (R221): word 1 of a fault record names the core and the token. -/
def State.writePwake (s : State) (p : Nat) (v : Word) : State :=
  let core := if v.getLsbD 20 then 32768 + bitsOf v 7 0 else bitsOf v 14 0
  s.postOwn p (.service 0) none core (.wake (bitsOf v 63 32))

def execPwakeWrite (s : State) : Result := given s .pwakeWrite fun s => s.writePwake s.env.unit s.env.val

end Sys2Proof.Machine
end

