-- ==== Sys2Proof/Machine/Partition.lean ====
section
/-! DEFINITION. Partitions (R86-R88, R100-R102, R138, R207): writes to PART, reset, teardown, and the load state. -/

namespace Sys2Proof.Machine

/-! ### Enabling (R87, R91, R96) -/

/-- A core as an enabling leaves it: vector table and instruction buffer empty, common registers zero and full (R185, R188, R196). -/
def Core.enabling (k : Core) : Core := { k with c := [], cEmpty := 0, vec := [], vhdr := [], ibuf := [] }

def State.modCores (s : State) (f : Core → Core) : List Nat → State
  | [] => s
  | c :: r => (s.modCore c f).modCores f r

/-- The interval meets an enabled partition. -/
def State.overlapsPart (s : State) (base len : Nat) : Bool :=
  s.parts.any fun e => e.2.en && e.2.base < base + len && base < e.2.base + e.2.len

/-- An accepted enabling. -/
def State.enable (s : State) (p base len : Nat) (det : Bool) : State :=
  let s := s.modPart p fun x =>
    { x with base := base, len := len, en := true, det := det, epoch := x.epoch + 1, meters := [], frozen := false, closing := none,
             key := some s.md.keys }
  let s := s.modMod fun m => { m with keys := m.keys + 1 }
  let s := s.modAux p fun a => { a with loadSt := false, rules := [], run := .reset, slices := [], sent := 0 }
  s.modCores Core.enabling ((s.cores.map (·.1)).filter fun c => base ≤ c && c < base + len)

/-- HOSTIRQ as written. A page-fault line that is high drives its new source (R79, R84, R220). -/
def State.setHostirq (s : State) (p : Nat) (b : Bool) : State :=
  let was := (s.part p).hostirq
  let s := s.modPart p fun x => { x with hostirq := b }
  if was != b ∧ !(s.aux p).fq.isEmpty then s.irqPage p else s

/-- A write to PART(p). -/
def State.writePart (s : State) (p : Nat) (v : Word) : State :=
  let s := s.setHostirq p (v.getLsbD 34)
  let x := s.part p
  let base := bitsOf v 14 0
  let len := bitsOf v 31 16
  let en := v.getLsbD 32
  let det := v.getLsbD 33
  if base = x.base ∧ len = x.len ∧ en = x.en ∧ det = x.det then s
  else if x.busy ∨ x.en then s.perr p
  else if en then
    if len = 0 ∨ base + len > 32768 ∨ s.overlapsPart base len then s.perr p else s.enable p base len det
  else s.modPart p fun x => { x with base := base, len := len, det := det }

def execPartWrite (s : State) : Result := given s .partWrite fun s => s.writePart s.env.unit s.env.val

/-! ### Reset (R35, R60, R75, R101, R118, R138, R222) -/

/-- A compute core of a reset partition: what belongs to no thread stays. -/
def Core.clearedFor (k : Core) : Core :=
  { Core.reset with starts := k.starts, tagr := k.tagr, errQ := k.errQ, errLost := k.errLost, govIn := k.govIn, govQ := k.govQ,
                    govHeld := k.govHeld, loadq := k.loadq }

/-- A channel core, of which the reset partition's part goes. -/
def Core.without (k : Core) (p : Nat) : Core :=
  { k with slots := k.slots.filter fun e => e.2.part != p
           fetching := k.fetching.filter fun e => (k.thread e.1).any fun t => t.part != p
           ready := k.ready.filter fun e => e.kind.part != p
           readyHo := k.readyHo.filter fun e => e.kind.part != p
           ibuf := k.ibuf.filter fun l => l.part != p
           resident := k.resident.filter fun e => e.1 / 4 != p }

def State.clearCores (s : State) (p : Nat) : List Nat → State
  | [] => s
  | c :: r => (s.modCore c fun k => if isChan c then k.without p else if (s.part p).owns c then k.clearedFor else k).clearCores p r

/-- A reset of `p` discards the header (R60): one that carries the partition's number, as a bench access of the partition does. Of a system
access PART is ignored (R83): DEDUCED, log entry 85. -/
def Header.goes (h : Header) (p : Nat) : Bool :=
  h.part == p && (match h.src with
    | .bench _ sys => !sys
    | .aperture => false
    | _ => true)

/-- Everything in the network that carries the partition's number goes (R60). Replies stay whose request is another partition's, or one
of those that other partitions have admitted, `ins` (R61). A request in its slice's bank queue is not performed, and what is outside the
module is forgotten, with no count in LOST and no report: DESIGN CHOICE, log entry 120. -/
def Net.drain (n : Net) (p : Nat) (ins : List Inside) : Net :=
  let accs := n.accs.filter fun a => a.part != p
  let reqs := n.reqs.filter fun r => r.part != p
  let live (id : Nat) : Bool :=
    reqs.any (·.id == id) || (n.waits.any fun w => w.part != p && w.comb == id) || ins.any fun e => e.part != p && e.id == id
  { n with accs := accs, reqs := reqs, port := n.port.filter (fun h => !h.goes p),
           linkWait := n.linkWait.filter (fun h => !h.goes p), tickets := n.tickets.filter (fun k => k.part != p), packets := n.packets.filter fun k => !k.hdr.goes p,
           waits := n.waits.filter fun w => w.part != p, homeQ := n.homeQ.filter fun h => !h.goes p,
           hostOut := n.hostOut.filter fun h => !h.goes p, replies := n.replies.filter fun r => live r.id,
           msgs := n.msgs.filter fun m => m.part != p, spills := n.spills.filter fun x => x.part != p }

/-- Permits that came back go to those who wait (R50, R60). -/
def State.regrant (s : State) : State :=
  let s := s.net.reqs.foldl (fun s r => if s.waitsInPort r.id then s.grantPermits r.cluster r.slice else s) s
  let s := s.net.msgs.foldl (fun s m => match m.via with
    | some cl => if m.permit then s else s.grantPermits cl m.slice
    | none => s) s
  s.net.tickets.foldl (fun s k => match k.port with
    | some cl => if k.st = .waits then s.grantPermits cl k.slice else s
    | none => s) s

/-- Implicit requests and leaves of the partition end with what they were for. -/
def Layer.without (y : Layer) (p : Nat) : Layer :=
  { y with asks := y.asks.filter (fun r => r.part != p || !r.who.implicit), queue := y.queue.filter (fun r => r.part != p || !r.who.implicit),
           leaves := y.leaves.filter fun v => v.part != p || v.until_.isSome }

def Tower.without (t : Tower) (p : Nat) : Tower :=
  { t with queues := t.queues.filter (fun q => q.1 / 8 != p), waiting := t.waiting.filter fun w => w.w.part != p }

def Cluster.without (x : Cluster) (p : Nat) : Cluster :=
  { x with fifo := x.fifo.filter (fun c => c.part != p), run := if x.run.any (·.cmd.part == p) then none else x.run }

def Vmu.without (v : Vmu) (p : Nat) : Vmu := { v with running := v.running.filter fun o => o.part != p }

/-- Applies a change to every listed entry, in canonical form. -/
def Sparse.mapAll {α : Type} [DecidableEq α] (d : α) (t : Sparse α) (f : α → α) : Sparse α :=
  t.filterMap fun e => if f e.2 = d then none else some (e.1, f e.2)

/-- The partition's own registers and queues. The group table stays, as it does at an enabling: DEDUCED, log entry 53. -/
def Part.cleared (x : Part) : Part :=
  { x with lq := [], lqNew := [], lqIn := [], lqdrop := false, gerr := false, cq := [], cqHeld := [], msgHeld := [], launches := [], tasks := [], gang := none }

/-- Rules, runs, fault queue, barriers, parking, load state and the windows for Byand. The run number goes on. -/
def PartAux.cleared (a : PartAux) : PartAux :=
  { a with park := false, shift := 0, loadSt := false, fq := [], fqWait := [], rules := [],
           run := { Run.reset with number := a.run.number }, slices := [], sent := 0, members := [], arrivals := [], phases := [],
           bypart := 0, bywin := [], parked := [] }

/-- The effects of a reset of `p`. -/
def State.resetPart (s : State) (p : Nat) : State :=
  let x := s.part p
  let s := s.clearCores p (s.cores.map (·.1))
  let s := (s.modNet (·.drain p s.by_.inside)).modByand fun b =>
    { b with inside := b.inside.filter fun e => e.part != p, out := b.out.filter fun o => o.hdr.part != p }
  let s : State := { s with
    lives := s.lives.filter fun e => e.2.part != p
    layers := Sparse.mapAll .reset s.layers (·.without p)
    towers := Sparse.mapAll .reset s.towers (·.without p)
    clusters := Sparse.mapAll .reset s.clusters (·.without p)
    vmus := Sparse.mapAll .reset s.vmus (·.without p) }
  let s := (s.zeroRange (spadLoc x.base 0) (spadLoc (x.base + x.len) 0)).modPart p Part.cleared
  (s.modAux p PartAux.cleared).regrant

/-- A command of PCMD begins, or is refused with PERR (R100). -/
def State.command (s : State) (p : Nat) (tear : Bool) (f : State → State) : State :=
  let x := s.part p
  if x.busy ∨ !x.en then s.perr p
  else f ((s.resetPart p).modPart p fun x => { x with busy := true, tearing := tear })

/-- The closing snapshot is taken, the meters freeze, the keys go, and EN clears (R102). -/
def State.close (s : State) (p : Nat) : State :=
  let (b, s) := s.snapshot p
  s.modPart p fun x => { x with closing := some b, frozen := true, key := none, en := false }

def State.startReset (s : State) (p : Nat) : State := s.command p false id
def State.startTeardown (s : State) (p : Nat) : State := s.command p true (·.close p)

def execPartitionReset (s : State) : Result := given s .partitionReset fun s => s.startReset s.env.unit
def execPartitionTeardown (s : State) : Result := given s .partitionTeardown fun s => s.startTeardown s.env.unit

/-- PARTITION_RESET_DONE. -/
def execPartitionResetDone (s : State) : Result :=
  given s .partitionResetDone fun s =>
    let p := s.env.unit
    if (s.part p).busy then (s.modPart p fun x => { x with busy := false, done := true, tearing := false }).irqLine p 3 else s

/-- PCMD as read, and a write to it (R100). A write that clears PERR and whose command is refused leaves it set: DESIGN CHOICE, log entry
106. -/
def Part.pcmd (x : Part) : Word :=
  BitVec.ofNat 64 ((if x.busy then 4 else 0) + (if x.done then 8 else 0) + if x.perr then 16 else 0)

def State.writePcmd (s : State) (p : Nat) (v : Word) : State :=
  let s := s.modPart p fun x => { x with done := x.done && !v.getLsbD 3, perr := x.perr && !v.getLsbD 4 }
  match bitsOf v 1 0 with
  | 1 => s.startReset p
  | 2 => s.startTeardown p
  | _ => s

/-! ### Load state (R207) and fault queue (R220) -/

def State.writeEdctl (s : State) (p : Nat) (v : Word) : State :=
  if v.getLsbD 0 ∧ !(s.part p).launches.isEmpty then s.perr p else s.modAux p fun a => { a with loadSt := v.getLsbD 0 }

/-- EDCTL_LOAD. -/
def execEdctlLoad (s : State) : Result := given s .edctlLoad fun s => s.writeEdctl s.env.unit 1

/-- Words of a fault record. -/
def FaultRec.word0 (r : FaultRec) : Word :=
  BitVec.ofNat 64 (1 + 2 * r.kind + (if r.rx then 2 ^ 4 else 0) + (if r.cause then 2 ^ 5 else 0) + (if r.rights then 2 ^ 6 else 0)
    + (if r.spill then 2 ^ 7 else 0) + 2 ^ 12 * r.da)
def FaultRec.word1 (r : FaultRec) : Word :=
  BitVec.ofNat 64 (r.core + (if r.copy then 2 ^ 15 else 0) + 2 ^ 16 * r.slot + (if r.chan then 2 ^ 20 else 0) + 2 ^ 32 * r.token)

/-- Reads word 1 of the head record and removes it; a fault that waits may then enqueue. -/
def State.popFq (s : State) (p : Nat) : Word × State :=
  match (s.aux p).fq with
  | r :: rest => (r.word1, s.modAux p fun a => { a with fq := rest })
  | [] => (0, s)

def execFq1Read (s : State) : Result :=
  given s .fq1Read fun s =>
    let (w, s) := s.popFq s.env.unit
    { s with ext := .data 8 w }

end Sys2Proof.Machine
end

