-- ==== Sys2Proof/Machine/Engines.lean ====
section
/-! DEFINITION. Engines (R375-R382): the input FIFOs and output queues, completion tags, the copy unit, LEASE and LEAVE. -/

namespace Sys2Proof.Machine

/-! ### Copy commands (R377) -/

def CopyCmd.dword (c : CopyCmd) (i : Nat) : Word := (c.cmd >>> (64 * i)).setWidth 64
def CopyCmd.tag (c : CopyCmd) : Nat := bitsOf (c.dword 0) 5 0
def CopyCmd.deliv (c : CopyCmd) : Bool := (c.dword 0).getLsbD 6
def CopyCmd.filt (c : CopyCmd) : Bool := (c.dword 0).getLsbD 7
def CopyCmd.conv (c : CopyCmd) : Nat := bitsOf (c.dword 0) 9 8
def CopyCmd.pair (c : CopyCmd) : Nat := bitsOf (c.dword 0) 11 10
def CopyCmd.sseg (c : CopyCmd) : Nat := bitsOf (c.dword 0) 15 13
def CopyCmd.dseg (c : CopyCmd) : Nat := bitsOf (c.dword 0) 18 16
def CopyCmd.bseg (c : CopyCmd) : Nat := bitsOf (c.dword 0) 21 19
def CopyCmd.bmoff (c : CopyCmd) : Nat := bitsOf (c.dword 0) 63 24
def CopyCmd.l0 (c : CopyCmd) : Nat := bitsOf (c.dword 3) 12 0
def CopyCmd.n1 (c : CopyCmd) : Nat := bitsOf (c.dword 3) 31 16
def CopyCmd.n2 (c : CopyCmd) : Nat := bitsOf (c.dword 3) 47 32
/-- SRC, DST and the strides S1, S2, D1, D2. -/
def CopyCmd.src (c : CopyCmd) : Word := c.dword 1
def CopyCmd.dst (c : CopyCmd) : Word := c.dword 2
def CopyCmd.s1 (c : CopyCmd) : Word := c.dword 4
def CopyCmd.s2 (c : CopyCmd) : Word := c.dword 5
def CopyCmd.d1 (c : CopyCmd) : Word := c.dword 6
def CopyCmd.d2 (c : CopyCmd) : Word := c.dword 7

/-- The format word of CONV and its width. -/
def CopyCmd.fm (c : CopyCmd) : BitVec 32 := Sparse.get 0 c.ctx.fm c.pair
def CopyCmd.width (c : CopyCmd) : Nat := (Fmt.ofWord c.fm).width
def CopyCmd.sc (c : CopyCmd) : Word := Sparse.get 0 c.ctx.sc c.pair

/-- A delivery's slot, thread, and register (R379). -/
def CopyCmd.slot (c : CopyCmd) : Nat := bitsOf c.dst 3 0
def CopyCmd.tid (c : CopyCmd) : Word := BitVec.ofNat 64 (bitsOf c.dst 46 4)
def CopyCmd.reg (c : CopyCmd) : Nat := bitsOf c.dst 51 48
def CopyCmd.tile (c : CopyCmd) : Bool := c.dst.getLsbD 52

/-- Bytes of a run at the destination. -/
def CopyCmd.dlen (c : CopyCmd) : Nat :=
  match c.conv with
  | 0 => c.l0
  | 1 => 32 * c.l0 / c.width
  | _ => c.l0 * c.width / 32

/-- An offset, which is unsigned, or a stride, which is signed, is a multiple of `n`. -/
def offMult (n : Nat) (v : Word) : Bool := v.toNat % n == 0
def strideMult (n : Nat) (v : Word) : Bool := v.toInt % (n : Int) == 0

/-- Units that source-side and destination-side values are multiples of. -/
def CopyCmd.units (c : CopyCmd) : Nat × Nat :=
  match c.conv with
  | 0 => (8, 8)
  | 1 => (2 * c.width, 64)
  | _ => (64, 2 * c.width)

/-- The size of a delivery is right for its register, or may be (R379). -/
def CopyCmd.delivOk (c : CopyCmd) : Bool :=
  let n := c.n1 * c.n2 * c.dlen
  !c.dst.getLsbD 47 && bitsOf c.dst 63 53 == 0 &&
    (match c.filt, c.tile with
      | false, false => n == 64
      | false, true => n % 64 == 0 && n ≤ 4096
      | true, false => n ≤ 64
      | true, true => n ≤ 4096)

/-- The checks of R377 and R379, but for a busy tag. -/
def CopyCmd.ok (c : CopyCmd) (full : Bool) : Bool :=
  let (a, b) := c.units
  !(c.dword 0).getLsbD 12 && bitsOf (c.dword 0) 23 22 == 0 && bitsOf (c.dword 3) 15 13 == 0 && bitsOf (c.dword 3) 63 48 == 0
    && c.conv != 3 && 8 ≤ c.l0 && c.l0 ≤ 4096 && 1 ≤ c.n1 && 1 ≤ c.n2
    && (c.conv == 0 || (full && fmtOk c.fm))
    && c.l0 % a == 0 && offMult a c.src && strideMult a c.s1 && strideMult a c.s2
    && (c.deliv || (offMult b c.dst && strideMult b c.d1 && strideMult b c.d2))
    && (!c.deliv || c.delivOk)

/-! ### EPUSH (R229, R375) -/

/-- A release that must hold before a push: else the thread waits as in `fence.sys`. -/
def pushForm (s : State) (t : Thread) (full : Bool) (f : State → State) : Out :=
  let mark := s.fenceMark t
  if !(s.rxDone t.tid && s.sysDone t.tid && s.drained t.tid mark) then .fence (s.here fun t => { t with fence := mark })
  else if full then .admission s
  else .retire (f (s.here fun t => { t.closeRegion.noResv with fence := none }))

/-- The register of the issuing thread that a delivery names, if it does (R180). -/
def CopyCmd.ownReg (c : CopyCmd) (t : Thread) (slot : Nat) : Option (RegKind × Nat) :=
  if c.deliv ∧ c.slot = slot ∧ c.tid = BitVec.ofNat 64 (bitsOf t.tid 42 0) then
    if c.tile then (if c.reg < t.tiles then some (.m, c.reg) else none) else if c.reg < t.vregs then some (.v, c.reg) else none
  else none

def Thread.owesReg (t : Thread) : Option (RegKind × Nat) → Bool
  | some (.m, n) => t.mDue.getLsbD n
  | some (.v, n) => t.vDue.getLsbD n
  | _ => false

/-- A command is accepted: its tag is busy and clear (R378). -/
def State.pushCopy (s : State) (c : CopyCmd) (own : Option (RegKind × Nat)) : State :=
  let s := match own with
    | some (k, n) => s.here (·.owe k n)
    | none => s
  (s.modCore c.core fun k => { k with busy := bset k.busy c.tag, tagr := bclr k.tagr c.tag }).modCluster (clusterOf c.core)
    fun x => { x with fifo := x.fifo ++ [c] }

def execEpushCopy (a : BitVec 4) (s : State) : Result :=
  issue s { vR := [a.toNat] } fun t =>
    let core := s.cur.core
    let c : CopyCmd := { core := core, part := t.part, cmd := t.vr a.toNat, ctx := { sg := t.sg, fm := t.fm, sc := t.sc }, own := false, void := false }
    let own := c.ownReg t s.cur.slot
    if isChan core || !c.ok s.md.full || (s.core core).busy.getLsbD c.tag then .trap 2 0 0
    else if t.owesReg own then .park
    else pushForm s t (16 ≤ (s.cluster (clusterOf core)).fifo.length) (·.pushCopy { c with own := own.isSome } own)

def execEpushLaunch (a : BitVec 4) (s : State) : Result :=
  issue s { vR := [a.toNat] } fun t =>
    let p := t.part
    pushForm s t (!(s.part p).lqRoom) fun s => if (s.part p).takes then s.enginePush p t (launchEntry (t.vr a.toNat)) else s

def execEpushGov (a : BitVec 4) (s : State) : Result :=
  issue s { vR := [a.toNat] } fun t =>
    let core := s.cur.core
    let v := t.vr a.toNat
    if isChan core || v >>> 64 != 0 || !leaveOk (v.setWidth 64) then .trap 2 0 0
    else
      pushForm s t (4 ≤ (s.core core).govIn.length) fun s =>
        s.modCore core fun k => { k with govIn := k.govIn ++ [(t.part, v.setWidth 64)] }

/-! ### EPOP and EPEEK (R376) -/

/-- The output queue of an engine, as seen by a thread of `p` on core `c`: of the completion queue, what the cycle's bench reads leave
(R106). -/
def State.outQueue (s : State) (p c : Nat) (q : BitVec 4) : List Word :=
  match q.toNat with
  | 0 => (s.core c).errQ
  | 1 => (s.part p).cq.drop (s.cqPlace p 16)
  | _ => (s.core c).govQ

/-- Removes the head of an output queue; a held answer of the governor takes the place. -/
def State.popQueue (s : State) (p c : Nat) (q : BitVec 4) : State :=
  match q.toNat with
  | 0 => s.modCore c fun k => { k with errQ := k.errQ.drop 1 }
  | 1 => s.modPart p fun x => { x with cq := x.cq.eraseIdx (s.cqPlace p 16) }
  | _ => s.modCore c fun k => ({ k with govQ := k.govQ.drop 1 } : Core).refillGov

def execEpop (d : BitVec 5) (q : BitVec 4) (s : State) : Result :=
  issue s { gW := [d.toNat] } fun t =>
    if isChan s.cur.core && q != 1 then .trap 2 0 0
    else
      match s.outQueue t.part s.cur.core q with
      | [] => .admission s
      | w :: _ => .retire ((s.here (·.setG d.toNat w)).popQueue t.part s.cur.core q)

def execEpeek (d : BitVec 5) (q : BitVec 4) (s : State) : Result :=
  issue s { gW := [d.toNat] } fun t =>
    if isChan s.cur.core && q != 1 then .trap 2 0 0
    else
      .retire (s.here (·.setG d.toNat ((s.outQueue t.part s.cur.core q).headD (if q = 1 then 0xFF else BitVec.allOnes 64))))

/-! ### Tags (R381) -/

/-- A tag instruction on a compute core, with the mask and the tags that it finds set in it. -/
def tagForm (s : State) (a : BitVec 5) (gW : List Nat) (f : Word → Word → Out) : Result :=
  issue s { gR := [a.toNat], gW := gW } fun t =>
    if isChan s.cur.core then .trap 2 0 0
    else f (t.gr a.toNat) ((s.core s.cur.core).tagr &&& t.gr a.toNat)

def execTagwany (d a : BitVec 5) (s : State) : Result :=
  tagForm s a [d.toNat] fun m x => if x = 0 ∧ m ≠ 0 then .admission s else .retire (s.here (·.setG d.toNat x))

def execTagwall (d a : BitVec 5) (s : State) : Result :=
  tagForm s a [d.toNat] fun m x => if x = m then .retire (s.here (·.setG d.toNat m)) else .admission s

def execTagff (d a : BitVec 5) (s : State) : Result :=
  tagForm s a [d.toNat] fun m x =>
    let n := trailZeros x
    if x = 0 ∧ m ≠ 0 then .admission s
    else
      .retire ((s.here fun t => t.closeRegion.setG d.toNat n).modCore s.cur.core fun k =>
        if x = 0 then k else { k with tagr := bclr k.tagr n.toNat })

def execTagclr (a : BitVec 5) (s : State) : Result :=
  tagForm s a [] fun m _ => .retire ((s.here Thread.closeRegion).modCore s.cur.core fun k => { k with tagr := k.tagr &&& ~~~m })

/-! ### LEASE and LEAVE (R217, R382) -/

/-- Drops the cached translations of a page that core `c` would use. -/
def State.forget (s : State) (c p va : Nat) : State :=
  match unitsOf c with
  | none => s
  | some (cl, l) =>
    let ep := (s.part p).epoch
    let ltc := s.md.ltc.toNat
    let gone := (s.layer l).llt.filter (·.serves p ep va ltc)
    let s := s.modCluster cl fun x => { x with tlb := x.tlb.filter fun e => !e.serves p ep va ltc }
    let s := s.modLayer l fun y => { y with llt := y.llt.filter fun e => !e.serves p ep va ltc }
    gone.foldl (fun s e => s.flushHot e) s

/-- LEASE: the page is walked again and both buffers hold what the walk gave (R217). The thread waits in memory (R355) until the lines of the
entries to be read have had their turns, and the walk is made at once then: DESIGN CHOICE, log entry 80. -/
def execLease (a : BitVec 5) (g : BitVec 3) (s : State) : Result :=
  issue s { gR := [a.toNat] } fun t =>
    match segCheck (t.seg g.toNat) (t.gr a.toNat) 1 1 .lease with
    | .error (c, g1, g2) => .trap c g1 g2
    | .ok da =>
      if s.unperformed t.tid then .fence s
      else if da ≥ 2 ^ 48 then .retire (s.here Thread.noResv)
      else
        let key := Errand.lease s.cur.core s.cur.slot
        let ls := s.walkLines t.part da
        if !s.turnsHad key ls then .fence (s.askLines key s.cur.core t.part ls)
        else
        match (((s.dropTicket key).here Thread.noResv).forget s.cur.core t.part da).translate s.cur.core t.part da .lease with
        | (.ok .., s1) => .retire s1
        | (.rights, s1) => .trapIn s1 5 (BitVec.ofNat 64 da) 0
        | (.fault m, s1) =>
          .drop (({ s1 with fresh := s1.fresh + 1 } : State).pageFault t.part (faultOf .lease false m da s.cur.core s.cur.slot s1.token)) s1.token

def execLeave (d a : BitVec 5) (s : State) : Result :=
  issue s { gR := [a.toNat], gW := [d.toNat] } fun t =>
    let w := t.gr a.toNat
    let c := s.cur.core
    if isChan c || !leaveOk w then .trap 2 0 0
    else
      match t.asking with
      | .answered r => .retire (s.here fun t => { t.closeRegion.setG d.toNat r with asking := .no })
      | .asked => .admission s
      | _ =>
        let r : GovReq := { who := .leave c s.cur.slot t.tid, core := c, part := t.part, charge := leavePower w, dur := leaveDur w }
        .admission ((s.askLeave c r).here fun t => { t.closeRegion with asking := .asked })

/-! ### The copy unit (R378-R380) -/

/-- The cursor's run: its source offset, and its destination offset by order `q`. -/
def CopyRun.source (r : CopyRun) : Word :=
  let c := r.cmd
  c.src + BitVec.ofNat 64 (r.j % c.n1) * c.s1 + BitVec.ofNat 64 (r.j / c.n1) * c.s2
def CopyRun.order (r : CopyRun) : Nat := if r.cmd.filt then r.k else r.j
def CopyRun.target (r : CopyRun) : Word :=
  let c := r.cmd
  c.dst + BitVec.ofNat 64 (r.order % c.n1) * c.d1 + BitVec.ofNat 64 (r.order / c.n1) * c.d2

/-- Destination bytes that `n` source bytes give. -/
def CopyCmd.outLen (c : CopyCmd) (n : Nat) : Nat :=
  match c.conv with
  | 0 => n
  | 1 => 32 * n / c.width
  | _ => n * c.width / 32

/-- Source bytes of the next piece: within one line on either side, or one group of 16 elements. -/
def CopyRun.pieceLen (r : CopyRun) : Nat :=
  let c := r.cmd
  match c.conv with
  | 0 =>
    let n := Nat.min (c.l0 - r.at_) (64 - (r.source.toNat + r.at_) % 64)
    if c.deliv then n else Nat.min n (64 - (r.target.toNat + r.at_) % 64)
  | 1 => 2 * c.width
  | _ => 64

/-- Where the piece lands in a delivery, from byte 0 of the register. -/
def CopyRun.landAt (r : CopyRun) : Nat := r.order * r.cmd.dlen + r.cmd.outLen r.at_

/-- Destination offset of the piece. -/
def CopyRun.destOff (r : CopyRun) : Word := r.target + BitVec.ofNat 64 (r.cmd.outLen r.at_)

/-- The scale of a converted piece (R245, R379): counted from offset 0 of the code side's segment. -/
def CopyRun.scaleNo (r : CopyRun) : Nat :=
  let c := r.cmd
  let o := if c.conv = 1 then (r.source + BitVec.ofNat 64 r.at_).toNat else if c.deliv then r.landAt else r.destOff.toNat
  o / (2 * c.width)

/-- Error code of a failing check (R380). -/
def copyCause (cause : Nat) : Nat :=
  match cause with
  | 3 | 4 => 1
  | 5 => 2
  | _ => 7

def copyStatus : Status → Nat
  | .uncorrectable => 3
  | .byrefuse | .bylost => 4
  | .hostError => 6
  | .busMaster | .rights => 2
  | .noTarget => 1
  | _ => 7

/-- Checks a piece against the snapshot; a piece of space 0x5 goes to the issuing core's scratchpad through space 0x1. A
piece outside the partition's eDRAM windows is a rights error (R206). -/
def State.copyCheck (s : State) (c : CopyCmd) (sg : Seg) (off : Word) (n : Nat) (write : Bool) : Except Nat Nat :=
  match segCheck sg off n 1 (if write then .store else .load) with
  | .error (cause, _, _) => .error (copyCause cause)
  | .ok da =>
    match s.spaceCheck c.part false (segC sg) c.core da n (if write then .copyWr else .copyRd) with
    | some cause => .error (if da / 2 ^ 48 = 2 ∧ cause = 6 then 2 else copyCause cause)
    | none => .ok (if da / 2 ^ 48 = 5 then 2 ^ 48 + c.core * 2 ^ 33 + da % 2 ^ 17 else da)

/-- The DA of a scale's bytes, under the segment rule of R302. -/
def State.copyScale (s : State) (c : CopyCmd) (b : Nat) : Except Nat Nat :=
  let da := scaleDa c.sc b
  match (List.range 7).find? (fun i =>
    let g := Sparse.get 0 c.ctx.sg (i + 1)
    segR g && segBase g ≤ da && da + 3 ≤ segBase g + segLimit g && da + 3 ≤ 2 ^ 52) with
  | none => .error 2
  | some i =>
    let g := Sparse.get 0 c.ctx.sg (i + 1)
    s.copyCheck c g (BitVec.ofNat 64 (da - segBase g)) 3 false

def State.setRun (s : State) (cl : Nat) (r : CopyRun) : State := s.modCluster cl fun x => { x with run := some r }

/-- A lease that ends within 2 µs is renewed before the access (R217). -/
def State.renew (s : State) (c p da : Nat) : State :=
  let near : Bool := match unitsOf c with
    | some (cl, l) => ((s.cluster cl).tlb ++ (s.layer l).llt).any fun e =>
        e.serves p (s.part p).epoch da s.md.ltc.toNat && e.expiry < s.md.ltc.toNat + 2000
    | none => false
  if da < 2 ^ 48 ∧ near then s.forget c p da else s

/-- Sends an access of the copy unit. Among what began to wait in one cycle (R47) it stands at slot 0 of its cluster's first core: DESIGN CHOICE,
log entry 115. -/
def State.copyAccess (s : State) (cl : Nat) (r : CopyRun) (stage : Nat) (ps : List Piece) (buf : Sparse Byte) : State :=
  let kind : AccKind := if stage = 3 then .copyWrite else .copyRead
  let s := ps.foldl (fun s x => s.renew (8 * cl) r.cmd.part x.da) s
  let a : Access := { id := s.fresh, core := 8 * cl, slot := 0, tid := BitVec.allOnes 64, part := r.cmd.part, kind := kind, marked := false,
                      nform := false, op := none, pieces := ps, buf := buf, cont := .copy cl, pc := 0, word := 0, held := none,
                      failed := none, rights := none }
  (s.setRun cl { r with acc := some a.id, stage := stage }).launchAccess a

/-- Reads the next bitmap byte. -/
def State.copyBitmap (s : State) (cl : Nat) (r : CopyRun) : State :=
  let c := r.cmd
  match s.copyCheck c (Sparse.get 0 c.ctx.sg c.bseg) (BitVec.ofNat 64 (c.bmoff + r.j / 8)) 1 false with
  | .error e => s.setRun cl { r with failed := some e }
  | .ok da => s.copyAccess cl r 1 (onePiece da 1) []

/-- Reads the next source piece, with its scale. -/
def State.copySource (s : State) (cl : Nat) (r : CopyRun) : State :=
  let c := r.cmd
  match s.copyCheck c (Sparse.get 0 c.ctx.sg c.sseg) (r.source + BitVec.ofNat 64 r.at_) r.pieceLen false with
  | .error e => s.setRun cl { r with failed := some e }
  | .ok da =>
    let ps := linePieces 3 da r.pieceLen 0
    if c.conv = 0 ∨ c.sc = 0 then s.copyAccess cl r 2 ps []
    else
      match s.copyScale c r.scaleNo with
      | .error e => s.setRun cl { r with failed := some e }
      | .ok sda => s.copyAccess cl r 2 (ps ++ linePieces 2 sda 3 scaleAt) []

/-- The bytes that a source piece gives. -/
def CopyRun.output (r : CopyRun) (buf : Sparse Byte) : List Byte :=
  let c := r.cmd
  let n := r.pieceLen
  let sc := scaleIn buf scaleAt (if c.sc = 0 then none else some r.scaleNo)
  match c.conv with
  | 0 => bufBytes buf 0 n
  | 1 => bytesOf 64 (ldnLanes c.fm (bufNat buf 0 n) sc)
  | _ => leBytes (2 * c.width) (stnCodes c.fm (BitVec.ofNat 512 (bufNat buf 0 n)) sc)

/-- The piece is done: the cursor moves on. -/
def CopyRun.next (r : CopyRun) : CopyRun :=
  let at_ := r.at_ + r.pieceLen
  let r := { r with acc := none, stage := 0 }
  if at_ < r.cmd.l0 then { r with at_ := at_ }
  else { r with at_ := 0, j := r.j + 1, k := r.k + 1, byte := if (r.j + 1) % 8 = 0 then none else r.byte }

/-- The cursor passes over a run that the bitmap leaves out. -/
def CopyRun.skip (r : CopyRun) : CopyRun := { r with j := r.j + 1, byte := if (r.j + 1) % 8 = 0 then none else r.byte }

/-- The thread of a delivery is this one, and it has the register (R379). -/
def CopyCmd.reaches (c : CopyCmd) (t : Thread) : Bool :=
  BitVec.ofNat 64 (bitsOf t.tid 42 0) == c.tid && decide (c.reg < (if c.tile then t.tiles else t.vregs))

/-- The thread and register of a delivery, while they exist (R379). -/
def State.delivThread (s : State) (c : CopyCmd) : Option Thread := (s.thread c.core c.slot).filter c.reaches

/-- A restart of the thread's region discards what its own copies still owe it (R142). -/
def CopyCmd.voidFor (c : CopyCmd) (tid : Word) : CopyCmd :=
  if c.own ∧ c.tid = BitVec.ofNat 64 (bitsOf tid 42 0) then { c with void := true } else c

def State.voidCopies (s : State) (tid : Word) : State :=
  { s with clusters := s.clusters.map fun e => (e.1, { e.2 with
      fifo := e.2.fifo.map (·.voidFor tid)
      run := e.2.run.map fun r => { r with cmd := r.cmd.voidFor tid } }) }

/-- The bytes that a delivery brings its register at byte `off`; at the end of its bytes the register is full (R379). -/
def CopyCmd.fill (c : CopyCmd) (off : Nat) (bs : List Byte) (full : Bool) : RegFill :=
  { kind := if c.tile then .m else .v, reg := c.reg, off := off, n := bs.length, val := BitVec.ofNat 512 (leNat bs), full := full }

/-- The register is full, and its thread goes on where it waited. A copy that the thread made into its own register is the result that was
due to it; what another copy delivers leaves a due result due (R181). -/
def Thread.landed (t : Thread) (c : CopyCmd) (now : Nat) : Thread :=
  (match c.own, c.tile with
    | true, true => t.payM c.reg (t.mr c.reg)
    | true, false => t.payV c.reg (t.vr c.reg)
    | _, _ => t).nudge now

/-- Bytes of a delivery land in the register of the thread in its slot, or of the one that is being written out of it or read back (R132,
R379). -/
def State.landIn (s : State) (c : CopyCmd) (f : RegFill) : State :=
  if c.void then s
  else
    match s.net.spills.find? fun x => x.core == c.core && x.slot == c.slot && x.phase != 1 with
    | some x => s.fillAway x f
    | none => s.modThread c.core c.slot fun t =>
        let t := t.takeFill f
        if f.full then t.landed c s.now else t

/-- The source piece has arrived: it is delivered, or written on. With FILT = 0 the last byte sets the register full (R379). -/
def State.copyMove (s : State) (cl : Nat) (r : CopyRun) (buf : Sparse Byte) : State :=
  let c := r.cmd
  let bs := r.output buf
  if c.deliv then
    match s.delivThread c with
    | none => s.setRun cl { r with acc := none, failed := some 5 }
    | some _ => (s.landIn c (c.fill r.landAt bs (!c.filt && decide (c.n1 * c.n2 ≤ r.next.j)))).setRun cl r.next
  else
    match s.copyCheck c (Sparse.get 0 c.ctx.sg c.dseg) r.destOff bs.length true with
    | .error e => s.setRun cl { r with acc := none, failed := some e }
    | .ok da => s.copyAccess cl r 3 (linePieces 3 da bs.length 0) (putBuf [] 0 bs)

/-- The access under way has replied. -/
def State.copyReply (s : State) (cl : Nat) (r : CopyRun) (a : Access) : State :=
  let s := s.dropAcc a.id
  match a.failed with
  | some (st, _) => s.setRun cl { r with acc := none, failed := some (copyStatus st) }
  | none =>
    match r.stage with
    | 1 => s.setRun cl { r with acc := none, stage := 0, byte := some (Sparse.get 0 a.buf 0) }
    | 2 => s.copyMove cl r a.buf
    | _ => s.setRun cl r.next

/-- A command of more than 64 KiB asks for leave (R10). The bytes that decide are those of all its runs at the source, whatever the bitmap
selects or CONV gives: DESIGN CHOICE, log entry 79. -/
def CopyCmd.asksLeave (c : CopyCmd) : Bool := 65536 < c.n1 * c.n2 * c.l0

/-- Every run has been considered. -/
def CopyRun.over (r : CopyRun) : Bool := r.failed.isSome || r.cmd.n1 * r.cmd.n2 ≤ r.j

/-- The copy unit takes one step of its command, where it can. Its request for leave is the request of the core that pushed the command:
DESIGN CHOICE, log entry 97. -/
def State.copyStep (s : State) (cl : Nat) : State :=
  match (s.cluster cl).run with
  | none => s
  | some r =>
    if r.failed.isSome then s
    else
      match r.acc with
      | some id =>
        match s.acc id with
        | some a => if a.held.isNone && a.pieces.all (fun x => x.st == .done) then s.copyReply cl r a else s
        | none => s
      | none =>
        if r.cmd.asksLeave ∧ r.leave.isNone then
          if r.asked then s
          else
            (s.setRun cl { r with asked := true }).askLeave (8 * cl)
              { who := .copy cl, core := r.cmd.core, part := r.cmd.part, charge := 2, dur := 0 }
        else if r.over then s
        else if r.cmd.filt then
          match r.byte with
          | none => s.copyBitmap cl r
          | some b => if b.getLsbD (r.j % 8) then s.copySource cl r else s.setRun cl r.skip
        else s.copySource cl r

/-- COPY_COMMAND_START: the unit takes its next command, and goes on with the one it has. -/
def execCopyCommandStart (s : State) : Result :=
  given s .copyCommandStart fun s =>
    let cl := s.env.unit
    match (s.cluster cl).run, (s.cluster cl).fifo with
    | none, c :: rest =>
      let r : CopyRun := { cmd := c, j := 0, k := 0, at_ := 0, byte := none, acc := none, stage := 0, leave := none, asked := false,
                           failed := none }
      ((s.modCluster cl fun x => { x with fifo := rest, run := some r }).modCore c.core fun k => { k with busy := bset k.busy c.tag }).copyStep cl
    | _, _ => s.copyStep cl

/-- An element of the copy error queue (R380); a full queue drops it, and the next that enters says so. -/
def Core.copyError (k : Core) (tag code index : Nat) : Core :=
  if k.errQ.length < 8 then
    { k with errQ := k.errQ ++ [BitVec.ofNat 64 (tag + (if k.errLost then 2 ^ 7 else 0) + 2 ^ 8 * code + 2 ^ 16 * (index % 2 ^ 40))],
             errLost := false }
  else { k with errLost := true }

/-- The end of a command: code (0 for none) and INDEX; a filtered delivery checks what it delivered and sets its register full (R379,
R380). -/
def State.copyEnd (s : State) (r : CopyRun) : Nat × Nat × State :=
  let c := r.cmd
  match r.failed with
  | some e => (e, r.k * c.l0 + r.at_, s)
  | none =>
    if !(c.deliv && c.filt) then (0, 0, s)
    else
      let n := r.k * c.dlen
      let good := if c.tile then n != 0 && n % 64 == 0 else n == 64
      (if good then 0 else 5, if good then 0 else r.k * c.l0,
        match s.delivThread c with
        | some _ => s.landIn c (c.fill 0 [] true)
        | none => s)

/-- COPY_COMPLETE (R378, R380). -/
def execCopyComplete (s : State) : Result :=
  given s .copyComplete fun s =>
    let cl := s.env.unit
    match (s.cluster cl).run with
    | none => s
    | some r =>
      if !r.over ∨ r.acc.isSome then s
      else
        let c := r.cmd
        let (code, index, s) := s.copyEnd r
        let s := match r.leave with
          | some id => s.endLeave id
          | none => s
        (s.modCluster cl fun x => { x with run := none }).modCore c.core fun k =>
          let k := { k with busy := bclr k.busy c.tag, tagr := bset k.tagr c.tag }
          if code = 0 then k else k.copyError c.tag code index

end Sys2Proof.Machine
end

