-- ==== Sys2Proof/Machine/System.lean ====
section
/-! DEFINITION. The system group (R356-R366): control registers, regions, traps and their return; reserved encodings (R266),
annulment (R177), instruction fetch (R196) and soft errors (R142, R143). -/

namespace Sys2Proof.Machine

/-! ### NOP, YIELD, TRAP, HALT (R362, R366) -/

def execNop (s : State) : Result := issue s {} fun _ => .retire s
def execYield (s : State) : Result := issue s {} fun _ => .late s
def execTrap (q : BitVec 4) (s : State) : Result := issue s {} fun _ => .trap 8 (q.setWidth 64) 0
def execHalt (s : State) : Result := issue s {} fun _ => .trap 9 0 0

/-- RESERVED_ENCODING (R266): the word is the issue cycle's. -/
def execReservedEncoding (s : State) : Result := issue s {} fun _ => .trap 1 0 0

/-! ### ERET (R365) -/

/-- The trapped thread that a thread word names on this core: slot, resume PC, whether it halted. -/
def State.trappedAt (s : State) (c : Nat) (w : Word) : Option (Nat × Word × Bool) :=
  let slot := bitsOf w 3 0
  if bitsOf w 63 47 ≠ 0 then none
  else
    match s.thread c slot with
    | some t =>
      match t.avail with
      | .trapped rpc halt => if bitsOf t.tid 42 0 = bitsOf w 46 4 then some (slot, rpc, halt) else none
      | _ => none
    | none => none

/-- ERET: in system mode; `f` acts on the trapped thread, and a halted one only ends. -/
def eretForm (s : State) (d a : BitVec 5) (ends : Bool) (f : State → Nat → Word → State) : Result :=
  issue s { gR := [a.toNat], gW := [d.toNat] } fun t =>
    if !t.mode then .trap 2 0 0
    else
      match s.trappedAt s.cur.core (t.gr a.toNat) with
      | some (slot, rpc, halt) =>
        if halt && !ends then .retire (s.here (·.setG d.toNat 0)) else .retire (f (s.here (·.setG d.toNat 1)) slot rpc)
      | none => .retire (s.here (·.setG d.toNat 0))

def execEretRetry (d a : BitVec 5) (s : State) : Result :=
  eretForm s d a false fun s k rpc => s.modThread s.cur.core k fun t => t.eret rpc false s.now
def execEretSkip (d a : BitVec 5) (s : State) : Result :=
  eretForm s d a false fun s k rpc =>
    let s1 := match s.thread s.cur.core k with
      | some t => s.leaveWaits t.tid
      | none => s
    s1.modThread s.cur.core k fun t => t.eret rpc true s.now
def execEretEnd (d a : BitVec 5) (s : State) : Result := eretForm s d a true fun s k _ => s.endThread s.cur.core k false

/-! ### IFENCE, IDEM, IDEND (R197, R361) -/

/-- Every earlier store of the thread is performed. -/
def State.storesDone (s : State) (tid : Word) : Bool :=
  s.net.accs.all fun a => a.tid != tid || a.performed || a.kind == .load

def execIfence (s : State) : Result :=
  issue s {} fun t => if s.storesDone t.tid then .retire (s.modCore s.cur.core fun k => { k with ibuf := [] }) else .fence s

/-- Registers that a live-in mask names. -/
def maskNames (w : Word) : Names := { gR := liveG w, vR := liveV w }

def execIdem (a : BitVec 5) (s : State) : Result :=
  issue s { gR := [a.toNat] } fun t =>
    let w := t.gr a.toNat
    let u := maskNames w
    if bitsOf w 63 48 ≠ 0 ∨ u.gR.length > 16 ∨ u.vR.length > 4 ∨ !t.holds u then .trap 2 0 0
    else if t.blocked u then .park
    else
      let r : Region := { rstart := t.pc + 4, mask := w,
                          g := u.gR.foldl (fun m n => Sparse.put 0 m n (t.gr n)) [],
                          v := u.vR.foldl (fun m n => Sparse.put 0 m n (t.vr n)) [] }
      .retire (s.here fun t => { t with region := some r })

/-- IDEND: closes the region, and the count of restarts in a row begins again (R142). -/
def execIdend (s : State) : Result :=
  issue s {} fun t => .retire ((s.here Thread.closeRegion).modLife t.tid fun l => { l with softs := 0 })

/-! ### Control registers (R356-R360, R415) -/

/-- `part` (R359). -/
def State.partWord (s : State) (p : Nat) : Word :=
  BitVec.ofNat 64 (p + (if (s.part p).det then 2 ^ 6 else 0) + 2 ^ 7 * (s.part p).epoch.toNat)

/-- A control register of selectors 0-7 as thread `t` on core `c` reads it. -/
def State.control (s : State) (t : Thread) (c : Nat) (n : Nat) : Word :=
  match n with
  | 0 => s.psw t
  | 1 => t.tid
  | 2 => coreReg c
  | 3 => s.partWord t.part
  | 4 => if isChan c then 0 else (s.core c).tagr
  | 5 => s.rfwin c
  | 6 => s.md.cyc
  | _ => if isChan c then 0xFFFFFFFFFF else (s.core c).loadq

def execRdctl (d : BitVec 5) (n : BitVec 4) (s : State) : Result :=
  issue s { gW := [d.toNat] } fun t =>
    let c := s.cur.core
    let k := s.core c
    if n.toNat < 8 then .retire (s.here (·.setG d.toNat (s.control t c n.toNat)))
    else if isChan c then .trap 2 0 0
    else if k.cEmpty.getLsbD (n.toNat - 8) then .park
    else .retire (s.here (·.setG d.toNat (k.common (n.toNat - 8))))

def execWrctl (n : BitVec 4) (b : BitVec 5) (s : State) : Result :=
  issue s { gR := [b.toNat] } fun t =>
    let v := t.gr b.toNat
    if n = 0 then .retire (s.here fun t => { t.closeRegion with mode := t.mode && v.getLsbD 0 })
    else if n.toNat < 8 ∨ isChan s.cur.core then .trap 2 0 0
    else .retire ((s.here Thread.closeRegion).modCore s.cur.core fun k => k.setCommon (n.toNat - 8) v)

def execRdlt (d : BitVec 5) (s : State) : Result := issue s { gW := [d.toNat] } fun _ => .retire (s.here (·.setG d.toNat s.md.ltc))

def execRdcnt (d : BitVec 5) (q : BitVec 3) (s : State) : Result :=
  issue s { gW := [d.toNat] } fun t => .retire (s.here (·.setG d.toNat (Sparse.get 0 t.cnt q.toNat)))

/-- RDSEG: a pair that starts at `g31` lies beyond every allocation. -/
def execRdseg (d : BitVec 5) (g : BitVec 3) (s : State) : Result :=
  issue s { gW := [d.toNat, d.toNat + 1] } fun t =>
    let w := t.seg g.toNat
    .retire (s.here fun t => (t.setG d.toNat (w.setWidth 64)).setG (d.toNat + 1) ((w >>> 64).setWidth 64))

/-- `n` lies inside `c`, with a subset of its rights (R202). -/
def segWithin (n c : Seg) : Bool :=
  segBase c ≤ segBase n && segBase n + segLimit n ≤ segBase c + segLimit c && bitsOf (n &&& ~~~c) 109 104 == 0

def execWrseg (a : BitVec 5) (g : BitVec 3) (s : State) : Result :=
  issue s { gR := [a.toNat, a.toNat + 1] } fun t =>
    let n := segClean ((t.gr a.toNat).setWidth 128 ||| ((t.gr (a.toNat + 1)).setWidth 128 <<< 64))
    if t.mode || segWithin n (t.seg g.toNat) then .retire (s.here fun t => { t with sg := Sparse.put 0 t.sg g.toNat n })
    else .trap 5 0 0

/-! ### Annulment (R177) -/

/-- ANNULLED_RETIRE. -/
def execAnnulledRetire (s : State) : Result :=
  given s .annulledRetire fun s =>
    s.modThread s.env.unit s.env.sub fun t =>
      if t.avail = .rotation ∧ t.gcnt ≠ 0 ∧ !t.gcond then { t with pc := t.pc + 4, gcnt := t.gcnt - 1 } else t

/-! ### Instruction fetch (R195-R197) -/

/-- A line enters the buffer of 256 lines, in place of an older copy, and of the oldest line where there is no room. -/
def Core.addLine (k : Core) (l : Line) : Core :=
  let kept := k.ibuf.filter fun x => !(x.part == l.part && x.base == l.base && x.off == l.off)
  { k with ibuf := (if kept.length ≥ 256 then kept.drop 1 else kept) ++ [l] }

/-- The buffered line that holds an offset of a thread's `sg0`. -/
def Core.lineAt (k : Core) (p base off : Nat) : Option Line :=
  k.ibuf.find? fun x => x.part == p && x.base == base && x.off == off / 64 * 64

/-- The word at an offset within its line. -/
def Line.word (l : Line) (off : Nat) : IWord := (l.bytes >>> (8 * (off % 64))).setWidth 32

/-- A line arrives: its thread is in the rotation again. -/
def State.lineArrives (s : State) (c slot off : Nat) (t : Thread) (bs : List Byte) : State :=
  (s.modCore c fun k => k.addLine { part := t.part, base := segBase (t.seg 0), off := off, bytes := BitVec.ofNat 512 (leNat bs) }).resume c slot

/-- The read of a line fails, at the PC of the word. -/
def State.lineFails (s : State) (c slot off : Nat) (t : Thread) (st : Status) : State :=
  s.trapThread c slot t.pc (failTrap st).1 (BitVec.ofNat 64 (segBase (t.seg 0) + off)) (BitVec.ofNat 64 (failTrap st).2) t.pc 0

/-- A line of this module or of the host is read, once it has had its turn. -/
def State.fillLine (s : State) (c slot off : Nat) (t : Thread) (bad : Bool) : State :=
  let da := segBase (t.seg 0) + off
  let s := s.endFetch c slot
  match s.resolve c t.part .read (.read 64) da with
  | (.page m, s) =>
    let token := s.token
    ((({ s with fresh := s.fresh + 1 } : State).pageFault t.part (faultOf .fetch false m da c slot token)).dropColWait c t.tid).modThread c slot
      fun t => { t with avail := .dropped token }
  | (.fail st, s) => s.lineFails c slot off t st
  | (.at_ x, s) =>
    match x.home with
    | .host =>
      if s.md.bme then
        let (ext, s) := s.fixedOr s.env.bytes
        (s.charge t.part 12 64).lineArrives c slot off t (takeExt 64 ext).1
      else s.lineFails c slot off t .busMaster
    | _ =>
      if bad then (s.irqLine t.part 2).lineFails c slot off t .uncorrectable
      else (s.chargeBytes t.part x.loc false 64).lineArrives c slot off t (s.readBytes (s.keyOf t.part) x.loc 64)

/-- A line of another module (R65, R211), whose reply `a` is back: it arrives, or its read has failed as a load's does (R71, R74). -/
def State.takeFarLine (s : State) (c slot off : Nat) (t : Thread) (a : Access) : State :=
  let s := s.endFetch c slot
  match a.failed with
  | none => s.lineArrives c slot off t (bufBytes a.buf 0 64)
  | some (st, _) => s.lineFails c slot off t st

/-- IFETCH_LINE_FILL. -/
def execIfetchLineFill (s : State) : Result :=
  given s .ifetchLineFill fun s =>
    let c := s.env.unit
    let slot := s.env.sub
    match Sparse.find? (s.core c).fetching slot, s.thread c slot with
    | some off, some t =>
      let da := segBase (t.seg 0) + off
      match s.farOf (.line c slot) da with
      | some a => if a.back then s.takeFarLine c slot off t a else s
      | none =>
        if s.isFar c t.part da 64 then s.askFar (.line c slot) .fetch c slot t da 64 0
        else if s.served (.line c slot) c t.part .read [(da, 64)] then s.fillLine c slot off t s.env.bad
        else s.askFor (.line c slot) c t.part .read [(da, 64)]
    | _, _ => s

/-! ### Soft errors (R142, R143, R344) -/

/-- Accesses of the thread go on without it: what they would have left in it is discarded. -/
def State.orphan (s : State) (tid : Word) : State :=
  s.modNet fun n => { n with accs := n.accs.map fun a =>
    if a.tid = tid ∧ !a.nform then
      { a with marked := true, cont := match a.cont with
                 | .store => .store
                 | .mst => .mst
                 | .stn da f b v => .stn da f b v
                 | _ => .lease }
    else a }

/-- Operations of the thread in the VMU, but for tile transfers, which go on without it. -/
def droppedOp (tid : Word) (o : VmuOp) : Bool := o.tid == tid && !o.isTransfer

/-- The leave that an operation in the unit holds: a matrix operation's own, or that of the chain a CHE closes. -/
def VmuOp.leave (o : VmuOp) : Option Nat := if (mmaForm o.ins).isSome then o.ref else o.chain.map (·.leave)

/-- Takes operations out of a core's dispatch queue and its quad's unit; their leaves end. -/
def State.dropOps (s : State) (c : Nat) (hit : VmuOp → Bool) : State :=
  let ops := ((s.core c).disp ++ (s.vmu (quadOf c)).running).filter hit
  let s := (ops.filterMap VmuOp.leave).foldl State.endLeave s
  (s.modCore c fun k => { k with disp := k.disp.filter fun o => !hit o }).modVmu (quadOf c)
    fun v => { v with running := v.running.filter fun o => !hit o }

/-- The open chain of a thread is discarded with its accumulator, and its leave ends (R143, R344). -/
def State.dropChain (s : State) (c slot : Nat) (t : Thread) : State :=
  match t.chain with
  | some x => (s.endLeave x.leave).modThread c slot fun t => { t with chain := none }
  | none => s

/-- Where a thread stands after a restart of its region. -/
def restartAvail (a : Avail) (rstart : Word) : Avail :=
  match a with
  | .dropped k => .dropped k
  | .trapped _ h => .trapped rstart h
  | .spilling => .spilling
  | _ => .rotation

/-- A register is zeroed and full. -/
def Thread.struck (t : Thread) (k : RegKind) (n : Nat) : Thread :=
  match k with
  | .g => t.setG n 0
  | .v => t.setV n 0
  | .m => t.setM n 0
  | .c => t

/-- A soft error restarts the open region of the thread; the fourth in a row stops it at RSTART (R142). -/
def State.softRestart (s : State) (c slot : Nat) (t : Thread) (r : Region) (strike : Thread → Thread) : State :=
  let kids := (s.life t.tid).kids
  let n := (s.life t.tid).softs + 1
  let s := (((((((s.dropOps c (droppedOp t.tid)).dropChain c slot t).stopAsking t).dropColWait c t.tid).endFetch c slot).dropErrands c slot).orphan t.tid).voidCopies t.tid
  let s := (s.leaveWaits t.tid).modLife t.tid fun l => { l with softs := n }
  let s := s.modThread c slot fun t =>
    let u := (strike t).restart r kids
    { u with avail := restartAvail t.avail r.rstart, chain := none, asking := .no, fence := none,
             region := some r, from_ := Nat.max t.from_ (s.now + 1) }
  if n ≥ 4 then s.trapThread c slot r.rstart 0xC (BitVec.ofNat 64 n) 0 r.rstart 0 else s

/-- An operation of the thread's open chain: its CHB, or an MMA form in it. -/
def chainOp (tid : Word) (o : VmuOp) : Bool :=
  o.tid == tid && (match o.ins with
    | .chb _ => true
    | i => (mmaForm i).isSome && o.ref.isNone)

/-- A thread that waits for a matrix operation which has been dropped goes on after it. -/
def Thread.pastMatrix (t : Thread) (now : Nat) : Thread :=
  if t.avail = .matrix then { t.advance with from_ := Nat.max t.from_ (now + 1) } else t

/-- The report of a soft error outside a region (R364). -/
def softReport (k : RegKind) (n g2 : Nat) : Report :=
  let code := n + 32 * (match k with
    | .g => 0
    | .v => 1
    | .m => 2
    | .c => 3)
  { cause := 0xD, g1 := BitVec.ofNat 64 code, g2 := BitVec.ofNat 64 g2, g4 := 0, g5 := 0 }

/-- A soft error in a register of a thread that is being written out or read back: the register is zeroed and full. In a region the
restart is the restore's; outside one the report falls due when the thread goes on (R142, R143). -/
def State.softSpill (s : State) (x : Spill) (k : RegKind) (n : Nat) : State :=
  let u := x.t.struck k n
  s.setSpill x { x with
    t := if x.t.region.isSome then u else { u with reports := u.reports ++ [softReport k n 0] }
    fills := if x.phase = 2 then x.fills ++ [{ kind := k, reg := n, off := 0, n := recSize k, val := 0, full := true }] else x.fills }

/-- A soft error outside a region: it strikes the thread's registers, the chain is discarded with the operations of it that the unit has not
completed, and an imprecise report falls due (R143). -/
def State.softStop (s : State) (c slot : Nat) (t : Thread) (strike : Thread → Thread) (r : Report) : State :=
  let inChain : Bool := t.chain.isSome && ((s.core c).disp ++ (s.vmu (quadOf c)).running).any (chainOp t.tid)
  let s := if t.chain.isSome then (s.dropOps c (chainOp t.tid)).dropChain c slot t else s
  s.modThread c slot fun t =>
    let t := if inChain then t.pastMatrix s.now else t
    { strike t with reports := t.reports ++ [r] }

/-- The register that an operation of the unit writes, but for tile loads and the operations of an open chain. -/
def opDest (o : VmuOp) (t : Thread) : Option (RegKind × Nat) :=
  match vecResult o with
  | some (.g d ..) => some (.g, d)
  | some (.v d ..) => some (.v, d)
  | none =>
    match tileResult o t with
    | some (k, d, _, _) => some (k, d)
    | none => (mmaForm o.ins).map fun x => (.m, x.1)

/-- The tiles that a tile load writes: its own, and the companion of a narrow one. -/
def Cont.tiles : Cont → List Nat
  | .mld d _ _ _ comp _ _ => d :: comp.toList
  | .mldt d _ => [d]
  | _ => []

/-- The thread's tile loads into a register. -/
def State.loadsTo (s : State) (tid : Word) (k : RegKind) (n : Nat) : List Access :=
  if k = .m then s.net.accs.filter fun a => a.tid == tid && a.cont.tiles.contains n else []

/-- The destinations of a struck operation that writes a register: a narrow tile load has two (R143, R335). -/
def State.struckDests (s : State) (tid : Word) (k : RegKind) (n : Nat) : List (RegKind × Nat) :=
  ((k, n) :: (s.loadsTo tid k n).flatMap fun a => a.cont.tiles.map fun m => (RegKind.m, m)).eraseDups

/-- A struck tile load writes nothing: one that still waits for the unit is gone, and what another has sent for is discarded. -/
def Access.struckLoad (a : Access) : Option Access := if a.held = some 0 then none else some { a with cont := .lease }

def State.dropLoads (s : State) (ids : List Nat) : State :=
  let keep (a : Access) : Option Access := if ids.contains a.id then a.struckLoad else some a
  s.modNet fun n => { n with accs := n.accs.filterMap keep }

/-- The struck operation of a thread that has no region writes nothing; a matrix operation's leave ends and its thread goes on. -/
def State.dropStruck (s : State) (c : Nat) (t : Thread) (k : RegKind) (n : Nat) : State :=
  let ids := (s.loadsTo t.tid k n).map (·.id)
  let hit (o : VmuOp) : Bool := o.tid == t.tid && (if o.isTransfer then o.ref.any ids.contains else opDest o t == some (k, n))
  let mma := ((s.core c).disp ++ (s.vmu (quadOf c)).running).any fun o => hit o && (mmaForm o.ins).isSome
  let s := (s.dropOps c hit).dropLoads ids
  if mma then s.modThread c (((s.core c).slotOf t.tid).getD 16) (·.pastMatrix s.now) else s

/-- The tile of a chain into which an operation of the thread's open chain goes: none of them writes it (R341). -/
def chainTile (tid : Word) (o : VmuOp) : Option Nat :=
  if chainOp tid o then
    match o.ins with
    | .chb d => some d.toNat
    | i => (mmaForm i).map (·.1)
  else none

/-- Pays the destination of a struck operation with zero. -/
def Thread.payZero (t : Thread) (k : RegKind) (n : Nat) : Thread :=
  match k with
  | .g => t.payG n 0
  | .v => t.payV n 0
  | .m => t.payM n 0
  | .c => t

/-- SOFT_ERROR. -/
def State.softError (s : State) (c : Nat) : SoftHit → State
  | .common n =>
    match s.partOf c with
    | some p =>
      if n < 8 then (s.modCore c fun k => k.setCommon n 0).reportCore p c 0xD (BitVec.ofNat 64 (n + 96)) 0 else s
    | none => s
  | .reg slot k n =>
    match s.thread c slot with
    | some t =>
      if !t.hasReg k n then s
      else if t.avail = .spilling then
        match s.net.spills.find? fun x => x.core == c && x.slot == slot && x.phase != 1 with
        | some x => s.softSpill x k n
        | none => s
      else
        match t.region with
        | some r => s.softRestart c slot t r (·.struck k n)
        | none => s.softStop c slot t (·.struck k n) (softReport k n 0)
    | none => s
  | .vmu slot k n =>
    match s.thread c slot with
    | some t =>
      if !t.hasReg k n ∨ t.avail = .spilling then s
      else
        match t.region with
        | some r => s.softRestart c slot t r id
        | none =>
          if k = .m ∧ t.chain.isSome ∧ (((s.core c).disp ++ (s.vmu (quadOf c)).running).any fun o => chainTile t.tid o == some n) then
            s.softStop c slot t id (softReport k n 1)
          else
            let ds := s.struckDests t.tid k n
            (s.dropStruck c t k n).softStop c slot t (fun t => ds.foldl (fun t d => t.payZero d.1 d.2) t) (softReport k n 1)
    | none => s

def execSoftError (s : State) : Result := given s .softError fun s => s.softError s.env.unit s.env.hit

end Sys2Proof.Machine
end

