-- ==== Sys2Proof/Machine/Regs.lean ====
section
/-! DEFINITION. Device control registers (R416): the map of DA space 0xE, reads and writes, and the bench cores' accesses (R82, R83). -/

namespace Sys2Proof.Machine

/-- The registers of DA space 0xE. `t` is a tower, `l` a layer number 0-31, `p` a partition. -/
inductive Reg where
  | mstat | apbase
  | govst (l : Nat)
  | pwrceil (l : Nat)
  | pwralw (l p : Nat)
  | kmap (t k : Nat)
  | colstat (t : Nat)
  | colrld (t : Nat)
  | lsleep (t : Nat)
  | cmboff | byid | bytime
  | bypart (p : Nat)
  | bywin (p w : Nat)
  | bystat (q : Nat)
  | part (p : Nat)
  | pcmd (p : Nat)
  | sched (p q : Nat)
  | ctxbase (p q : Nat)
  | psched (p : Nat)
  | ptroot (p : Nat)
  | ptshad (p : Nat)
  | fq0 (p : Nat)
  | fq1 (p : Nat)
  | pwake (p : Nat)
  | tstat
  | edctl (p : Nat)
  | edwin (p w : Nat)
  | benchtag (i : Nat)
  | lstat (p : Nat)
  | gtab (p g : Nat)
  | lqpush (p : Nat)
  | cqpop (p : Nat)
  | meter (p i : Nat)
  /-- Word `k` of the MSI-X table, and from word 2^9 on of its pending-bit array (R76). -/
  | msixWord (k : Nat)
  deriving DecidableEq, Repr

/-- The element of an array of `n` words that starts at `base`, one word every `stride` bytes. -/
def arrayAt (o base stride n : Nat) : Option Nat :=
  if base ≤ o ∧ (o - base) % stride = 0 ∧ (o - base) / stride < n then some ((o - base) / stride) else none

/-- The Col's registers of one tower (R25, R39, R40, R420). -/
def towerReg (t o : Nat) : Option Reg :=
  if o < 0x200 then some (.kmap t (o / 8))
  else if o = 0x200 then some (.colstat t)
  else if o = 0x208 then some (.colrld t)
  else if o = 0x210 then some (.lsleep t)
  else none

/-- The partition pages (R85): control window, launch queue, completion queue, meters. -/
def pageReg (page p o : Nat) : Option Reg :=
  match page with
  | 1 => if o = 0 then some (.lstat p) else if 0x800 ≤ o then some (.gtab p ((o - 0x800) / 8)) else none
  | 2 => if o = 0 then some (.lqpush p) else none
  | 3 => if o = 0 then some (.cqpop p) else none
  | _ => if o < 0x80 then some (.meter p (o / 8)) else none

/-- The register of the 8-byte word at offset `o` of DA space 0xE; `o` is a multiple of 8. -/
def regAt (o : Nat) : Option Reg :=
  match pagePart o with
  | some p => pageReg (o / 0x100000) p (o % 0x1000)
  | none =>
    if o = 0x100 then some .mstat
    else if o = 0x200 then some .apbase
    else if o = 0x20000 then some .cmboff
    else if o = 0x30000 then some .byid
    else if o = 0x30008 then some .bytime
    else if o = 0x73000 then some .tstat
    else if 0x1000 ≤ o ∧ o < 0x1100 then some (.govst ((o - 0x1000) / 0x40 * 8 + (o - 0x1000) / 8 % 8))
    else if 0x1200 ≤ o ∧ o < 0x1300 then some (.pwrceil ((o - 0x1200) / 0x40 * 8 + (o - 0x1200) / 8 % 8))
    else if 0x8000 ≤ o ∧ o < 0xC000 then some (.pwralw ((o - 0x8000) / 0x200) ((o - 0x8000) / 8 % 64))
    else if 0x10000 ≤ o ∧ o < 0x14000 then towerReg ((o - 0x10000) / 0x1000) (o % 0x1000)
    else if 0x31000 ≤ o ∧ o < 0x31800 then some (.bywin ((o - 0x31000) / 0x20) (o / 8 % 4))
    else if 0x60000 ≤ o ∧ o < 0x61000 then
      (if o / 0x20 % 2 = 0 then some (.sched ((o - 0x60000) / 0x40) (o / 8 % 4)) else some (.ctxbase ((o - 0x60000) / 0x40) (o / 8 % 4)))
    else if 0x81000 ≤ o ∧ o < 0x81800 then some (.edwin ((o - 0x81000) / 0x20) (o / 8 % 4))
    else
      ((arrayAt o 0x30100 8 64).map .bypart) <|> ((arrayAt o 0x32000 8 64).map .bystat)
        <|> ((arrayAt o 0x40000 8 64).map .part) <|> ((arrayAt o 0x40200 8 64).map .pcmd) <|> ((arrayAt o 0x61000 8 64).map .psched)
        <|> ((arrayAt o 0x70000 0x10 64).map .ptroot) <|> ((arrayAt o 0x70008 0x10 64).map .ptshad)
        <|> ((arrayAt o 0x71000 0x10 64).map .fq0) <|> ((arrayAt o 0x71008 0x10 64).map .fq1)
        <|> ((arrayAt o 0x72000 8 64).map .pwake) <|> ((arrayAt o 0x80000 8 64).map .edctl)
        <|> ((arrayAt o 0x90000 8 16).map .benchtag)
        <|> ((arrayAt o 0xF00000 8 130).map .msixWord) <|> ((arrayAt o 0xF01000 8 2).map fun k => .msixWord (512 + k))

/-- BENCHTAG as it stands: SYS after reset (R83). -/
def State.benchTag (s : State) (i : Nat) : BitVec 7 := Sparse.get 0x40 s.md.bench i

/-- The value of a register; a write-only one reads zero. The removal that a read of FQ1 or CQPOP makes is `readReg`'s. -/
def State.regWord (s : State) : Reg → Word
  | .mstat => s.md.mstat
  | .apbase => s.md.apbase
  | .govst l => (s.layer l).govst
  | .pwrceil l => (s.layer l).ceil.setWidth 64
  | .pwralw l p => (Sparse.get 0 (s.layer l).alw p).setWidth 64
  | .kmap t k => (s.tower t).readKmap k
  | .colstat t => (s.tower t).colstat
  | .colrld _ => 0
  | .lsleep t => (s.tower t).sleep.setWidth 64
  | .cmboff => (List.range 64).foldl (fun w p => if (s.part p).cmboff then bset w p else w) 0
  | .byid => s.by_.byid
  | .bytime => s.by_.bytime
  | .bypart p => (s.aux p).bypart.setWidth 64
  | .bywin p w => Sparse.get 0 (s.aux p).bywin w
  | .bystat q => s.bystat q
  | .part p => (s.part p).word
  | .pcmd p => (s.part p).pcmd
  | .sched p q => (s.schedWord p q).setWidth 64
  | .ctxbase p q => s.ctxWord p q
  | .psched p => s.readPsched p
  | .ptroot p => (s.aux p).ptroot
  | .ptshad p => (s.aux p).ptshad
  | .fq0 p => (((s.aux p).fq.head?).map FaultRec.word0).getD 0
  | .fq1 p => (s.popFq p).1
  | .pwake _ => 0
  | .tstat => s.md.tstat.setWidth 64
  | .edctl p => if (s.aux p).loadSt then 1 else 0
  | .edwin p w => (Sparse.get 0 (s.aux p).edwin w).setWidth 64
  | .benchtag i => (s.benchTag i).setWidth 64
  | .lstat p => (s.part p).lstat
  | .gtab p g => (s.part p).group g
  | .lqpush _ => 0
  | .cqpop p => (s.popCq p 16).1
  | .meter p i => Sparse.get 0 (s.part p).meters i
  | .msixWord k => Sparse.get 0 s.md.msixTab k

/-- What an 8-byte write does; a read-only register ignores it. `i` is the bench core that writes, 16 for the host or a thread, whose
pushes of a cycle follow those of the bench cores: DESIGN CHOICE, log entry 82. -/
def State.writeWord (s : State) (i : Nat) (v : Word) : Reg → State
  | .mstat => s
  | .apbase => s.modMod fun m => { m with apbase := v &&& 0x3FFFFFF0000 }
  | .govst l => s.writeGovst l v
  | .pwrceil l => s.writeCeil l v
  | .pwralw l p => s.writeAlw l p v
  | .kmap t k => s.modTower t fun x => x.writeKmap k v
  | .colstat t => s.modTower t fun x => { x with kbusy := x.kbusy && !v.getLsbD 24 }
  | .colrld t => s.modTower t fun x => x.startReload v
  | .lsleep t => s.modTower t fun x => { x with sleep := v.setWidth 8 }
  | .cmboff => (List.range 64).foldl (fun s p => s.modPart p fun x => { x with cmboff := v.getLsbD p }) s
  | .byid => s.writeByid v
  | .bytime => s.modByand fun b => { b with master := v.setWidth 22, isMaster := v.getLsbD 22 }
  | .bypart p => s.modAux p fun a => { a with bypart := v.setWidth 17 }
  | .bywin p w => s.modAux p fun a => { a with bywin := Sparse.put 0 a.bywin w (v &&& 0xFFFFFFFFFFFF0001) }
  | .bystat q => s.writeBystat q v
  | .part p => s.writePart p v
  | .pcmd p => s.writePcmd p v
  | .sched p q => s.modAux p fun a => { a with sched := Sparse.put 0 a.sched q (v.setWidth 32) }
  | .ctxbase p q => s.writeCtxbase p q v
  | .psched p => s.writePsched p v
  | .ptroot p => s.modAux p fun a => { a with ptroot := v &&& 0x3FFFFFFE001 }
  | .ptshad p => s.modAux p fun a => { a with ptshad := v &&& 0x3FFFFFFFFF8 }
  | .fq0 _ => s
  | .fq1 _ => s
  | .pwake p => s.writePwake p v
  | .tstat => s.modMod fun m => { m with tstat := m.tstat &&& ~~~v.setWidth 32 }
  | .edctl p => s.writeEdctl p v
  | .edwin p w => s.modAux p fun a => { a with edwin := Sparse.put 0 a.edwin w ((v &&& 0x3FFFF003F).setWidth 34) }
  | .benchtag b => s.modMod fun m => { m with bench := Sparse.put 0x40 m.bench b (v.setWidth 7) }
  | .lstat p => s.writeLstat p v
  | .gtab p g => s.writeGtab p g v
  | .lqpush p => s.benchPush p i v
  | .cqpop _ => s
  | .meter _ _ => s
  | .msixWord k => if k < 512 then s.modMod fun m => { m with msixTab := Sparse.put 0 m.msixTab k v } else s

/-- A read of `n` bytes of DA space 0xE (R416). A word that no register has reads zero. Of a read that is not naturally aligned, which
only a bench core or the host can make, the bytes of the first word count and the others are zero; one of more than 8 bytes gives the first word, and removes nothing: DESIGN
CHOICE, log entry 81. `i` is the bench core that reads, 16 for the host or a thread (log entry 82). -/
def State.readReg (s : State) (i o n : Nat) : Word × State :=
  match regAt (o / 8 * 8) with
  | none => (0, s)
  | some (.cqpop p) => if n = 8 then s.popCq p i else (0, s)
  | some (.fq1 p) => if n = 8 then s.popFq p else (0, s)
  | some r => (BitVec.ofNat 64 ((s.regWord r).toNat / 2 ^ (8 * (o % 8)) % 2 ^ (8 * n)), s)

/-- A write of `n` bytes (R416): only an 8-byte write at an 8-byte aligned address has an effect; one of more bytes has none (log entry
81). -/
def State.writeReg (s : State) (i o n : Nat) (v : Word) : State :=
  if n = 8 ∧ o % 8 = 0 then
    match regAt o with
    | some r => s.writeWord i v r
    | none => s
  else s

/-- Firmware redirects egress port `q` to port `r`, or back to itself (R75). -/
def State.redirect (s : State) (q r : Nat) : State :=
  s.modByand fun b => { b with egress := if r = q then Sparse.erase b.egress q else Sparse.insert b.egress q r }

/-- REGISTER_WRITE (R416): a host request through BAR0 to an offset of DA space 0xE: a write, or (without `write`) a read, of `size`
bytes, and one past BAR0 is an Unsupported Request (R76). With an egress port for home it is firmware's write of that port's egress-table entry (R75): DESIGN CHOICE, log entry 83. -/
def execRegisterWrite (s : State) : Result :=
  given s .registerWrite fun s =>
    match s.env.home with
    | .egress q => s.redirect q (s.env.val.toNat % 64)
    | _ =>
      let o := s.env.addr.toNat
      if 2 ^ 24 ≤ o ∨ 2 ^ 24 < o + s.env.size then { s with ext := .unsupported }
      else if s.env.write then s.writeReg 16 o s.env.size s.env.val
      else
        let (w, s) := s.readReg 16 o s.env.size
        { s with ext := .data s.env.size w }

/-! ### Bench cores (R8, R82, R83) -/

/-- The number of the bench core at position `i` of the Carcass die of tower `t` (R8), which it reads in its `mhartid`. -/
def benchNumber (t i : Nat) : Nat := 4 * t + i

/-- `mhartid` of a bench core (R8). -/
def mhartid (b : Nat) : Word := BitVec.ofNat 64 b

/-- Tower and position of a bench core (R8). -/
def benchPlace (b : Nat) : Nat × Nat := (b / 4, b % 4)

/-- The route of a bench core's access through the Carcass crossbar (R45, R82, R410). -/
def benchRoute (b : Nat) (h : Home) (a : Nat) : List (Nat × Nat × Nat) :=
  xbarHops (benchPlace b).1 (4192 + (benchPlace b).2) h a

/-- A bench access to local physical memory under its tag (R82, R83) takes no permit and crosses the crossbar to the home of its first
byte, where it is performed. A system access has its turns (R49) under the PART that R83 ignores: DESIGN CHOICE, log entry 85. -/
def State.benchMemory (s : State) (i a : Nat) (op : MemOp) (n : Nat) (atomic : Bool) : State :=
  let tag := s.benchTag i
  match homeOf a with
  | some h =>
    if h = .host ∧ (atomic || !s.md.bme) ∨ (h ≠ .host ∧ !(isHbm (a + n - 1) || isSram (a + n - 1))) then { s with ext := .accessFault }
    else
      let hdr : Header := { id := s.fresh, part := bitsOf tag 5 0, op := op, loc := a, home := h, dest := 0, expiry := none, uncmb := true,
                            mems := [], extra := 0, src := .bench i (tag.getLsbD 6) }
      ({ s with fresh := s.fresh + 1 } : State).enterNet hdr (benchRoute i h a)
  | none => { s with ext := .accessFault }

/-- A bench access to DA space 0xE, as it reaches its register: with SYS = 0, only to the pages of its own partition (R83, R85). -/
def State.benchReg (s : State) (i o n : Nat) (write : Bool) (v : Word) : State :=
  let tag := s.benchTag i
  if !tag.getLsbD 6 && pagePart o != some (bitsOf tag 5 0) then { s with ext := .accessFault }
  else if write then { s.writeReg i o n v with ext := .ack }
  else
    let (w, s) := s.readReg i o n
    { s with ext := .data n w }

/-- BENCH_ACCESS: the address is decoded as R82 says. `op` is given for an AMO, LR or SC; one to a register acts there as the plain read or
write that the environment names: DESIGN CHOICE, log entry 109. -/
def execBenchAccess (s : State) : Result :=
  given s .benchAccess fun s =>
    let a := s.env.addr.toNat
    let n := s.env.size
    if a < 2 ^ 42 then
      match s.env.op with
      | some op => s.benchMemory s.env.unit a op n true
      | none => s.benchMemory s.env.unit a (if s.env.write then .write n (s.env.val.setWidth 512) else .read n) n false
    else if a / 2 ^ 48 = 2 ^ 7 then s.benchReg s.env.unit (a % 2 ^ 48) n s.env.write s.env.val
    else { s with ext := .accessFault }

end Sys2Proof.Machine
end

