-- ==== Sys2Proof/Machine/MemIsa.lean ====
section
/-! DEFINITION. The memory and atomic instructions (R295-R312): scalar, vector and narrow loads and stores, the AMO forms, LR and
SC with their moves, and the N-forms. -/

namespace Sys2Proof.Machine

/-! ### Shared forms -/

/-- Changes the state that an attempt leaves where the instruction has issued. -/
def Out.mapNext (f : State → State) : Out → Out
  | .retire s => .retire (f s)
  | .start s a => .start (f s) a
  | .settled s => .settled (f s)
  | o => o

/-- The thread is held back by R225: a marked access by a full window, an unmarked one by an access not yet performed. -/
def State.heldBack (s : State) (t : Thread) (marked : Bool) : Option Out :=
  if marked then (if s.window t.tid ≥ 8 then some (.admission s) else none)
  else if s.unperformed t.tid then some (.fence s)
  else none

/-- The attempt moves the thread to another core, where the instruction issues again (R192, R309). -/
def moveTo (s : State) (target : Nat) (t : Thread) : Out :=
  if !s.clearToMove t then .fence s else .moved (s.packTo s.cur.core s.cur.slot target { t with avail := .rotation })

/-- An alias access replies after four cycles (R204). -/
def State.aliasWait (s : State) (da : Nat) : State :=
  if da / 2 ^ 48 = 5 then s.here fun t => { t with from_ := Nat.max t.from_ (s.now + 4) } else s

/-- The core that a load moves its thread to (R192, R193). -/
def State.loadMoves (s : State) (t : Thread) (da : Nat) : Option Nat :=
  let c := da % 2 ^ 48 / 2 ^ 33
  if t.migrate && t.vregs == 0 && t.tiles == 0 && da / 2 ^ 48 == 1 && c != s.cur.core then some c else none

/-- A load's access after its checks. -/
def loadAt (s : State) (t : Thread) (marked : Bool) (da : Nat) (ps : List Piece) (k : Cont) (dst : RegKind × Nat) : Out :=
  match s.loadMoves t da with
  | some c => moveTo s c t
  | none => (s.issueAccess t .load marked none ps [] k [dst]).mapNext (·.aliasWait da)

/-- A store of `n` bytes of `v` after its checks: a Col write, or an access; an alias store waits for room in the near buffer. -/
def storeAt (s : State) (t : Thread) (marked : Bool) (da n : Nat) (v : Vec) : Out :=
  if da / 2 ^ 48 = 3 then (s.heldBack t marked).getD (s.colStore t da n v)
  else if da / 2 ^ 48 = 5 ∧ !s.nearOpen s.cur.core s.fresh then .admission s
  else (s.issueAccess t .store marked none (linePieces 3 da n 0) (putBuf [] 0 (bytesOf n v)) .store []).mapNext (·.aliasWait da)

/-! ### Scalar loads and stores (R296-R298, R416) -/

/-- A load of a control register. -/
def regLoad (s : State) (t : Thread) (marked : Bool) (da n d : Nat) (signed : Bool) : Out :=
  (s.heldBack t marked).getD
    (let (w, s1) := s.readReg 16 (da % 2 ^ 48) n
     .retire (s1.here fun t => t.noResv.setG d (loadValue n signed w.toNat)))

def scalarLoad (s : State) (size : Nat) (signed : Bool) (d a : BitVec 5) (g : BitVec 3) (x : BitVec 1) (o : BitVec 10) : Result :=
  issue s { gR := [a.toNat], gW := [d.toNat] } fun t =>
    match s.checkAccess t s.cur.core g.toNat (memOffset (t.gr a.toNat) o size) size size .load .ld with
    | .error (c, g1, g2) => .trap c g1 g2
    | .ok da =>
      if da / 2 ^ 48 = 14 then regLoad s t (x == 1) da size d.toNat signed
      else loadAt s t (x == 1) da (onePiece da size) (.gen d.toNat size signed) (.g, d.toNat)

def scalarStore (s : State) (size : Nat) (d a : BitVec 5) (g : BitVec 3) (x : BitVec 1) (o : BitVec 10) : Result :=
  issue s { gR := [a.toNat, d.toNat] } fun t =>
    match s.checkAccess t s.cur.core g.toNat (memOffset (t.gr a.toNat) o size) size size .store .st with
    | .error (c, g1, g2) => .trap c g1 g2
    | .ok da =>
      if da / 2 ^ 48 = 14 then
        (s.heldBack t (x == 1)).getD (.retire ((s.here Thread.noResv).writeReg 16 (da % 2 ^ 48) size (t.gr d.toNat)))
      else storeAt s t (x == 1) da size ((t.gr d.toNat).setWidth 512)

def execLdb (d a : BitVec 5) (g : BitVec 3) (x : BitVec 1) (o : BitVec 10) (s : State) : Result := scalarLoad s 1 true d a g x o
def execLdh (d a : BitVec 5) (g : BitVec 3) (x : BitVec 1) (o : BitVec 10) (s : State) : Result := scalarLoad s 2 true d a g x o
def execLdw (d a : BitVec 5) (g : BitVec 3) (x : BitVec 1) (o : BitVec 10) (s : State) : Result := scalarLoad s 4 true d a g x o
def execLdd (d a : BitVec 5) (g : BitVec 3) (x : BitVec 1) (o : BitVec 10) (s : State) : Result := scalarLoad s 8 true d a g x o
def execLdbz (d a : BitVec 5) (g : BitVec 3) (x : BitVec 1) (o : BitVec 10) (s : State) : Result := scalarLoad s 1 false d a g x o
def execLdhz (d a : BitVec 5) (g : BitVec 3) (x : BitVec 1) (o : BitVec 10) (s : State) : Result := scalarLoad s 2 false d a g x o
def execLdwz (d a : BitVec 5) (g : BitVec 3) (x : BitVec 1) (o : BitVec 10) (s : State) : Result := scalarLoad s 4 false d a g x o
def execStb (d a : BitVec 5) (g : BitVec 3) (x : BitVec 1) (o : BitVec 10) (s : State) : Result := scalarStore s 1 d a g x o
def execSth (d a : BitVec 5) (g : BitVec 3) (x : BitVec 1) (o : BitVec 10) (s : State) : Result := scalarStore s 2 d a g x o
def execStw (d a : BitVec 5) (g : BitVec 3) (x : BitVec 1) (o : BitVec 10) (s : State) : Result := scalarStore s 4 d a g x o
def execStd (d a : BitVec 5) (g : BitVec 3) (x : BitVec 1) (o : BitVec 10) (s : State) : Result := scalarStore s 8 d a g x o

/-! ### Vector loads and stores (R299) -/

def execVld (d : BitVec 4) (a : BitVec 5) (g : BitVec 3) (x : BitVec 1) (o : BitVec 10) (s : State) : Result :=
  issue s { gR := [a.toNat], vW := [d.toNat] } fun t =>
    match s.checkAccess t s.cur.core g.toNat (memOffset (t.gr a.toNat) o 64) 64 64 .load .vld with
    | .error (c, g1, g2) => .trap c g1 g2
    | .ok da => loadAt s t (x == 1) da (onePiece da 64) (.vec d.toNat) (.v, d.toNat)

def execVst (d : BitVec 4) (a : BitVec 5) (g : BitVec 3) (x : BitVec 1) (o : BitVec 10) (s : State) : Result :=
  issue s { gR := [a.toNat], vR := [d.toNat] } fun t =>
    match s.checkAccess t s.cur.core g.toNat (memOffset (t.gr a.toNat) o 64) 64 64 .store .vst with
    | .error (c, g1, g2) => .trap c g1 g2
    | .ok da => storeAt s t (x == 1) da 64 (t.vr d.toNat)

/-! ### Narrow loads and stores (R300-R303) -/

/-- A narrow access with its checks made: format, service, segment and space, scale (R242, R19, R301, R302). Gives the element
address and the number of the scale, none where the scale pointer is zero. -/
def narrowCheck (s : State) (t : Thread) (p g : Nat) (off : Word) (sk : SegKind) (k : SpKind) : Except TrapInfo (Nat × Option Nat) :=
  let f := t.fmw p
  let n := 2 * (Fmt.ofWord f).width
  if !fmtOk f || !s.md.full then .error (2, 0, 0)
  else
    match s.checkAccess t s.cur.core g off n n sk k with
    | .error e => .error e
    | .ok da =>
      let sc := t.scw p
      if sc = 0 then .ok (da, none)
      else
        let b := off.toNat / n
        match scaleFault s t (scaleDa sc b) with
        | some e => .error e
        | none => .ok (da, some b)

def execLdn (d : BitVec 4) (a : BitVec 5) (g : BitVec 3) (x : BitVec 1) (p : BitVec 2) (o : BitVec 10) (s : State) : Result :=
  issue s { gR := [a.toNat], vW := [d.toNat] } fun t =>
    let f := t.fmw p.toNat
    match narrowCheck s t p.toNat g.toNat (memOffset (t.gr a.toNat) o 64) .ldn .vld with
    | .error (c, g1, g2) => .trap c g1 g2
    | .ok (da, b) =>
      loadAt s t (x == 1) da (linePieces 3 da (2 * (Fmt.ofWord f).width) 0 ++ scalePieces (t.scw p.toNat) b.toList) (.ldn d.toNat f b)
        (.v, d.toNat)

/-- How an access that does not resolve ends the attempt of an unmarked access (R212, R219). -/
def resolveFault (s : State) (t : Thread) (kind : AccKind) (da : Nat) : Res → Out
  | .page m =>
    .drop (({ s with fresh := s.fresh + 1 } : State).pageFault t.part (faultOf kind false m da s.cur.core s.cur.slot s.token)) s.token
  | .fail st => .trapIn s (failTrap st).1 (BitVec.ofNat 64 da) (BitVec.ofNat 64 (failTrap st).2)
  | .at_ _ => .admission s

/-- STN with a scale to read: an unmarked one faults on its element address before anything leaves. -/
def stnScaled (s : State) (t : Thread) (marked : Bool) (da b : Nat) (f : BitVec 32) (sc : Word) (v : Vec) : Out :=
  let ps := linePieces 3 da (2 * (Fmt.ofWord f).width) 0
  let go := s.issueAccess t .store marked none (scalePieces sc [b]) [] (.stn da f (some b) v) []
  if marked then go
  else if s.unperformed t.tid then .fence s
  else
    match s.resolveAll (s.newAccess t s.fresh .store false false none ps [] .store) ps 0 [] with
    | (.ok _, _) => go
    | (.error (x, r), s1) => resolveFault s1 t .store x.da r

def execStn (d : BitVec 4) (a : BitVec 5) (g : BitVec 3) (x : BitVec 1) (p : BitVec 2) (o : BitVec 10) (s : State) : Result :=
  issue s { gR := [a.toNat], vR := [d.toNat] } fun t =>
    let f := t.fmw p.toNat
    let n := 2 * (Fmt.ofWord f).width
    match narrowCheck s t p.toNat g.toNat (memOffset (t.gr a.toNat) o 64) .stn .stn with
    | .error (c, g1, g2) => .trap c g1 g2
    | .ok (da, none) => storeAt s t (x == 1) da n (BitVec.ofNat 512 (stnCodes f (t.vr d.toNat) unitScale))
    | .ok (da, some b) => stnScaled s t (x == 1) da b f (t.scw p.toNat) (t.vr d.toNat)

/-! ### Fetch-and-operate, compare-and-swap, floating add (R304-R308) -/

/-- Width of an AMO form in bytes. -/
def amoWidth (w : BitVec 1) : Nat := if w = 1 then 8 else 4

/-- Closes the region of the thread in the current slot, as its AMO takes effect (R142, R305). -/
def State.closeHere (s : State) : State := s.here Thread.closeRegion

/-- An AMO form at its home queue. -/
def amoForm (s : State) (d a : BitVec 5) (gs : List Nat) (g : BitVec 3) (w : Nat) (op : Thread → MemOp) (signed : Bool) : Result :=
  issue s { gR := a.toNat :: gs, gW := [d.toNat] } fun t =>
    match s.checkAccess t s.cur.core g.toNat (t.gr a.toNat) w w .amo .amo with
    | .error (c, g1, g2) => .trap c g1 g2
    | .ok da =>
      (s.issueAccess t .atomic false (some (op t)) (onePiece da w) [] (.amo d.toNat w signed) []).mapNext State.closeHere

/-- A fetch-and-operate form (R306). -/
def fetchOp (s : State) (op : AmoOp) (d a b : BitVec 5) (w : BitVec 1) (g : BitVec 3) : Result :=
  amoForm s d a [b.toNat] g (amoWidth w) (fun t => .amo op (amoWidth w) (t.gr b.toNat)) true

def execAadd (d a b : BitVec 5) (w : BitVec 1) (g : BitVec 3) (s : State) : Result := fetchOp s .add d a b w g
def execAand (d a b : BitVec 5) (w : BitVec 1) (g : BitVec 3) (s : State) : Result := fetchOp s .and d a b w g
def execAor (d a b : BitVec 5) (w : BitVec 1) (g : BitVec 3) (s : State) : Result := fetchOp s .or d a b w g
def execAxor (d a b : BitVec 5) (w : BitVec 1) (g : BitVec 3) (s : State) : Result := fetchOp s .xor d a b w g
def execAmax (d a b : BitVec 5) (w : BitVec 1) (g : BitVec 3) (s : State) : Result := fetchOp s .max d a b w g
def execAmin (d a b : BitVec 5) (w : BitVec 1) (g : BitVec 3) (s : State) : Result := fetchOp s .min d a b w g
def execAmaxu (d a b : BitVec 5) (w : BitVec 1) (g : BitVec 3) (s : State) : Result := fetchOp s .maxu d a b w g
def execAminu (d a b : BitVec 5) (w : BitVec 1) (g : BitVec 3) (s : State) : Result := fetchOp s .minu d a b w g
def execAswap (d a b : BitVec 5) (w : BitVec 1) (g : BitVec 3) (s : State) : Result := fetchOp s .swap d a b w g

def execAcas (d a b : BitVec 5) (w : BitVec 1) (g : BitVec 3) (s : State) : Result :=
  amoForm s d a [b.toNat, d.toNat] g (amoWidth w) (fun t => .cas (amoWidth w) (t.gr d.toNat) (t.gr b.toNat)) true

def execAaddf (d a b : BitVec 5) (g : BitVec 3) (s : State) : Result :=
  amoForm s d a [b.toNat] g 4 (fun t => .fadd ((t.gr b.toNat).setWidth 32)) false

/-! ### Load-reserved and store-conditional (R309, R310) -/

/-- LR or SC after its checks: it is performed at the home of its address, to which the thread first moves. The access's own
translation, at the home, follows. -/
def reserveAt (s : State) (t : Thread) (da w : Nat) (need : Need) (op : MemOp) (k : Nat → Cont) : Out :=
  if s.unperformed t.tid then .fence s
  else
    match s.resolve s.cur.core t.part need op da with
    | (.at_ x, s1) =>
      match homeCore x.loc with
      | none => .trapIn s1 6 (BitVec.ofNat 64 da) 0
      | some c =>
        if c = s.cur.core then
          (s.issueAccess t .atomic false (some op) (onePiece da w) [] (k x.loc) []).mapNext State.closeHere
        else if t.vregs ≠ 0 ∨ t.tiles ≠ 0 then .trapIn s1 2 0 0
        else moveTo s1 c t
    | (r, s1) => resolveFault s1 t .atomic da r

def execLr (d a : BitVec 5) (w : BitVec 1) (g : BitVec 3) (s : State) : Result :=
  let n := amoWidth w
  issue s { gR := [a.toNat], gW := [d.toNat] } fun t =>
    match s.checkAccess t s.cur.core g.toNat (t.gr a.toNat) n n .lr .lrsc with
    | .error (c, g1, g2) => .trap c g1 g2
    | .ok da => reserveAt s t da n .lr (.lr n) (.lr d.toNat n)

def execSc (d a b : BitVec 5) (w : BitVec 1) (g : BitVec 3) (s : State) : Result :=
  let n := amoWidth w
  issue s { gR := [a.toNat, b.toNat], gW := [d.toNat] } fun t =>
    match s.checkAccess t s.cur.core g.toNat (t.gr a.toNat) n n .sc .lrsc with
    | .error (c, g1, g2) => .trap c g1 g2
    | .ok da => reserveAt s t da n .sc (.sc n (t.gr b.toNat)) fun _ => .sc d.toNat

/-! ### Remote updates (R312) -/

def updateForm (s : State) (op : NOp) (a b : BitVec 5) (g : BitVec 3) (w : Nat) : Result :=
  issue s { gR := [a.toNat, b.toNat] } fun t =>
    match s.checkAccess t s.cur.core g.toNat (t.gr a.toNat) w w .amo .nform with
    | .error (c, g1, g2) => .trap c g1 g2
    | .ok da => s.issueUpdate t da w (.upd op w (t.gr b.toNat))

def execNadd (a b : BitVec 5) (w : BitVec 1) (g : BitVec 3) (s : State) : Result := updateForm s .add a b g (amoWidth w)
def execNaddf (a b : BitVec 5) (g : BitVec 3) (s : State) : Result := updateForm s .fadd a b g 4
def execNmax (a b : BitVec 5) (w : BitVec 1) (g : BitVec 3) (s : State) : Result := updateForm s .max a b g (amoWidth w)
def execNmin (a b : BitVec 5) (w : BitVec 1) (g : BitVec 3) (s : State) : Result := updateForm s .min a b g (amoWidth w)

end Sys2Proof.Machine
end

