-- ==== Sys2Proof/Machine/Dispatch.lean ====
section
/-! DEFINITION. One arm for each row of the opcode table, each a call of the meaning of that row. -/

namespace Sys2Proof.Machine

def exec (i : Instr) (s : State) : Host.Outcome State Fault Refusal :=
  match i with
  | .nop => Sys2Proof.Machine.execNop s
  | .trap q => Sys2Proof.Machine.execTrap q s
  | .eretRetry d a => Sys2Proof.Machine.execEretRetry d a s
  | .eretSkip d a => Sys2Proof.Machine.execEretSkip d a s
  | .eretEnd d a => Sys2Proof.Machine.execEretEnd d a s
  | .ifence => Sys2Proof.Machine.execIfence s
  | .idem a => Sys2Proof.Machine.execIdem a s
  | .idend => Sys2Proof.Machine.execIdend s
  | .yield => Sys2Proof.Machine.execYield s
  | .halt => Sys2Proof.Machine.execHalt s
  | .rdctl d x => Sys2Proof.Machine.execRdctl d x s
  | .wrctl x b => Sys2Proof.Machine.execWrctl x b s
  | .rdlt d => Sys2Proof.Machine.execRdlt d s
  | .rdcnt d q => Sys2Proof.Machine.execRdcnt d q s
  | .rdseg d g => Sys2Proof.Machine.execRdseg d g s
  | .wrseg a g => Sys2Proof.Machine.execWrseg a g s
  | .send d a b => Sys2Proof.Machine.execSend d a b s
  | .fill d a b q => Sys2Proof.Machine.execFill d a b q s
  | .go a => Sys2Proof.Machine.execGo a s
  | .spawn d a b => Sys2Proof.Machine.execSpawn d a b s
  | .spawnd d a b => Sys2Proof.Machine.execSpawnd d a b s
  | .join => Sys2Proof.Machine.execJoin s
  | .exit => Sys2Proof.Machine.execExit s
  | .setvec a b => Sys2Proof.Machine.execSetvec a b s
  | .getvec d a => Sys2Proof.Machine.execGetvec d a s
  | .loadq d => Sys2Proof.Machine.execLoadq d s
  | .epushCopy a => Sys2Proof.Machine.execEpushCopy a s
  | .epushLaunch a => Sys2Proof.Machine.execEpushLaunch a s
  | .epushGov a => Sys2Proof.Machine.execEpushGov a s
  | .epop d q => Sys2Proof.Machine.execEpop d q s
  | .epeek d q => Sys2Proof.Machine.execEpeek d q s
  | .tagwany d a => Sys2Proof.Machine.execTagwany d a s
  | .tagwall d a => Sys2Proof.Machine.execTagwall d a s
  | .tagff d a => Sys2Proof.Machine.execTagff d a s
  | .tagclr a => Sys2Proof.Machine.execTagclr a s
  | .lease a g => Sys2Proof.Machine.execLease a g s
  | .leave d a => Sys2Proof.Machine.execLeave d a s
  | .temit a => Sys2Proof.Machine.execTemit a s
  | .temiti a b => Sys2Proof.Machine.execTemiti a b s
  | .tgrab d a b => Sys2Proof.Machine.execTgrab d a b s
  | .tpeek d a b => Sys2Proof.Machine.execTpeek d a b s
  | .rulew a b => Sys2Proof.Machine.execRulew a b s
  | .rrun d a => Sys2Proof.Machine.execRrun d a s
  | .rhalt => Sys2Proof.Machine.execRhalt s
  | .rstat d a => Sys2Proof.Machine.execRstat d a s
  | .rbudg a => Sys2Proof.Machine.execRbudg a s
  | .rlogm a b => Sys2Proof.Machine.execRlogm a b s
  | .stabw d => Sys2Proof.Machine.execStabw d s
  | .stabq d => Sys2Proof.Machine.execStabq d s
  | .bara a => Sys2Proof.Machine.execBara a s
  | .barw a => Sys2Proof.Machine.execBarw a s
  | .bar a => Sys2Proof.Machine.execBar a s
  | .fza a => Sys2Proof.Machine.execFza a s
  | .fzw a => Sys2Proof.Machine.execFzw a s
  | .fenceRx => Sys2Proof.Machine.execFenceRx s
  | .fenceLb => Sys2Proof.Machine.execFenceLb s
  | .fenceSys => Sys2Proof.Machine.execFenceSys s
  | .cfence => Sys2Proof.Machine.execCfence s
  | .wres d q => Sys2Proof.Machine.execWres d q s
  | .add d a b => Sys2Proof.Machine.execAdd d a b s
  | .sub d a b => Sys2Proof.Machine.execSub d a b s
  | .and d a b => Sys2Proof.Machine.execAnd d a b s
  | .or d a b => Sys2Proof.Machine.execOr d a b s
  | .xor d a b => Sys2Proof.Machine.execXor d a b s
  | .andn d a b => Sys2Proof.Machine.execAndn d a b s
  | .orn d a b => Sys2Proof.Machine.execOrn d a b s
  | .xnor d a b => Sys2Proof.Machine.execXnor d a b s
  | .sll d a b => Sys2Proof.Machine.execSll d a b s
  | .srl d a b => Sys2Proof.Machine.execSrl d a b s
  | .sra d a b => Sys2Proof.Machine.execSra d a b s
  | .rol d a b => Sys2Proof.Machine.execRol d a b s
  | .ror d a b => Sys2Proof.Machine.execRor d a b s
  | .min d a b => Sys2Proof.Machine.execMin d a b s
  | .max d a b => Sys2Proof.Machine.execMax d a b s
  | .minu d a b => Sys2Proof.Machine.execMinu d a b s
  | .maxu d a b => Sys2Proof.Machine.execMaxu d a b s
  | .addw d a b => Sys2Proof.Machine.execAddw d a b s
  | .subw d a b => Sys2Proof.Machine.execSubw d a b s
  | .slt d a b => Sys2Proof.Machine.execSlt d a b s
  | .sltu d a b => Sys2Proof.Machine.execSltu d a b s
  | .mul d a b => Sys2Proof.Machine.execMul d a b s
  | .mulh d a b => Sys2Proof.Machine.execMulh d a b s
  | .mulhu d a b => Sys2Proof.Machine.execMulhu d a b s
  | .mulw d a b => Sys2Proof.Machine.execMulw d a b s
  | .mad d a b => Sys2Proof.Machine.execMad d a b s
  | .div d a b => Sys2Proof.Machine.execDiv d a b s
  | .divu d a b => Sys2Proof.Machine.execDivu d a b s
  | .rem d a b => Sys2Proof.Machine.execRem d a b s
  | .remu d a b => Sys2Proof.Machine.execRemu d a b s
  | .popc d a => Sys2Proof.Machine.execPopc d a s
  | .clz d a => Sys2Proof.Machine.execClz d a s
  | .ctz d a => Sys2Proof.Machine.execCtz d a s
  | .brev d a => Sys2Proof.Machine.execBrev d a s
  | .bswap d a => Sys2Proof.Machine.execBswap d a s
  | .bext d a b => Sys2Proof.Machine.execBext d a b s
  | .bins d a b => Sys2Proof.Machine.execBins d a b s
  | .sext d a q => Sys2Proof.Machine.execSext d a q s
  | .zext d a q => Sys2Proof.Machine.execZext d a q s
  | .phash d a => Sys2Proof.Machine.execPhash d a s
  | .rndk d a b => Sys2Proof.Machine.execRndk d a b s
  | .addi d a imm => Sys2Proof.Machine.execAddi d a imm s
  | .andi d a imm => Sys2Proof.Machine.execAndi d a imm s
  | .ori d a imm => Sys2Proof.Machine.execOri d a imm s
  | .xori d a imm => Sys2Proof.Machine.execXori d a imm s
  | .lih d k imm => Sys2Proof.Machine.execLih d k imm s
  | .slli d a n => Sys2Proof.Machine.execSlli d a n s
  | .srli d a n => Sys2Proof.Machine.execSrli d a n s
  | .srai d a n => Sys2Proof.Machine.execSrai d a n s
  | .slti d a imm => Sys2Proof.Machine.execSlti d a imm s
  | .sltiu d a imm => Sys2Proof.Machine.execSltiu d a imm s
  | .cmp x c a b => Sys2Proof.Machine.execCmp x c a b s
  | .cmpw x c a b => Sys2Proof.Machine.execCmpw x c a b s
  | .cmpf x c a b q => Sys2Proof.Machine.execCmpf x c a b q s
  | .cmpi x c a imm => Sys2Proof.Machine.execCmpi x c a imm s
  | .cmpiw x c a imm => Sys2Proof.Machine.execCmpiw x c a imm s
  | .j o => Sys2Proof.Machine.execJ o s
  | .jl d o => Sys2Proof.Machine.execJl d o s
  | .jr a imm => Sys2Proof.Machine.execJr a imm s
  | .jlr d a imm => Sys2Proof.Machine.execJlr d a imm s
  | .ldb d a g x o => Sys2Proof.Machine.execLdb d a g x o s
  | .ldh d a g x o => Sys2Proof.Machine.execLdh d a g x o s
  | .ldw d a g x o => Sys2Proof.Machine.execLdw d a g x o s
  | .ldd d a g x o => Sys2Proof.Machine.execLdd d a g x o s
  | .ldbz d a g x o => Sys2Proof.Machine.execLdbz d a g x o s
  | .ldhz d a g x o => Sys2Proof.Machine.execLdhz d a g x o s
  | .ldwz d a g x o => Sys2Proof.Machine.execLdwz d a g x o s
  | .stb d a g x o => Sys2Proof.Machine.execStb d a g x o s
  | .sth d a g x o => Sys2Proof.Machine.execSth d a g x o s
  | .stw d a g x o => Sys2Proof.Machine.execStw d a g x o s
  | .std d a g x o => Sys2Proof.Machine.execStd d a g x o s
  | .vld d a g x o => Sys2Proof.Machine.execVld d a g x o s
  | .vst d a g x o => Sys2Proof.Machine.execVst d a g x o s
  | .ldn d a g x p o => Sys2Proof.Machine.execLdn d a g x p o s
  | .stn d a g x p o => Sys2Proof.Machine.execStn d a g x p o s
  | .aadd d a b w g => Sys2Proof.Machine.execAadd d a b w g s
  | .aand d a b w g => Sys2Proof.Machine.execAand d a b w g s
  | .aor d a b w g => Sys2Proof.Machine.execAor d a b w g s
  | .axor d a b w g => Sys2Proof.Machine.execAxor d a b w g s
  | .amax d a b w g => Sys2Proof.Machine.execAmax d a b w g s
  | .amin d a b w g => Sys2Proof.Machine.execAmin d a b w g s
  | .amaxu d a b w g => Sys2Proof.Machine.execAmaxu d a b w g s
  | .aminu d a b w g => Sys2Proof.Machine.execAminu d a b w g s
  | .aswap d a b w g => Sys2Proof.Machine.execAswap d a b w g s
  | .acas d a b w g => Sys2Proof.Machine.execAcas d a b w g s
  | .lr d a w g => Sys2Proof.Machine.execLr d a w g s
  | .sc d a b w g => Sys2Proof.Machine.execSc d a b w g s
  | .aaddf d a b g => Sys2Proof.Machine.execAaddf d a b g s
  | .nadd a b w g => Sys2Proof.Machine.execNadd a b w g s
  | .naddf a b g => Sys2Proof.Machine.execNaddf a b g s
  | .nmax a b w g => Sys2Proof.Machine.execNmax a b w g s
  | .nmin a b w g => Sys2Proof.Machine.execNmin a b w g s
  | .vadd d a b q => Sys2Proof.Machine.execVadd d a b q s
  | .vsub d a b q => Sys2Proof.Machine.execVsub d a b q s
  | .vmul d a b q => Sys2Proof.Machine.execVmul d a b q s
  | .vfma d a b q => Sys2Proof.Machine.execVfma d a b q s
  | .vfms d a b q => Sys2Proof.Machine.execVfms d a b q s
  | .vmin d a b q => Sys2Proof.Machine.execVmin d a b q s
  | .vmax d a b q => Sys2Proof.Machine.execVmax d a b q s
  | .vabs d a q => Sys2Proof.Machine.execVabs d a q s
  | .vneg d a q => Sys2Proof.Machine.execVneg d a q s
  | .vrcp d a q => Sys2Proof.Machine.execVrcp d a q s
  | .vrsq d a q => Sys2Proof.Machine.execVrsq d a q s
  | .vex2 d a q => Sys2Proof.Machine.execVex2 d a q s
  | .vlg2 d a q => Sys2Proof.Machine.execVlg2 d a q s
  | .vcmp d a b q => Sys2Proof.Machine.execVcmp d a b q s
  | .vsel d a b q => Sys2Proof.Machine.execVsel d a b q s
  | .vand d a b q => Sys2Proof.Machine.execVand d a b q s
  | .vor d a b q => Sys2Proof.Machine.execVor d a b q s
  | .vxor d a b q => Sys2Proof.Machine.execVxor d a b q s
  | .vshl d a b q => Sys2Proof.Machine.execVshl d a b q s
  | .vshr d a b q => Sys2Proof.Machine.execVshr d a b q s
  | .vbcast d a q => Sys2Proof.Machine.execVbcast d a q s
  | .vext d a b q => Sys2Proof.Machine.execVext d a b q s
  | .vins d a b q => Sys2Proof.Machine.execVins d a b q s
  | .vshuf d a b q => Sys2Proof.Machine.execVshuf d a b q s
  | .vrot d a b q => Sys2Proof.Machine.execVrot d a b q s
  | .vred d a b q => Sys2Proof.Machine.execVred d a b q s
  | .vrmax d a b q => Sys2Proof.Machine.execVrmax d a b q s
  | .vrmin d a b q => Sys2Proof.Machine.execVrmin d a b q s
  | .vdot d a b q => Sys2Proof.Machine.execVdot d a b q s
  | .vcvt d a b q => Sys2Proof.Machine.execVcvt d a b q s
  | .vscan d a q => Sys2Proof.Machine.execVscan d a q s
  | .mshape d a => Sys2Proof.Machine.execMshape d a s
  | .mshget d a => Sys2Proof.Machine.execMshget d a s
  | .mzero d => Sys2Proof.Machine.execMzero d s
  | .mld d a b g => Sys2Proof.Machine.execMld d a b g s
  | .mldt d a b g => Sys2Proof.Machine.execMldt d a b g s
  | .mst d a b g => Sys2Proof.Machine.execMst d a b g s
  | .mrowv d a b => Sys2Proof.Machine.execMrowv d a b s
  | .mvrow d a b => Sys2Proof.Machine.execMvrow d a b s
  | .mcvt d a => Sys2Proof.Machine.execMcvt d a s
  | .chb d => Sys2Proof.Machine.execChb d s
  | .che d => Sys2Proof.Machine.execChe d s
  | .mma d a b => Sys2Proof.Machine.execMma d a b s
  | .mmaz d a b => Sys2Proof.Machine.execMmaz d a b s
  | .mmat d a b => Sys2Proof.Machine.execMmat d a b s
  | .mew d a b q => Sys2Proof.Machine.execMew d a b q s
  | .mred d a b q => Sys2Proof.Machine.execMred d a b q s
  | .ham d a b => Sys2Proof.Machine.execHam d a b s
  | .hamt d a b => Sys2Proof.Machine.execHamt d a b s
  | .topki d a b => Sys2Proof.Machine.execTopki d a b s
  | .topkr d a => Sys2Proof.Machine.execTopkr d a s
  | .topkz d => Sys2Proof.Machine.execTopkz d s
  | .bmf d a b q => Sys2Proof.Machine.execBmf d a b q s
  | .dip d a b q => Sys2Proof.Machine.execDip d a b q s
  | .dcos d a b q => Sys2Proof.Machine.execDcos d a b q s
  | .dl2 d a b q => Sys2Proof.Machine.execDl2 d a b q s
  | .moduleReset => Sys2Proof.Machine.execModuleReset s
  | .firmwareImageLoad => Sys2Proof.Machine.execFirmwareImageLoad s
  | .layerJoin => Sys2Proof.Machine.execLayerJoin s
  | .selfTestFail => Sys2Proof.Machine.execSelfTestFail s
  | .fullService => Sys2Proof.Machine.execFullService s
  | .thermalLimit => Sys2Proof.Machine.execThermalLimit s
  | .thermalShutdown => Sys2Proof.Machine.execThermalShutdown s
  | .governorRequest => Sys2Proof.Machine.execGovernorRequest s
  | .deferredGrant => Sys2Proof.Machine.execDeferredGrant s
  | .leaveExpiry => Sys2Proof.Machine.execLeaveExpiry s
  | .pwrceilWrite => Sys2Proof.Machine.execPwrceilWrite s
  | .kmapWrite => Sys2Proof.Machine.execKmapWrite s
  | .kmapApply => Sys2Proof.Machine.execKmapApply s
  | .colWriteAccept => Sys2Proof.Machine.execColWriteAccept s
  | .kerfTransmit => Sys2Proof.Machine.execKerfTransmit s
  | .colApply => Sys2Proof.Machine.execColApply s
  | .lsleepSleep => Sys2Proof.Machine.execLsleepSleep s
  | .lsleepWake => Sys2Proof.Machine.execLsleepWake s
  | .layerSleep => Sys2Proof.Machine.execLayerSleep s
  | .layerWake => Sys2Proof.Machine.execLayerWake s
  | .colReplayDone => Sys2Proof.Machine.execColReplayDone s
  | .colrldWrite => Sys2Proof.Machine.execColrldWrite s
  | .colReloadDone => Sys2Proof.Machine.execColReloadDone s
  | .switchHeaderArrival => Sys2Proof.Machine.execSwitchHeaderArrival s
  | .replySplit => Sys2Proof.Machine.execReplySplit s
  | .homeQueuePerform => Sys2Proof.Machine.execHomeQueuePerform s
  | .accessReply => Sys2Proof.Machine.execAccessReply s
  | .flitRetransmit => Sys2Proof.Machine.execFlitRetransmit s
  | .byandIngress => Sys2Proof.Machine.execByandIngress s
  | .byandSwitchHeader => Sys2Proof.Machine.execByandSwitchHeader s
  | .byandTimeout => Sys2Proof.Machine.execByandTimeout s
  | .linkDown => Sys2Proof.Machine.execLinkDown s
  | .linkReturn => Sys2Proof.Machine.execLinkReturn s
  | .byidWrite => Sys2Proof.Machine.execByidWrite s
  | .timeBeacon => Sys2Proof.Machine.execTimeBeacon s
  | .beaconSend => Sys2Proof.Machine.execBeaconSend s
  | .beaconLoss => Sys2Proof.Machine.execBeaconLoss s
  | .translationPulse => Sys2Proof.Machine.execTranslationPulse s
  | .hostUnsupportedRequest => Sys2Proof.Machine.execHostUnsupportedRequest s
  | .apertureAccess => Sys2Proof.Machine.execApertureAccess s
  | .getVersion => Sys2Proof.Machine.execGetVersion s
  | .getCapabilities => Sys2Proof.Machine.execGetCapabilities s
  | .negotiateAlgorithms => Sys2Proof.Machine.execNegotiateAlgorithms s
  | .getDigests => Sys2Proof.Machine.execGetDigests s
  | .getCertificate => Sys2Proof.Machine.execGetCertificate s
  | .challenge => Sys2Proof.Machine.execChallenge s
  | .getMeasurements => Sys2Proof.Machine.execGetMeasurements s
  | .spdmUnsupported => Sys2Proof.Machine.execSpdmUnsupported s
  | .benchAccess => Sys2Proof.Machine.execBenchAccess s
  | .partWrite => Sys2Proof.Machine.execPartWrite s
  | .partitionReset => Sys2Proof.Machine.execPartitionReset s
  | .partitionTeardown => Sys2Proof.Machine.execPartitionTeardown s
  | .partitionResetDone => Sys2Proof.Machine.execPartitionResetDone s
  | .lqpushWrite => Sys2Proof.Machine.execLqpushWrite s
  | .launchTake => Sys2Proof.Machine.execLaunchTake s
  | .workPacketPlace => Sys2Proof.Machine.execWorkPacketPlace s
  | .launchComplete => Sys2Proof.Machine.execLaunchComplete s
  | .completionPlace => Sys2Proof.Machine.execCompletionPlace s
  | .cqpopRead => Sys2Proof.Machine.execCqpopRead s
  | .gtabWrite => Sys2Proof.Machine.execGtabWrite s
  | .taskQueueOffer => Sys2Proof.Machine.execTaskQueueOffer s
  | .agePeriod => Sys2Proof.Machine.execAgePeriod s
  | .gangPlace => Sys2Proof.Machine.execGangPlace s
  | .gangTimeout => Sys2Proof.Machine.execGangTimeout s
  | .readyQueueStart => Sys2Proof.Machine.execReadyQueueStart s
  | .handoverCheck => Sys2Proof.Machine.execHandoverCheck s
  | .slotLeave => Sys2Proof.Machine.execSlotLeave s
  | .spillDone => Sys2Proof.Machine.execSpillDone s
  | .restoreDone => Sys2Proof.Machine.execRestoreDone s
  | .pschedPark => Sys2Proof.Machine.execPschedPark s
  | .pschedRestore => Sys2Proof.Machine.execPschedRestore s
  | .pschedShift => Sys2Proof.Machine.execPschedShift s
  | .ctxbaseWrite => Sys2Proof.Machine.execCtxbaseWrite s
  | .balanceCheck => Sys2Proof.Machine.execBalanceCheck s
  | .softError => Sys2Proof.Machine.execSoftError s
  | .tokenInsert => Sys2Proof.Machine.execTokenInsert s
  | .sliceWaitTimeout => Sys2Proof.Machine.execSliceWaitTimeout s
  | .mortisePass => Sys2Proof.Machine.execMortisePass s
  | .fireSend => Sys2Proof.Machine.execFireSend s
  | .detectionWaveStart => Sys2Proof.Machine.execDetectionWaveStart s
  | .detectionWaveComplete => Sys2Proof.Machine.execDetectionWaveComplete s
  | .annulledRetire => Sys2Proof.Machine.execAnnulledRetire s
  | .registerFill => Sys2Proof.Machine.execRegisterFill s
  | .messageAccept => Sys2Proof.Machine.execMessageAccept s
  | .migrationArrival => Sys2Proof.Machine.execMigrationArrival s
  | .pageWake => Sys2Proof.Machine.execPageWake s
  | .remoteUpdate => Sys2Proof.Machine.execRemoteUpdate s
  | .vmuStart => Sys2Proof.Machine.execVmuStart s
  | .vmuResult => Sys2Proof.Machine.execVmuResult s
  | .nearBufferDrain => Sys2Proof.Machine.execNearBufferDrain s
  | .edramRefreshWindow => Sys2Proof.Machine.execEdramRefreshWindow s
  | .ifetchLineFill => Sys2Proof.Machine.execIfetchLineFill s
  | .faultRecordEnqueue => Sys2Proof.Machine.execFaultRecordEnqueue s
  | .fq1Read => Sys2Proof.Machine.execFq1Read s
  | .pwakeWrite => Sys2Proof.Machine.execPwakeWrite s
  | .edctlLoad => Sys2Proof.Machine.execEdctlLoad s
  | .hotnessFlush => Sys2Proof.Machine.execHotnessFlush s
  | .reservationExpiry => Sys2Proof.Machine.execReservationExpiry s
  | .copyCommandStart => Sys2Proof.Machine.execCopyCommandStart s
  | .copyComplete => Sys2Proof.Machine.execCopyComplete s
  | .barrierRelease => Sys2Proof.Machine.execBarrierRelease s
  | .registerWrite => Sys2Proof.Machine.execRegisterWrite s
  | .reservedEncoding => Sys2Proof.Machine.execReservedEncoding s
  | .thermalLimitCleared => Sys2Proof.Machine.execThermalLimitCleared s
  | .hbm5TrainingDone => Sys2Proof.Machine.execHbm5TrainingDone s
  | .edramCalibrationDone => Sys2Proof.Machine.execEdramCalibrationDone s
  | .colReady => Sys2Proof.Machine.execColReady s
  | .configurationWrite => Sys2Proof.Machine.execConfigurationWrite s
  | .loadqUpdate => Sys2Proof.Machine.execLoadqUpdate s

end Sys2Proof.Machine
end

