-- ==== Sys2Proof/Machine/Schedule.lean ====
section
/-! DEFINITION. How the module goes on (R175-R177, R266, R290, R412, R413): the attempt of a thread, the order of attempts within a
cycle, and a cycle's passing, with the events that fall due in it. -/

namespace Sys2Proof.Machine

/-! ### Reaching a word (R196, R266) -/

/-- What a thread finds at its PC. -/
inductive Reached where
  /-- The fetch faults, with cause, `g1` and `g2`. -/
  | fault (cause : Nat) (g1 g2 : Word)
  /-- The line at this offset of `sg0` is not in the instruction buffer. -/
  | miss (off : Nat)
  | word (w : IWord)
  deriving DecidableEq, Repr

/-- Rights and address of the fetch, its space, and the instruction buffer. -/
def State.reach (s : State) (c : Nat) (t : Thread) : Reached :=
  match segCheck (t.seg 0) t.pc 4 4 .fetch with
  | .error (cause, g1, g2) => .fault cause g1 g2
  | .ok da =>
    if da / 2 ^ 48 ≠ 0 then .fault 6 (BitVec.ofNat 64 da) 0
    else
      match (s.core c).lineAt t.part (segBase (t.seg 0)) t.pc.toNat with
      | none => .miss (t.pc.toNat / 64 * 64)
      | some l => .word (l.word t.pc.toNat)

/-! ### An attempt -/

/-- An imprecise report (R363, R413): RPC is the instruction about to issue. A soft error's `g4` is RPC and its `g5` zero. -/
def State.takeReport (s : State) (t : Thread) (r : Report) (rest : List Report) : State :=
  let c := s.cur.core
  let k := s.cur.slot
  let own : Bool := r.cause == 0xD
  ((s.setThread c k { t with reports := rest, last := s.now + 1 }).trapThread c k t.pc r.cause r.g1 r.g2 (if own then t.pc else r.g4)
    (if own then 0 else r.g5)).use

/-- At an issue the thread takes the oldest imprecise report instead, where it has one. -/
def orReport (s : State) (t : Thread) (o : Result) : Result :=
  match o with
  | .next s' =>
    if s'.cur.used then
      match t.reports with
      | r :: rest => .next (s.takeReport t r rest)
      | [] => .next s'
    else .next s'
  | o => o

/-- The current instruction: core, slot and word. -/
def State.at_ (s : State) (c k : Nat) (w : IWord) : State := { s with cur := { core := c, slot := k, word := w, used := false } }

/-- A thread reaches its next word, in the order of R266: fetch, decode, annulment, and then the instruction's own checks. -/
def State.attempt (s : State) (c k : Nat) (t : Thread) : Result :=
  match s.reach c t with
  | .fault cause g1 g2 => .next (s.trapThread c k t.pc cause g1 g2 t.pc 0)
  | .miss off =>
    .next ((s.modCore c fun x => { x with fetching := Sparse.insert x.fetching k off }).modThread c k fun t => { t with avail := .memory })
  | .word w =>
    let s1 := s.at_ c k w
    match decodeWord w with
    | .error _ => orReport s1 t (exec .reservedEncoding s1)
    | .ok i =>
      if t.annuls then exec .annulledRetire { s1 with env := { s1.env with unit := c, sub := k } }
      else orReport s1 t (exec i s1)

/-! ### Whose turn it is (R175, R176, R179) -/

/-- Eligible in this cycle: in the rotation, and the previous issue was eight cycles ago or earlier. -/
def Thread.eligible (t : Thread) (now : Nat) : Bool := t.avail == .rotation && t.from_ ≤ now && (t.last == 0 || t.last + 7 ≤ now)

/-- The slot whose turn is the `j`-th of this cycle. -/
def State.turnSlot (s : State) (j : Nat) : Nat := (s.now + j) % 16

/-- The thread of the slot of turn `j` may try. -/
def State.mayTry (s : State) (c j : Nat) : Bool :=
  s.coreLive c && (s.thread c (s.turnSlot j)).any fun t => t.eligible s.now && !s.portHeld t.tid

/-- The first turn from `j` on at which a thread of the core may try. -/
def State.nextTurn (s : State) (c j : Nat) : Option Nat := (List.range 16).find? fun i => j ≤ i && s.mayTry c i

/-- The next attempt of this cycle: core and turn, from core `c0` and its turn `j0` on. -/
def State.nextTry (s : State) (c0 j0 : Nat) : List (Nat × Core) → Option (Nat × Nat)
  | [] => none
  | (c, _) :: r =>
    if c < c0 then s.nextTry c0 j0 r
    else
      match s.nextTurn c (if c = c0 then j0 else 0) with
      | some j => some (c, j)
      | none => s.nextTry c0 j0 r

/-- The attempt of turn `j` of core `c`; a cycle that has been used passes to the next core. -/
def State.takeTurn (s : State) (c j : Nat) : Result :=
  let k := s.turnSlot j
  match s.thread c k with
  | none => .next s
  | some t =>
    let s1 : State := { s with rotor := { core := c, tried := j + 1 }, cur := { s.cur with used := false } }
    match s1.attempt c k t with
    | .next s2 => .next (if s2.cur.used then { s2 with rotor := { core := c + 1, tried := 0 } } else s2)
    | o => o

/-! ### Events that fall due (R417 leaves their times open within bounds) -/

def ev (i : Instr) (unit : Nat) (sub : Nat := 0) (third : Nat := 0) : Turn :=
  .event i { Env.none with unit := unit, sub := sub, third := third }

/-- A list with one element when the condition holds. -/
def whenDue (b : Bool) (t : Turn) : List Turn := if b then [t] else []

/-- Service (R20), eDRAM windows (R208), governors (R11, R382), and translation buffers (R218). The new requests of a cycle, those of
engine 2 among them, are answered before a deferred one is granted: DESIGN CHOICE, log entry 97. -/
def State.dueLayers (s : State) : List Turn :=
  whenDue (!s.md.full && !s.md.fail && s.md.layerUp == BitVec.allOnes 32 && s.md.hbmRdy && s.md.edRdy && s.md.colRdy) (ev .fullService 0)
  ++ (s.layers.flatMap fun (l, y) =>
    whenDue (s.md.edRdy && y.winEnd ≤ s.now) (ev .edramRefreshWindow l)
    ++ y.asks.map (fun _ => ev .governorRequest l))
  ++ (s.cores.flatMap fun (c, x) => if !isChan c && x.govHeld.isEmpty then x.govIn.map fun _ => ev .governorRequest (layerOf c) else [])
  ++ s.layers.flatMap fun (l, y) =>
    whenDue (y.queue.any fun r => s.reason l r == 0) (ev .deferredGrant l)
    ++ whenDue (y.leaves.any fun v => v.until_.any (· ≤ s.now)) (ev .leaveExpiry l)
    ++ ((y.llt.zipIdx.filter fun e => e.1.expiry ≤ s.md.ltc.toNat).reverse.map fun e => ev .hotnessFlush l e.2)

/-- The Col (R24, R29-R40, R420): two kerfs a cycle, and what each die has still to take, after the cycle's reads (R32). -/
def State.dueTowers (s : State) : List Turn :=
  s.towers.flatMap fun (t, y) =>
    ((List.range 8).flatMap fun i =>
      whenDue (y.atFrame && y.sleep.getLsbD i && y.awake.getLsbD i) (ev .layerSleep (8 * t + i))
      ++ whenDue (y.atFrame && !y.awake.getLsbD i) (ev .layerWake (8 * t + i)))
    ++ [ev .kerfTransmit t, ev .kerfTransmit t]
    ++ (y.waiting.filter fun w => !w.ok).map (fun _ => ev .colWriteAccept t)
    ++ (List.range 8).flatMap (fun i =>
      whenDue (y.replay.getLsbD i) (ev .colReplayDone (8 * t + i))
      ++ whenDue (y.reload.getLsbD i) (ev .colReloadDone (8 * t + i)))
    ++ ((List.range 9).filter fun d => y.taken d < y.order.length).map (fun d => ev .colApply t d)

/-- Where the packets of the networks stand: network, stage, switch. -/
def State.busySwitches (s : State) : List (Nat × Nat × Nat) :=
  (s.net.packets.map fun p => (p.net, p.stage, if p.queued then p.pos / 2 else (switchIn p.net p.pos).1)).eraseDups

/-- Homes with something to perform. -/
def State.busyHomes (s : State) : List Home := (s.net.homeQ.map fun h => h.home).eraseDups

/-- Of a scratchpad, a bank of the operation that would be next were it one queue: the one that is performed with nothing else fixed, DESIGN
CHOICE, log entry 127. -/
def State.busyBank (s : State) (h : Home) : Nat := ((s.nextOf h s.net.homeQ).bind (·.banks.head?)).getD 0

/-- The event at which a message is accepted. -/
def MsgBody.event : MsgBody → Instr
  | .thread _ => .migrationArrival
  | .fill .. | .result .. => .registerFill
  | .wake _ => .pageWake
  | .update .. => .remoteUpdate
  | .table .. | .fire .. | .child _ => .messageAccept

/-- The networks (R49-R53, R225, R226), Byand's timeouts (R74), and messages (R189). -/
def State.dueNet (s : State) : List Turn :=
  (s.busySwitches.map fun x => ev .switchHeaderArrival x.1 x.2.1 x.2.2)
  ++ (s.busyHomes.map fun h => .event .homeQueuePerform { Env.none with home := h, sub := s.busyBank h })
  ++ ((s.net.waits.filter fun e => s.net.replies.any (·.id == e.comb)).map fun e => ev .replySplit e.id)
  ++ ((s.net.replies.filter fun r => s.net.reqs.any (·.id == r.id) || s.by_.inside.any (·.id == r.id)).map fun r => ev .accessReply r.id)
  ++ ((s.by_.out.filter fun o => s.lostAt o.sent ≤ s.md.ltc.toNat).map fun o => ev .byandTimeout o.req)
  ++ s.net.msgs.flatMap fun m =>
    match m.away with
    | some (_, _, some sent) => whenDue (s.lostAt sent ≤ s.md.ltc.toNat) (ev .byandTimeout m.id)
    | some _ => []
    | none => whenDue (s.deliverable m) (ev m.body.event m.id)

/-- Tasks and ready entries that complete an AGE period (R124). -/
def State.dueAges (s : State) : List Turn :=
  (s.parts.flatMap fun (p, x) => ((x.tasks.zipIdx).filter fun (t, _) =>
      gain s.now t.since (s.agePeriod p t.prio.toNat) t.prio t.lvl != t.lvl).map fun (_, i) =>
    .event .agePeriod { Env.none with site := .task p i })
  ++ s.cores.flatMap fun (c, k) => ((k.ready.zipIdx).filter fun (e, _) =>
      gain s.now e.since (s.agePeriod e.kind.part e.prio.toNat) e.prio e.lvl != e.lvl).map fun (_, i) =>
    .event .agePeriod { Env.none with site := .ready c i }

/-- Launches and the task queue of each partition (R107-R115, R125-R129), its resets (R101), barriers (R316) and fault queue (R220). -/
def State.dueParts (s : State) : List Turn :=
  s.parts.flatMap (fun (p, x) =>
    whenDue x.busy (ev .partitionResetDone p)
    ++ whenDue (!x.lq.isEmpty) (ev .launchTake p)
    ++ whenDue (x.launches.any fun l => l.placed < l.count) (ev .workPacketPlace p)
    ++ whenDue (x.launches.any fun l => l.ended.length ≥ l.count) (ev .launchComplete p)
    ++ whenDue (!x.cqHeld.isEmpty) (ev .completionPlace p)
    ++ whenDue (!x.tasks.isEmpty) (ev .taskQueueOffer p)
    ++ (match x.gang with
      | some (_, at_, _) => [if at_ + 4096 ≤ s.now then ev .gangTimeout p else ev .gangPlace p]
      | none => [])
    ++ x.launches.flatMap fun l => l.glist.map fun g => ev .barrierRelease p l.id g)
  ++ s.auxs.flatMap fun (p, a) => whenDue (!a.fqWait.isEmpty) (ev .faultRecordEnqueue p)

/-- Reaction runs (R150-R166). -/
def State.dueRuns (s : State) : List Turn :=
  s.auxs.flatMap fun (p, a) =>
    (a.slices.flatMap fun (i, x) =>
      whenDue (!x.inbox.isEmpty) (ev .tokenInsert p i)
      ++ whenDue (x.inbox.any fun t => t.waited ≥ 65536) (ev .sliceWaitTimeout p i)
      ++ whenDue (s.mayPass p i) (ev .mortisePass p i)
      ++ whenDue (!x.fire.isEmpty) (ev .fireSend p i))
    ++ (match a.run.wave with
      | some _ => [ev .detectionWaveComplete p]
      | none => whenDue (decide (a.run.st = .running ∧ a.run.waveDue ≤ s.now)) (ev .detectionWaveStart p))

/-- Near buffers of cores that run (R227, R420), before the homes that the drained entries reach. -/
def State.dueNear (s : State) : List Turn :=
  (s.cores.filter fun e => !e.2.near.isEmpty && s.coreLive e.1).map fun e => ev .nearBufferDrain e.1

/-- Cores (R126-R139, R196, R235), with the ready queue at the home turn of the cycle's slot. A hand-over that
a check starts has its first turn of leaving in the next cycle: DESIGN CHOICE, log entry 123. -/
def State.dueCores (s : State) : List Turn :=
  let k := s.now % 16
  let big := s.now % 1024 == 0
  s.cores.flatMap fun (c, x) =>
    (x.fetching.map fun f => ev .ifetchLineFill c f.1)
    ++ ((x.slots.filter fun e => e.2.resv.any fun r => r.2 + 1024 ≤ s.now).map fun e => ev .reservationExpiry c e.1)
    ++ whenDue (x.handOver.any fun h => h.slots.any (·.1 == k)) (ev .slotLeave c k)
    ++ whenDue (!x.ready.isEmpty) (ev .readyQueueStart c k)
    ++ whenDue (big && (!x.ready.isEmpty || (!x.slots.isEmpty && (s.partOf c).any fun p => (s.aux p).park))) (ev .handoverCheck c)
    ++ whenDue (big && !x.slots.isEmpty) (ev .balanceCheck c)

/-- Spills and restores (R131), the vector-matrix units (R187), copy units (R378) and `loadq` (R140). -/
def State.dueUnits (s : State) : List Turn :=
  (s.net.spills.filterMap fun x => if x.held.isSome then none
    else if x.phase = 0 ∨ (x.phase = 1 ∧ x.fills ≠ []) then some (ev .spillDone x.core x.slot)
    else if x.phase = 2 then some (ev .restoreDone x.core x.slot) else none)
  ++ (((s.cores.filter fun e => !e.2.disp.isEmpty).map fun e => quadOf e.1).eraseDups.map fun q => ev .vmuStart q)
  ++ ((s.vmus.filter fun e => (e.2.running.head?).any fun o => o.ready ≤ s.now).map fun e => ev .vmuResult e.1)
  ++ (s.clusters.flatMap fun (cl, x) =>
    match x.run with
    | some r => [if r.over && r.acc.isNone then ev .copyComplete cl else ev .copyCommandStart cl]
    | none => whenDue (!x.fifo.isEmpty) (ev .copyCommandStart cl))
  ++ (if s.now % 16 = 0 then
      (((s.cores.filter fun e => !isChan e.1).map fun e => clusterOf e.1).eraseDups).map fun cl => ev .loadqUpdate cl
    else [])

/-- Pulses and beacons of each microsecond (R73, R216): every unit compares its time, of which a unit that serves and is in bound
says nothing. -/
def State.dueTime (s : State) : List Turn :=
  (((List.range 32).filter fun l => (s.layer l).skewed ≠ 0 || (s.by_.skew && s.inService l)).map fun l => ev .translationPulse l)
  ++ whenDue s.by_.isMaster (ev .beaconSend 0) ++ whenDue (s.by_.counts && s.by_.missed ≥ 64) (ev .beaconLoss 0)

def State.due (s : State) : List Turn :=
  s.dueLayers ++ s.dueNear ++ s.dueNet ++ s.dueUnits ++ s.dueAges ++ s.dueCores ++ s.dueParts ++ s.dueRuns ++ s.dueTowers

/-! ### A cycle passes (R20, R135, R151, R359, R418) -/

/-- The thread counter of the state that a thread spends the cycle in; `held` while it waits for a permit. -/
def Thread.idle (t : Thread) (held : Bool) : Thread :=
  match t.avail with
  | .memory | .fence | .admission | .dropped _ => t.count 2 1
  | .rotation => if held then t.count 2 1 else t
  | .parked => t.count 3 1
  | .matrix => t.count 4 1
  | _ => t

def State.idle (s : State) : State :=
  { s with cores := s.cores.map fun e => (e.1, { e.2 with slots := e.2.slots.map fun x => (x.1, x.2.idle (s.portHeld x.2.tid)) }) }

/-- A state whose end the thread's next attempt finds out. -/
def Avail.waits : Avail → Bool
  | .parked | .admission | .fence => true
  | _ => false

/-- An attempt that does not issue has set something going: a barrier's arrival, a request for leave, a fence's mark, a Col write or a
STABW that waits, a line asked for. The thread has still to make it. -/
def State.begins (s s' : State) (c : Nat) (t u : Thread) : Bool :=
  u.asking != t.asking || u.fence != t.fence || s'.life t.tid != s.life t.tid
    || (s'.tower (towerOf c)).waiting.length != (s.tower (towerOf c)).waiting.length || s'.net.tickets.length != s.net.tickets.length
    || s'.net.accs.length != s.net.accs.length

/-- Where a thread that is in the rotation or waits stands when its next instruction is looked at: one that would park is parked, and
one whose wait has ended, or has still to begin, is in the rotation (R179). -/
def State.stands (s : State) (c k : Nat) (t : Thread) : Avail :=
  if t.avail.waits || t.avail == .rotation then
    match s.attempt c k t with
    | .next s' =>
      match s'.thread c k with
      | some u =>
        if u.tid == t.tid && u.avail.waits && (t.avail.waits || u.avail == .parked) && !s.begins s' c t u then u.avail else .rotation
      | none => .rotation
    | _ => t.avail
  else t.avail

/-- At the end of a cycle every thread's state is found again. -/
def State.settleAvail (s : State) : State :=
  { s with cores := s.cores.map fun e =>
      (e.1, { e.2 with slots := e.2.slots.map fun x => (x.1, { x.2 with avail := s.stands e.1 x.1 x.2 }) }) }

/-- Quarter nanoseconds of a cycle: 1.25 ns in full service and 2.5 ns before it (R20). -/
def Mod.quarters (m : Mod) : Nat := if m.full then 5 else 10

/-- A microsecond begins with the next cycle: the module counts those of pulses and beacons on its own time, which holds of the LTC do not
stop: DESIGN CHOICE, log entry 110. -/
def Mod.usBegins (m : Mod) : Bool := 4000 ≤ m.us + m.quarters

/-- The clocks: `cyc` counts cycles, and the LTC nanoseconds. -/
def Mod.tick (m : Mod) : Mod :=
  let q := m.ltcQ + m.quarters
  let held := Nat.min (q / 4) m.hold
  { m with cyc := m.cyc + 1, ltcQ := q % 4, ltc := m.ltc + BitVec.ofNat 64 (q / 4 - held), hold := m.hold - held,
           us := (m.us + m.quarters) % 4000 }

/-- Arrivals that wait at a slice of a run that is RUNNING wait one cycle more (R151). -/
def PartAux.wait (a : PartAux) : PartAux :=
  if a.run.st = .running then
    { a with slices := a.slices.map fun e => (e.1, { e.2 with inbox := e.2.inbox.map fun t => { t with waited := t.waited + 1 } }) }
  else a

/-- Accesses with pieces still to send go on: what held them behind an earlier one may have left (R225). -/
def State.goOn (s : State) : State :=
  (s.net.accs.filter fun a => a.held.isNone && a.pieces.any fun x => x.st == .todo).foldl (fun s a => s.advanceAcc a.id) s

/-- A microsecond has begun: a module that counts beacons has gone without one for one more (R73). -/
def State.beaconless (s : State) : State := if s.by_.counts then s.modByand fun b => { b with missed := b.missed + 1 } else s

/-- Every core has had its turn: the events of this cycle follow the attempts (R182, R381). -/
def State.fixEvents (s : State) : State := { s with rotor := { core := 2 ^ 16, tried := 0 }, agenda := s.due }

/-- What ends with a cycle: messages whose conditions hold go, accesses go on, permits are given, EPUSH commands follow the cycle's bench
pushes, and ended hand-overs close. -/
def State.wrapUp (s : State) : State :=
  let s := s.freeMsgs.goOn.grantAll.enterLinked.enterMsgs
  let s : State := { s with parts := Sparse.mapAll .reset s.parts Part.lqSettle }
  (s.cores.filter fun e => e.2.handOver.isSome).foldl (fun s e => s.endHandOver e.1) s

/-- The cycle's attempts and events are over, and the next cycle begins. -/
def State.tick (s : State) : State :=
  let begins := s.md.usBegins
  let s := s.wrapUp.idle
  let s : State := { s with md := s.md.tick, auxs := s.auxs.map fun e => (e.1, e.2.wait), rotor := { core := 0, tried := 0 } }
  let s := s.settleAvail
  if !begins then { s with agenda := [] }
  else
    let s := s.beaconless
    { s with agenda := s.dueTime }

end Sys2Proof.Machine
end

