-- ==== Sys2Proof/Machine/Step.lean ====
section
/-! DEFINITION. One step of the module: the turn at the head of the agenda; with none, the next attempt of the cycle; with none
left, the events of the cycle; after them, the next cycle. -/

namespace Sys2Proof.Machine

/-- What a turn that nothing outside has fixed is given: host memory's answers are free. -/
def State.unfixed (s : State) : State :=
  { s with env := { Env.none with bytes := Config.outside s.drawn }, drawn := s.drawn + 1 }

/-- The clocks stand still (R16) for everything but a module reset. -/
def stopped (s : State) (t : Option Turn) : Bool :=
  s.md.shutdown && (match t with
    | some (.event .moduleReset _) => false
    | _ => true)

/-- A turn of the agenda. A Wiltik instruction is no event: threads alone run them. The cores take their turns of a cycle in the order of
their numbers: those before the core of an attempt have theirs first, and a core has no second one. -/
def State.perform (s : State) (t : Turn) (rest : List Turn) : Result :=
  match t with
  | .event i e =>
    if i.isEvent && i != .annulledRetire && i != .reservedEncoding then exec i { s with agenda := rest, env := e }
    else .next { s with agenda := rest }
  | .issue c e =>
    match s.nextTry s.rotor.core s.rotor.tried s.cores with
    | some (d, j) =>
      if d < c then s.unfixed.takeTurn d j
      else if d = c then { s with agenda := rest, env := e }.takeTurn c j
      else .next { s with agenda := rest }
    | none => .next { s with agenda := rest }

def step (s : State) : Host.Outcome State Fault Refusal :=
  if stopped s s.agenda.head? then .fault .clocksStopped
  else
    match s.agenda with
    | t :: rest => s.perform t rest
    | [] =>
      match s.nextTry s.rotor.core s.rotor.tried s.cores with
      | some (c, j) => s.unfixed.takeTurn c j
      | none => .next (if s.rotor.core < 2 ^ 16 then s.fixEvents else s.tick)

/-- The thread that a loaded word runs in: a supervisor thread of partition 0 with every register, whose `sg0` covers one line. -/
def loadedThread : Thread :=
  { Start.thread { part := 0, prio := 0, supv := true, entry := 0, gregs := 32, vregs := 16, tiles := 16, migrate := false, named := false,
                   g := [], v := [], sg := [(0, BitVec.ofNat 128 (64 * 2 ^ 64 + 2 ^ 106))], fm := [], sc := [], life := Life.reset } 0 with
    mode := true }

/-- The word stored where the next step fetches: a thread in slot 0 of core 0 at offset 0 of its `sg0`, with that line in the core's
instruction buffer, in an enabled partition of a layer that is awake, and its turn at the head of the agenda. -/
def State.withFetchWord (s : State) (nbits w : Nat) : State :=
  let line : Line := { part := 0, base := 0, off := 0, bytes := BitVec.ofNat 512 (w % 2 ^ nbits) }
  let s := s.modPart 0 fun x => { x with base := 0, len := Nat.max 1 x.len, en := true }
  let s := (s.modMod fun m => { m with shutdown := false }).modTower 0 fun t => { t with awake := bset t.awake 0, replay := bclr t.replay 0 }
  let s := s.modCore 0 fun k =>
    { k with slots := [(s.now % 16, loadedThread)], ibuf := line :: k.ibuf.filter fun l => !(l.part == 0 && l.base == 0 && l.off == 0) }
  { s with agenda := [.issue 0 Env.none], rotor := { core := 0, tried := 0 } }

end Sys2Proof.Machine
end

