-- ==== Sys2Proof/Safety.lean ====
section
/-! DEFINITION. What counts as a safe run, and the terms that statements about an attempt use: the thread whose attempt it is, what a
retirement does to it, and what an attempt leaves alone. -/

namespace Sys2Proof.Machine

/-! ### Safe runs -/

/-- What every state of a run has: memory in its canonical form. -/
def State.Inv (s : State) : Prop := Memory.wf s.mem = true

/-- A run of `n` steps is safe: no step refuses, the one fault is that the clocks have stopped (R16), and the invariant holds. -/
def State.Safe : Nat → State → Prop
  | 0, s => s.Inv
  | n + 1, s =>
    s.Inv ∧
      match step s with
      | .next t => State.Safe n t
      | .fault r => r = .clocksStopped
      | .refused _ => False

/-! ### The attempt of a thread -/

/-- The thread whose attempt `exec` makes: the one in the current slot. -/
def State.mine (s : State) : Option Thread := s.thread s.cur.core s.cur.slot

/-- The attempt is `t`'s, and the registers that the instruction names pass the checks that come before its own: they lie within the
allocation (R184), none that it reads is empty (R180) and none that it writes has a result due (R181). -/
structure Ready (s : State) (t : Thread) (u : Names) : Prop where
  mine  : s.mine = some t
  holds : t.holds u = true
  full  : t.blocked u = false

/-- What every instruction that retires does to its thread (R135, R175, R290): it goes on at `pc`, one place of the guard window is
used, the issue is recorded and counted. -/
structure Onward (s : State) (t t' : Thread) (pc : Word) : Prop where
  pc     : t'.pc = pc
  window : t'.gcnt = if t.gcnt = 0 then 0 else t.gcnt - 1
  avail  : t'.avail = .rotation
  last   : t'.last = s.now + 1
  counts : ∀ n, Sparse.get 0 t'.cnt n = Sparse.get 0 t.cnt n + if n = 0 ∨ (n = 1 ∧ s.now % 16 ≠ s.cur.slot) then 1 else 0

/-- `t` with what a retirement writes as in `t'`: a thread that equals it differs from `t` in nothing else. -/
def Thread.like (t t' : Thread) : Thread :=
  { t with pc := t'.pc, gcnt := t'.gcnt, avail := t'.avail, last := t'.last, cnt := t'.cnt }

/-- Nothing outside the current slot has changed but the issue meter of partition `p` (R94) and the note that the cycle is used: no
other thread, no common register, no unit, no message, and no byte of storage. -/
structure Alone (s s' : State) (p : Nat) : Prop where
  rest  : s' = { s with cores := s'.cores, parts := s'.parts, cur := s'.cur }
  cur   : s'.cur = { s.cur with used := true }
  core  : ∀ c, s'.core c = { s.core c with slots := (s'.core c).slots }
  slots : ∀ c k, ¬(c = s.cur.core ∧ k = s.cur.slot) → s'.thread c k = s.thread c k
  part  : ∀ q, s'.part q = { s.part q with meters := (s'.part q).meters }
  meter : ∀ q i, Sparse.get 0 (s'.part q).meters i =
    if q = p ∧ i = 5 ∧ (s.part p).counts = true then
      BitVec.ofNat 64 (Nat.min (2 ^ 64 - 1) ((Sparse.get 0 (s.part p).meters 5).toNat + 1))
    else Sparse.get 0 (s.part q).meters i
  bytes : ∀ k a, s'.readByte k a = s.readByte k a

/-- As `Alone`, but the record of the current core has also changed by `k`. -/
structure AloneBut (s s' : State) (p : Nat) (k : Core → Core) : Prop where
  rest  : s' = { s with cores := s'.cores, parts := s'.parts, cur := s'.cur }
  cur   : s'.cur = { s.cur with used := true }
  core  : ∀ c, s'.core c = { (if c = s.cur.core then k (s.core c) else s.core c) with slots := (s'.core c).slots }
  slots : ∀ c j, ¬(c = s.cur.core ∧ j = s.cur.slot) → s'.thread c j = s.thread c j
  part  : ∀ q, s'.part q = { s.part q with meters := (s'.part q).meters }
  meter : ∀ q i, Sparse.get 0 (s'.part q).meters i =
    if q = p ∧ i = 5 ∧ (s.part p).counts = true then
      BitVec.ofNat 64 (Nat.min (2 ^ 64 - 1) ((Sparse.get 0 (s.part p).meters 5).toNat + 1))
    else Sparse.get 0 (s.part q).meters i
  bytes : ∀ k a, s'.readByte k a = s.readByte k a

/-- A precise trap of `t` (R363, R364): it stops with its registers, full bits and `psw` as they stood, its resume PC is the instruction
itself, one report of seven words goes to its core (from a channel core, to the first core of the partition, R195), and a leave that it
asked for or was granted (R10), a Col write that waits for its queue (R29), a wait in STABW (R167) and its reads of headers and slices are
given up. -/
structure Trapped (s s' : State) (t : Thread) (cause : Nat) (g1 g2 : Word) : Prop where
  thread : s'.mine = some { t with last := s.now + 1, avail := .trapped t.pc (cause == 9), resv := none, asking := .no, fence := none }
  report : ∃ m : Msg, s'.net = { (s.dropErrands s.cur.core s.cur.slot).net with msgs := s.net.msgs ++ [m] } ∧
    m.part = t.part ∧ m.target = (if isChan s.cur.core then (s.part t.part).base else s.cur.core) ∧
    m.body = .table 6 [g1, g2, BitVec.ofNat 64 (cause + 256), t.pc, s.cur.word.setWidth 64, threadWord s.cur.slot t.tid, s.coreAddr s.cur.core] []
  rest   : s' = { s with cores := s'.cores, net := s'.net, cur := s'.cur, fresh := s'.fresh, layers := s'.layers, towers := s'.towers, lives := s'.lives }
  layers : s'.layers = (s.stopAsking t).layers
  towers : s'.towers = (s.dropColWait s.cur.core t.tid).towers
  lives  : s'.lives = (s.dropStab t.tid).lives
  cur    : s'.cur = { s.cur with used := true }
  core   : ∀ c, s'.core c = { s.core c with slots := (s'.core c).slots }
  slots  : ∀ c k, ¬(c = s.cur.core ∧ k = s.cur.slot) → s'.thread c k = s.thread c k
  bytes  : ∀ k a, s'.readByte k a = s.readByte k a

end Sys2Proof.Machine
end

