-- ==== Sys2Proof/Certificates/Slice0/Obligations.lean ====
section
/-! DEFINITION. The statements for the provers. -/

open Sys2Proof Sys2Proof.Machine

namespace Sys2Proof.Claims

/-! ### Terms of the statements about Wiltik instructions -/

/-- What an instruction says of one result in g[d]: its destination, the registers it reads, and what the result must be. -/
structure GenRow where
  d   : Nat
  src : List Nat
  ok  : Word → Prop

/-- Register d holds a result that is `ok`, and is full (R180); `g0` discards it (R181); every other register is as before. -/
structure GotG (t t' : Thread) (d : Nat) (ok : Word → Prop) : Prop where
  value : d ≠ 0 → ok (t'.gr d)
  other : ∀ n, n ≠ d ∨ n = 0 → t'.gr n = t.gr n
  full  : ∀ n, t'.gEmpty.getLsbD n = if n = d ∧ d ≠ 0 then false else t.gEmpty.getLsbD n

/-- The attempt of `t` retires with one general result, and changes nothing else in its thread or outside it. -/
def WritesG (i : Instr) (s : State) (t : Thread) (d : Nat) (ok : Word → Prop) : Prop :=
  ∃ s' t', exec i s = .next s' ∧ s'.mine = some t' ∧ GotG t t' d ok ∧ t' = { t.like t' with g := t'.g, gEmpty := t'.gEmpty } ∧
    Onward s t t' (t.pc + 4) ∧ Alone s s' t.part

/-- The low `w` bits of a value, sign-extended. -/
def signLow (w : Nat) (v : Word) : Word := (v.setWidth w).signExtend 64

/-- R281, R282 but for division: results of the ALU and multiply forms, over the registers `g`. -/
def aluRow (g : Nat → Word) : Instr → Option GenRow
  | .add d a b => some ⟨d.toNat, [a.toNat, b.toNat], (· = g a.toNat + g b.toNat)⟩
  | .sub d a b => some ⟨d.toNat, [a.toNat, b.toNat], (· = g a.toNat - g b.toNat)⟩
  | .and d a b => some ⟨d.toNat, [a.toNat, b.toNat], (· = g a.toNat &&& g b.toNat)⟩
  | .or d a b => some ⟨d.toNat, [a.toNat, b.toNat], (· = g a.toNat ||| g b.toNat)⟩
  | .xor d a b => some ⟨d.toNat, [a.toNat, b.toNat], (· = g a.toNat ^^^ g b.toNat)⟩
  | .andn d a b => some ⟨d.toNat, [a.toNat, b.toNat], (· = g a.toNat &&& ~~~g b.toNat)⟩
  | .orn d a b => some ⟨d.toNat, [a.toNat, b.toNat], (· = g a.toNat ||| ~~~g b.toNat)⟩
  | .xnor d a b => some ⟨d.toNat, [a.toNat, b.toNat], (· = ~~~(g a.toNat ^^^ g b.toNat))⟩
  | .sll d a b => some ⟨d.toNat, [a.toNat, b.toNat], (· = g a.toNat <<< ((g b.toNat).toNat % 64))⟩
  | .srl d a b => some ⟨d.toNat, [a.toNat, b.toNat], (· = g a.toNat >>> ((g b.toNat).toNat % 64))⟩
  | .sra d a b => some ⟨d.toNat, [a.toNat, b.toNat], (fun v => v.toInt = (g a.toNat).toInt / 2 ^ ((g b.toNat).toNat % 64))⟩
  | .rol d a b => some ⟨d.toNat, [a.toNat, b.toNat],
      fun v => ∀ i < 64, v.getLsbD ((i + (g b.toNat).toNat) % 64) = (g a.toNat).getLsbD i⟩
  | .ror d a b => some ⟨d.toNat, [a.toNat, b.toNat],
      fun v => ∀ i < 64, v.getLsbD i = (g a.toNat).getLsbD ((i + (g b.toNat).toNat) % 64)⟩
  | .min d a b => some ⟨d.toNat, [a.toNat, b.toNat], (· = if (g a.toNat).toInt < (g b.toNat).toInt then g a.toNat else g b.toNat)⟩
  | .max d a b => some ⟨d.toNat, [a.toNat, b.toNat], (· = if (g a.toNat).toInt > (g b.toNat).toInt then g a.toNat else g b.toNat)⟩
  | .minu d a b => some ⟨d.toNat, [a.toNat, b.toNat], (· = if (g a.toNat).toNat < (g b.toNat).toNat then g a.toNat else g b.toNat)⟩
  | .maxu d a b => some ⟨d.toNat, [a.toNat, b.toNat], (· = if (g a.toNat).toNat > (g b.toNat).toNat then g a.toNat else g b.toNat)⟩
  | .addw d a b => some ⟨d.toNat, [a.toNat, b.toNat], (· = signLow 32 (g a.toNat + g b.toNat))⟩
  | .subw d a b => some ⟨d.toNat, [a.toNat, b.toNat], (· = signLow 32 (g a.toNat - g b.toNat))⟩
  | .slt d a b => some ⟨d.toNat, [a.toNat, b.toNat], (· = if (g a.toNat).toInt < (g b.toNat).toInt then 1 else 0)⟩
  | .sltu d a b => some ⟨d.toNat, [a.toNat, b.toNat], (· = if (g a.toNat).toNat < (g b.toNat).toNat then 1 else 0)⟩
  | .mul d a b => some ⟨d.toNat, [a.toNat, b.toNat], (· = g a.toNat * g b.toNat)⟩
  | .mulh d a b => some ⟨d.toNat, [a.toNat, b.toNat],
      (· = ((g a.toNat).signExtend 128 * (g b.toNat).signExtend 128).extractLsb' 64 64)⟩
  | .mulhu d a b => some ⟨d.toNat, [a.toNat, b.toNat],
      (· = ((g a.toNat).setWidth 128 * (g b.toNat).setWidth 128).extractLsb' 64 64)⟩
  | .mulw d a b => some ⟨d.toNat, [a.toNat, b.toNat], (· = ((g a.toNat).setWidth 32 * (g b.toNat).setWidth 32).signExtend 64)⟩
  | .mad d a b => some ⟨d.toNat, [d.toNat, a.toNat, b.toNat], (· = g d.toNat + g a.toNat * g b.toNat)⟩
  | _ => none

/-- R283: quotient and remainder. -/
def divRow (g : Nat → Word) : Instr → Option GenRow
  | .div d a b => some ⟨d.toNat, [a.toNat, b.toNat], fun v =>
      if g b.toNat = 0 then v = BitVec.allOnes 64
      else if (g a.toNat).toInt = -2 ^ 63 ∧ (g b.toNat).toInt = -1 then v.toInt = -2 ^ 63
      else v.toInt = (g a.toNat).toInt.tdiv (g b.toNat).toInt⟩
  | .rem d a b => some ⟨d.toNat, [a.toNat, b.toNat], fun v =>
      if g b.toNat = 0 then v = g a.toNat
      else if (g a.toNat).toInt = -2 ^ 63 ∧ (g b.toNat).toInt = -1 then v = 0
      else v.toInt = (g a.toNat).toInt - (g a.toNat).toInt.tdiv (g b.toNat).toInt * (g b.toNat).toInt⟩
  | .divu d a b => some ⟨d.toNat, [a.toNat, b.toNat], fun v =>
      if g b.toNat = 0 then v = BitVec.allOnes 64 else v.toNat = (g a.toNat).toNat / (g b.toNat).toNat⟩
  | .remu d a b => some ⟨d.toNat, [a.toNat, b.toNat], fun v =>
      if g b.toNat = 0 then v = g a.toNat
      else v.toNat = (g a.toNat).toNat - (g a.toNat).toNat / (g b.toNat).toNat * (g b.toNat).toNat⟩
  | _ => none

/-- R285: the length of a bit field, cut at bit 63. -/
def fieldLen (b : Word) : Nat := Nat.min (b.toNat / 256 % 128) (64 - b.toNat % 64)

/-- R284, R285, R253, R254: results of the BIT forms. -/
def bitRow (g : Nat → Word) : Instr → Option GenRow
  | .popc d a => some ⟨d.toNat, [a.toNat], (fun v => v.toNat = (List.range 64).countP fun i => (g a.toNat).getLsbD i)⟩
  | .clz d a => some ⟨d.toNat, [a.toNat], fun v =>
      v.toNat ≤ 64 ∧ (∀ i < v.toNat, (g a.toNat).getLsbD (63 - i) = false) ∧ (v.toNat < 64 → (g a.toNat).getLsbD (63 - v.toNat) = true)⟩
  | .ctz d a => some ⟨d.toNat, [a.toNat], fun v =>
      v.toNat ≤ 64 ∧ (∀ i < v.toNat, (g a.toNat).getLsbD i = false) ∧ (v.toNat < 64 → (g a.toNat).getLsbD v.toNat = true)⟩
  | .brev d a => some ⟨d.toNat, [a.toNat], fun v => ∀ i < 64, v.getLsbD (63 - i) = (g a.toNat).getLsbD i⟩
  | .bswap d a => some ⟨d.toNat, [a.toNat], fun v => ∀ i < 8, v.extractLsb' (8 * (7 - i)) 8 = (g a.toNat).extractLsb' (8 * i) 8⟩
  | .bext d a b => some ⟨d.toNat, [a.toNat, b.toNat], fun v => ∀ i < 64,
      v.getLsbD i = (decide (i < fieldLen (g b.toNat)) && (g a.toNat).getLsbD ((g b.toNat).toNat % 64 + i))⟩
  | .bins d a b => some ⟨d.toNat, [d.toNat, a.toNat, b.toNat], fun v => ∀ i < 64,
      let pos := (g b.toNat).toNat % 64
      v.getLsbD i = if pos ≤ i ∧ i < pos + fieldLen (g b.toNat) then (g a.toNat).getLsbD (i - pos) else (g d.toNat).getLsbD i⟩
  | .sext d a q => some ⟨d.toNat, [a.toNat], (· = signLow (8 * 2 ^ q.toNat) (g a.toNat))⟩
  | .zext d a q => some ⟨d.toNat, [a.toNat], (fun v => v.toNat = (g a.toNat).toNat % 2 ^ (8 * 2 ^ q.toNat))⟩
  | .phash d a => some ⟨d.toNat, [a.toNat], (· = phash (g a.toNat))⟩
  | .rndk d a b => some ⟨d.toNat, [a.toNat, b.toNat], (· = rndk (g a.toNat) (g b.toNat))⟩
  | _ => none

/-- R286, R287: results of the immediate forms. -/
def immRow (g : Nat → Word) : Instr → Option GenRow
  | .addi d a i => some ⟨d.toNat, [a.toNat], (· = g a.toNat + i.signExtend 64)⟩
  | .andi d a i => some ⟨d.toNat, [a.toNat], (· = g a.toNat &&& i.signExtend 64)⟩
  | .ori d a i => some ⟨d.toNat, [a.toNat], (· = g a.toNat ||| i.setWidth 64)⟩
  | .xori d a i => some ⟨d.toNat, [a.toNat], (· = g a.toNat ^^^ i.setWidth 64)⟩
  | .lih d k i => some ⟨d.toNat, [d.toNat], fun v => ∀ j < 64,
      v.getLsbD j = if j / 16 = k.toNat then i.getLsbD (j % 16) else (g d.toNat).getLsbD j⟩
  | .slli d a n => some ⟨d.toNat, [a.toNat], (· = g a.toNat <<< n.toNat)⟩
  | .srli d a n => some ⟨d.toNat, [a.toNat], (· = g a.toNat >>> n.toNat)⟩
  | .srai d a n => some ⟨d.toNat, [a.toNat], (fun v => v.toInt = (g a.toNat).toInt / 2 ^ n.toNat)⟩
  | .slti d a i => some ⟨d.toNat, [a.toNat], (· = if (g a.toNat).toInt < i.toInt then 1 else 0)⟩
  | .sltiu d a i => some ⟨d.toNat, [a.toNat], (· = if (g a.toNat).toNat < (i.signExtend 64).toNat then 1 else 0)⟩
  | _ => none

/-- An instruction that reads only general registers has the result that its row says. -/
def RowResult (row : (Nat → Word) → Instr → Option GenRow) : Prop :=
  ∀ i s t r, row t.gr i = some r → Ready s t { gR := r.src, gW := [r.d] } → WritesG i s t r.d r.ok

/-! ### Reads of the machine's own state -/

/-- A result that comes from the state: when the instruction has it, the registers it names, its destination, what it must be. -/
structure ReadRow where
  cond  : Prop
  names : Names
  d     : Nat
  ok    : Word → Prop

/-- R357: the fields of `psw`. -/
def PswOk (s : State) (t : Thread) (v : Word) : Prop :=
  v.getLsbD 0 = t.mode ∧ v.toNat / 2 % 4 = t.gcnt.toNat ∧ v.getLsbD 3 = t.gcond ∧ v.getLsbD 4 = t.region.isSome ∧
    v.getLsbD 5 = t.chain.isSome ∧ v.toNat / 64 % 4 = t.prio.toNat ∧ v.getLsbD 8 = (s.part t.part).det ∧ v.toNat < 512

/-- R356-R359, R140, R208: what a read of selector `n` (0-7) gives. -/
def ControlOk (s : State) (t : Thread) (n : Nat) (v : Word) : Prop :=
  let c := s.cur.core
  match n with
  | 0 => PswOk s t v
  | 1 => v = t.tid
  | 2 => v = coreReg c
  | 3 => t.part < 64 → v.toNat % 64 = t.part ∧ v.getLsbD 6 = (s.part t.part).det ∧ v.toNat / 128 = (s.part t.part).epoch.toNat
  | 4 => v = if isChan c then 0 else (s.core c).tagr
  | 5 => v = s.rfwin c ∧ (isChan c = true → v = 0)
  | 6 => v = s.md.cyc
  | _ => v = if isChan c then 0xFFFFFFFFFF else (s.core c).loadq

/-- LOADQ leaves its thread where it is: on a channel core, with the core or its least loaded neighbour out of service, with no
neighbour at least two below, or with a thread that balancing may not move (R374, R139). -/
def Stays (s : State) (t : Thread) : Prop :=
  let c := s.cur.core
  let w := (s.core c).loadq
  isChan c = true ∨ loadField w (c % 8) = 31 ∨ loadField w (idleField w) = 31 ∨ loadField w (c % 8) < loadField w (idleField w) + 2 ∨
    s.movable s.cur.slot { t with avail := .rotation } = false

def readRow (s : State) (t : Thread) : Instr → Option ReadRow
  | .rdctl d n =>
    let k := s.core s.cur.core
    if n.toNat < 8 then some ⟨True, { gW := [d.toNat] }, d.toNat, ControlOk s t n.toNat⟩
    else some ⟨isChan s.cur.core = false ∧ k.cEmpty.getLsbD (n.toNat - 8) = false, { gW := [d.toNat] }, d.toNat,
      (· = k.common (n.toNat - 8))⟩
  | .rdlt d => some ⟨True, { gW := [d.toNat] }, d.toNat, (· = s.md.ltc)⟩
  | .rdcnt d q => some ⟨True, { gW := [d.toNat] }, d.toNat, (· = Sparse.get 0 t.cnt q.toNat)⟩
  | .mshget d a => some ⟨True, { gW := [d.toNat], mN := [a.toNat] }, d.toNat, (· = (t.shape a.toNat).setWidth 64)⟩
  | .getvec d a =>
    let ty := (t.gr a.toNat).toNat % 256
    some ⟨isChan s.cur.core = false, { gR := [a.toNat], gW := [d.toNat] }, d.toNat,
      (· = if tableType ty then Sparse.get 0 (s.core s.cur.core).vec ty else 0)⟩
  | .epeek d q =>
    some ⟨isChan s.cur.core = false ∨ q = 1, { gW := [d.toNat] }, d.toNat,
      (· = (s.outQueue t.part s.cur.core q).headD (if q = 1 then 0xFF else BitVec.allOnes 64))⟩
  | .tagwany d a =>
    let x := (s.core s.cur.core).tagr &&& t.gr a.toNat
    some ⟨isChan s.cur.core = false ∧ (x ≠ 0 ∨ t.gr a.toNat = 0), { gR := [a.toNat], gW := [d.toNat] }, d.toNat, (· = x)⟩
  | .tagwall d a =>
    let x := (s.core s.cur.core).tagr &&& t.gr a.toNat
    some ⟨isChan s.cur.core = false ∧ x = t.gr a.toNat, { gR := [a.toNat], gW := [d.toNat] }, d.toNat, (· = t.gr a.toNat)⟩
  | .loadq d => some ⟨Stays s t, { gW := [d.toNat] }, d.toNat, (· = 0)⟩
  | _ => none

/-! ### Compares and jumps -/

/-- A condition of R288 on operands of `w` bits. -/
def Holds288 {w : Nat} (cc : Nat) (x y : BitVec w) (bit : Nat) : Prop :=
  match cc with
  | 0 => x = y
  | 1 => x ≠ y
  | 2 => x.toInt < y.toInt
  | 3 => x.toInt ≥ y.toInt
  | 4 => x.toNat < y.toNat
  | 5 => x.toNat ≥ y.toNat
  | 6 => x.getLsbD bit = true
  | _ => x.getLsbD bit = false

/-- A condition of R289 on floating values: a NaN makes only NE true. -/
def Holds289 (cc : Nat) (x y : XVal) : Prop :=
  match cc with
  | 0 => Exact.cmp x y = some .eq
  | 1 => Exact.cmp x y ≠ some .eq
  | 2 => Exact.cmp x y = some .lt
  | _ => Exact.cmp x y = some .gt ∨ Exact.cmp x y = some .eq

/-- The value of a compared register: FP32 for Q 0, BF16 for Q 1 (R289). -/
def floatOf (q : BitVec 1) (v : Word) : XVal := if q = 0 then ofFp32 (v.setWidth 32) else ofBf16 (v.setWidth 16)

/-- R288, R289: the guard count a compare sets, the registers it reads, and its condition. -/
def cmpRow (g : Nat → Word) : Instr → Option (BitVec 2 × List Nat × Prop)
  | .cmp n cc a b => some (n, [a.toNat, b.toNat], Holds288 cc.toNat (g a.toNat) (g b.toNat) ((g b.toNat).toNat % 64))
  | .cmpw n cc a b =>
    some (n, [a.toNat, b.toNat], Holds288 cc.toNat ((g a.toNat).setWidth 32) ((g b.toNat).setWidth 32) ((g b.toNat).toNat % 32))
  | .cmpf n cc a b q => some (n, [a.toNat, b.toNat], Holds289 cc.toNat (floatOf q (g a.toNat)) (floatOf q (g b.toNat)))
  | .cmpi n cc a i => some (n, [a.toNat], Holds288 cc.toNat (g a.toNat) (i.signExtend 64) (i.toNat % 64))
  | .cmpiw n cc a i => some (n, [a.toNat], Holds288 cc.toNat ((g a.toNat).setWidth 32) (i.signExtend 32) (i.toNat % 32))
  | _ => none

/-- R292: the registers a jump reads, its link, and its target. -/
def jumpRow (t : Thread) : Instr → Option (List Nat × List Nat × Word)
  | .j o => some ([], [], t.pc + 4 * o.signExtend 64)
  | .jl d o => some ([], [d.toNat], t.pc + 4 * o.signExtend 64)
  | .jr a i => some ([a.toNat], [], t.gr a.toNat + 4 * i.signExtend 64)
  | .jlr d a i => some ([a.toNat], [d.toNat], t.gr a.toNat + 4 * i.signExtend 64)
  | _ => none

/-! ### Instructions that change their own thread alone -/

/-- When the instruction acts, the registers it names, and what the thread is afterwards. -/
structure ThreadRow where
  cond  : Prop
  names : Names
  ok    : Thread → Prop

/-- The descriptor in two registers, with its reserved bits, all but 51:6 and 109:64, cleared (R200, R202). -/
def pairSeg (lo hi : Word) : Seg :=
  (lo.setWidth 128 ||| (hi.setWidth 128 <<< 64)) &&& BitVec.ofNat 128 ((2 ^ 46 - 1) * 2 ^ 64 + (2 ^ 46 - 1) * 2 ^ 6)

def threadRow (s : State) (t : Thread) : Instr → Option ThreadRow
  | .nop => some ⟨True, {}, fun t' => t' = t.like t'⟩
  | .idem a =>
    let w := t.gr a.toNat
    let u : Names := { gR := liveG w, vR := liveV w }
    some ⟨w.toNat < 2 ^ 48 ∧ u.gR.length ≤ 16 ∧ u.vR.length ≤ 4 ∧ t.holds u = true ∧ t.blocked u = false, { gR := [a.toNat] }, fun t' =>
      t' = { t.like t' with region := t'.region } ∧ ∃ r, t'.region = some r ∧ r.rstart = t.pc + 4 ∧ r.mask = w ∧
        (∀ n < 32, n ≠ 0 → Sparse.get 0 r.g n = if w.getLsbD n then t.gr n else 0) ∧
        (∀ n < 16, Sparse.get 0 r.v n = if w.getLsbD (32 + n) then t.vr n else 0)⟩
  | .wrctl n b =>
    some ⟨n = 0, { gR := [b.toNat] }, fun t' => t' = { t.like t' with region := none, mode := t.mode && (t.gr b.toNat).getLsbD 0 }⟩
  | .rdseg d g =>
    some ⟨True, { gW := [d.toNat, d.toNat + 1] }, fun t' => t' = { t.like t' with g := t'.g, gEmpty := t'.gEmpty } ∧
      (d ≠ 0 → t'.gr d.toNat = (t.seg g.toNat).setWidth 64) ∧ t'.gr (d.toNat + 1) = ((t.seg g.toNat) >>> 64).setWidth 64 ∧
      ∀ n, n ≠ d.toNat ∧ n ≠ d.toNat + 1 → t'.gr n = t.gr n⟩
  | .wrseg a g =>
    let n := pairSeg (t.gr a.toNat) (t.gr (a.toNat + 1))
    let o := t.seg g.toNat
    some ⟨t.mode = true ∨ (segBase o ≤ segBase n ∧ segBase n + segLimit n ≤ segBase o + segLimit o ∧
        ∀ i, 104 ≤ i → i ≤ 109 → n.getLsbD i = true → o.getLsbD i = true),
      { gR := [a.toNat, a.toNat + 1] }, fun t' => t' = { t.like t' with sg := t'.sg } ∧ ∀ k, t'.seg k = if k = g.toNat then n else t.seg k⟩
  | .mshape d a =>
    let v : BitVec 32 := (t.gr a.toNat).setWidth 32
    some ⟨t.chainBars [d.toNat] = false ∧ mshapeOk s.md.full t d.toNat v = true, { gR := [a.toNat], mN := [d.toNat] }, fun t' =>
      t' = { t.like t' with md := t'.md } ∧ ∀ k, t'.shape k = if k = d.toNat then v else t.shape k⟩
  | .wres d q =>
    match q.toNat with
    | 0 => some ⟨True, { gW := [d.toNat] }, fun t' => t' = { t.like t' with gEmpty := if d = 0 then t.gEmpty else t.gEmpty ||| (1#32 <<< d.toNat) }⟩
    | 1 => some ⟨True, { vW := [d.toNat] }, fun t' => t' = { t.like t' with vEmpty := t.vEmpty ||| (1#16 <<< d.toNat) }⟩
    | 2 => some ⟨True, { mW := [d.toNat] }, fun t' => t' = { t.like t' with mEmpty := t.mEmpty ||| (1#16 <<< d.toNat) }⟩
    | _ => none
  | .cfence => some ⟨isChan s.cur.core = true ∨ s.colDone t.tid = true, {}, fun t' => t' = t.like t'⟩
  | .fenceRx => some ⟨s.rxDone t.tid = true, {}, fun t' => t' = { t.like t' with fence := none }⟩
  | .fenceLb =>
    some ⟨s.rxDone t.tid = true ∧ s.drained t.tid (s.fenceMark t) = true, {}, fun t' => t' = { t.like t' with fence := none }⟩
  | .fenceSys =>
    some ⟨s.rxDone t.tid = true ∧ s.sysDone t.tid = true ∧ s.drained t.tid (s.fenceMark t) = true, {}, fun t' =>
      t' = { t.like t' with fence := none }⟩
  | .leave d a =>
    let r := match t.asking with
      | .answered r => r
      | _ => 0
    some ⟨isChan s.cur.core = false ∧ leaveOk (t.gr a.toNat) = true ∧ t.asking = .answered r, { gR := [a.toNat], gW := [d.toNat] }, fun t' =>
      t' = { t.like t' with g := t'.g, gEmpty := t'.gEmpty, region := none, asking := .no } ∧ GotG t t' d.toNat (· = r)⟩
  | _ => none

/-! ### Instructions that change the record of their core -/

/-- When the instruction acts, the registers it names, what it makes of its core's record, and what the thread is afterwards. -/
structure CoreRow where
  cond  : Prop
  names : Names
  core  : Core → Core
  ok    : Thread → Prop

/-- Number of 0 bits below the lowest 1 bit (R381). -/
def IsLowest (x n : Word) : Prop := n.toNat ≤ 63 ∧ x.getLsbD n.toNat = true ∧ ∀ i < n.toNat, x.getLsbD i = false

/-- A device address resolves to `x` with no walk of the page table: always in spaces 0x1 and 0x2, and in space 0x0 where the cluster's
translation buffer holds the page. -/
def Hits (s : State) (c p : Nat) (need : Need) (op : MemOp) (da : Nat) (x : Target) : Prop :=
  ∀ u : State, u = { s with cores := u.cores, net := u.net, fresh := u.fresh, cur := u.cur } → u.resolve c p need op da = (.at_ x, u)

/-- The 32 bytes at the device address `da`, which lies in this module at `x`, are `w`, and nothing keeps the thread from reading them: it has
no access outstanding, and their line has had its turn at its home (R47, R49, R109). -/
structure HeaderAt (s : State) (t : Thread) (da w : Nat) (x : Target) : Prop where
  quiet : s.unperformed t.tid = false
  near  : s.farOf (.header s.cur.core s.cur.slot) da = none
  open_ : s.served (.header s.cur.core s.cur.slot) s.cur.core t.part .read [(da, 32)] = true
  good  : s.env.bad = false
  hits  : Hits s s.cur.core t.part .read (.read 32) da x
  here  : x.home ≠ .host ∧ ∀ q, x.home ≠ .egress q
  line  : da % 32 = 0
  bytes : s.readLE (s.keyOf t.part) x.loc 32 = w

/-- The header at `da` is read as `w`, in this module or by a reply of another (R65), and leaves the state `s1`. -/
def HeaderRead (s : State) (t : Thread) (da w : Nat) (s1 : State) : Prop :=
  let key := Errand.header s.cur.core s.cur.slot
  (∃ x, HeaderAt s t da w x ∧ s1 = (s.dropTicket key).chargeBytes t.part x.loc false 32) ∨
    ∃ a, s.farOf key da = some a ∧ a.back = true ∧ a.failed = none ∧ bufNat a.buf 0 32 = w ∧ s1 = s.dropFar key

/-- The attempt at `i` does not issue, and its thread waits in memory, in the state `s'`. -/
def WaitsInMemory (i : Instr) (s s' : State) : Prop :=
  exec i s = .next (s'.modThread s.cur.core s.cur.slot fun t => { t with avail := .fence })

/-- `i` needs the header at `da`. Until its line has had its turn, or the read of another module's is answered, `i` does not issue: the line is
asked for, or the read is sent, and the thread waits in memory. A read that has failed raises the trap of its failure. -/
def AsksForHeader (i : Instr) (s : State) (t : Thread) (da : Nat) : Prop :=
  let key := Errand.header s.cur.core s.cur.slot
  (s.farOf key da = none → s.unperformed t.tid = false →
    (s.isFar s.cur.core t.part da 32 = true →
      WaitsInMemory i s (s.askFar key .load s.cur.core s.cur.slot t da 32 s.cur.word)) ∧
    (s.isFar s.cur.core t.part da 32 = false → s.served key s.cur.core t.part .read [(da, 32)] = false →
      WaitsInMemory i s (s.askFor key s.cur.core t.part .read [(da, 32)]))) ∧
  ∀ a, s.farOf key da = some a →
    (a.back = false → WaitsInMemory i s s) ∧
    ∀ st x, a.back = true → a.failed = some (st, x) →
      ∃ s', exec i s = .next s' ∧ Trapped (s.dropFar key) s' t (failTrap st).1 (BitVec.ofNat 64 x) (BitVec.ofNat 64 (failTrap st).2)

/-- What a valid SETVEC makes of its core's record: the entry of type `ty` with the SUPV bit of header `h` in bit 1, and the vector context of
the thread (R188, R373); and the header itself, which the model keeps with the entry (DEDUCED, log entry 54). -/
def setEntry (t : Thread) (ty : Nat) (w : Word) (h : KHdr) (k : Core) : Core :=
  { k with vec := Sparse.put 0 k.vec ty ((w &&& ~~~2#64) ||| (if h.supv then 2 else 0)), vctx := { sg := t.sg, fm := t.fm, sc := t.sc },
           vhdr := Sparse.insert k.vhdr ty h }

def coreRow (s : State) (t : Thread) : Instr → Option CoreRow
  | .wrctl n b =>
    some ⟨8 ≤ n.toNat ∧ isChan s.cur.core = false, { gR := [b.toNat] }, fun k =>
        { k with c := Sparse.put 0 k.c (n.toNat - 8) (t.gr b.toNat), cEmpty := k.cEmpty &&& ~~~(1#8 <<< (n.toNat - 8)) },
      fun t' => t' = { t.like t' with region := none }⟩
  | .wres d q =>
    some ⟨q = 3 ∧ isChan s.cur.core = false, {}, fun k => { k with cEmpty := k.cEmpty ||| (1#8 <<< d.toNat) }, fun t' => t' = t.like t'⟩
  | .ifence => some ⟨s.storesDone t.tid = true, {}, fun k => { k with ibuf := [] }, fun t' => t' = t.like t'⟩
  | .tagclr a =>
    some ⟨isChan s.cur.core = false, { gR := [a.toNat] }, fun k => { k with tagr := k.tagr &&& ~~~t.gr a.toNat },
      fun t' => t' = { t.like t' with region := none }⟩
  | .tagff d a =>
    let x := (s.core s.cur.core).tagr &&& t.gr a.toNat
    some ⟨isChan s.cur.core = false ∧ (x ≠ 0 ∨ t.gr a.toNat = 0), { gR := [a.toNat], gW := [d.toNat] },
      fun k => { k with tagr := if x = 0 then k.tagr else k.tagr &&& ~~~(1#64 <<< (trailZeros x).toNat) },
      fun t' => t' = { t.like t' with g := t'.g, gEmpty := t'.gEmpty, region := none } ∧
        GotG t t' d.toNat (fun v => if x = 0 then v = 64 else IsLowest x v)⟩
  | .setvec a b =>
    let ty := (t.gr a.toNat).toNat % 256
    some ⟨isChan s.cur.core = false ∧ tableType ty = true ∧ (0x40 ≤ ty ∨ t.mode = true) ∧ (t.gr b.toNat).toNat < 2 ^ 52 ∧
        (t.gr b.toNat).getLsbD 4 = false ∧ (t.gr b.toNat).getLsbD 0 = false, { gR := [a.toNat, b.toNat] },
      fun k => { k with vec := Sparse.put 0 k.vec ty 0, vctx := { sg := t.sg, fm := t.fm, sc := t.sc }, vhdr := Sparse.erase k.vhdr ty },
      fun t' => t' = { t.like t' with region := none }⟩
  | .epop d q =>
    let k := s.core s.cur.core
    some ⟨q = 0 ∧ isChan s.cur.core = false ∧ k.errQ ≠ [], { gW := [d.toNat] }, fun k => { k with errQ := k.errQ.drop 1 },
      fun t' => t' = { t.like t' with g := t'.g, gEmpty := t'.gEmpty } ∧ GotG t t' d.toNat (fun v => k.errQ.head? = some v)⟩
  | _ => none

/-! ### Operations of the vector-matrix unit -/

/-- When an operation is dispatched, the registers it names, its sources as they stand at issue, and its destinations. -/
structure DispRow where
  cond  : Prop
  names : Names
  a     : Word := 0
  b     : Word := 0
  va    : Vec := 0
  vb    : Vec := 0
  vd    : Vec := 0
  dst   : List (RegKind × Nat)

def vec1Row (t : Thread) (d a : BitVec 4) : Option DispRow :=
  some { cond := True, names := { vR := [a.toNat], vW := [d.toNat] }, va := t.vr a.toNat, dst := [(.v, d.toNat)] }
def vec2Row (t : Thread) (d a b : BitVec 4) : Option DispRow :=
  some { cond := True, names := { vR := [a.toNat, b.toNat], vW := [d.toNat] }, va := t.vr a.toNat, vb := t.vr b.toNat,
         dst := [(.v, d.toNat)] }
def vec3Row (t : Thread) (d a b : BitVec 4) : Option DispRow :=
  some { cond := True, names := { vR := [d.toNat, a.toNat, b.toNat], vW := [d.toNat] }, va := t.vr a.toNat, vb := t.vr b.toNat,
         vd := t.vr d.toNat, dst := [(.v, d.toNat)] }
def vecGRow (t : Thread) (d a : BitVec 4) (b : BitVec 5) : Option DispRow :=
  some { cond := True, names := { gR := [b.toNat], vR := [a.toNat], vW := [d.toNat] }, b := t.gr b.toNat, va := t.vr a.toNat,
         dst := [(.v, d.toNat)] }
def genVGRow (t : Thread) (d : BitVec 5) (a : BitVec 4) (b : BitVec 5) : Option DispRow :=
  some { cond := True, names := { gR := [b.toNat], gW := [d.toNat], vR := [a.toNat] }, b := t.gr b.toNat, va := t.vr a.toNat,
         dst := [(.g, d.toNat)] }
def genVVRow (t : Thread) (d : BitVec 5) (a b : BitVec 4) : Option DispRow :=
  some { cond := True, names := { gW := [d.toNat], vR := [a.toNat, b.toNat] }, va := t.vr a.toNat, vb := t.vr b.toNat,
         dst := [(.g, d.toNat)] }

/-- R322, R325-R331, R346-R349: the vector and search operations. -/
def vectorRow (t : Thread) : Instr → Option DispRow
  | .vadd d a b _ | .vsub d a b _ | .vmul d a b _ | .vmin d a b _ | .vmax d a b _ | .vcmp d a b _ | .vand d a b _ | .vor d a b _
  | .vxor d a b _ | .vshl d a b _ | .vshr d a b _ | .vshuf d a b _ => vec2Row t d a b
  | .vfma d a b _ | .vfms d a b _ | .vsel d a b _ => vec3Row t d a b
  | .vabs d a _ | .vneg d a _ | .vscan d a _ => vec1Row t d a
  | .vrcp d a _ | .vrsq d a _ | .vex2 d a _ | .vlg2 d a _ => vec1Row t d a
  | .vbcast d a _ => some { cond := True, names := { gR := [a.toNat], vW := [d.toNat] }, a := t.gr a.toNat, dst := [(.v, d.toNat)] }
  | .vext d a b _ | .vred d a b _ | .vrmax d a b _ | .vrmin d a b _ => genVGRow t d a b
  | .vins d a b _ =>
    some { cond := True, names := { gR := [a.toNat, b.toNat], vR := [d.toNat], vW := [d.toNat] }, a := t.gr a.toNat, b := t.gr b.toNat,
           vd := t.vr d.toNat, dst := [(.v, d.toNat)] }
  | .vrot d a b _ | .bmf d a b _ => vecGRow t d a b
  | .vdot d a b _ => genVVRow t d a b
  | .vcvt d a b q =>
    some { cond := cvtOk q.toNat (t.gr b.toNat) = true, names := { gR := [b.toNat], vR := [d.toNat, a.toNat], vW := [d.toNat] },
           b := t.gr b.toNat, va := t.vr a.toNat, vd := t.vr d.toNat, dst := [(.v, d.toNat)] }
  | .ham d a b => genVVRow t d a b
  | .topki d a b =>
    some { cond := True, names := { gR := [b.toNat], vR := [d.toNat, a.toNat], vW := [d.toNat] }, b := t.gr b.toNat, va := t.vr a.toNat,
           vd := t.vr d.toNat, dst := [(.v, d.toNat)] }
  | .topkr d a =>
    some { cond := True, names := { vR := [d.toNat, a.toNat], vW := [d.toNat] }, va := t.vr a.toNat, vd := t.vr d.toNat,
           dst := [(.v, d.toNat)] }
  | .topkz d => some { cond := True, names := { vW := [d.toNat] }, dst := [(.v, d.toNat)] }
  | .dip d a b _ | .dcos d a b _ | .dl2 d a b _ => genVVRow t d a b
  | _ => none

/-- Tiles that a tile operation names agree in rows and elements with `d`, and are no narrow tiles. -/
def Alike (s : State) (t : Thread) (d : Nat) (ks : List Nat) : Prop :=
  ∀ k ∈ ks, t.tileOk s k = true ∧ t.narrow k = false ∧ t.rows k = t.rows d ∧ t.elems k = t.elems d

/-- The row that `b` selects lies in the tile (R337). -/
def RowIn (t : Thread) (k : Nat) (b : Word) : Prop := b.toNat % 64 < t.rows k ∧ 64 * (b.toNat / 64 % 2) < shBytes (t.shape k)

/-- R337, R338, R341, R345, R347: the tile operations whose thread goes on. -/
def tileRow (s : State) (t : Thread) : Instr → Option DispRow
  | .mzero d => some { cond := t.chainBars [d.toNat] = false, names := { mW := [d.toNat] }, dst := [(.m, d.toNat)] }
  | .mrowv d a b =>
    some { cond := t.chainBars [a.toNat] = false ∧ t.tileOk s a.toNat = true ∧ t.narrow a.toNat = false ∧ RowIn t a.toNat (t.gr b.toNat),
           names := { gR := [b.toNat], mR := [a.toNat], vW := [d.toNat] }, b := t.gr b.toNat, dst := [(.v, d.toNat)] }
  | .mvrow d a b =>
    some { cond := t.chainBars [d.toNat] = false ∧ t.tileOk s d.toNat = true ∧ t.narrow d.toNat = false ∧ RowIn t d.toNat (t.gr b.toNat),
           names := { gR := [b.toNat], vR := [a.toNat], mR := [d.toNat], mW := [d.toNat] }, b := t.gr b.toNat, va := t.vr a.toNat,
           dst := [(.m, d.toNat)] }
  | .mcvt d a =>
    some { cond := t.chain = none ∧ t.tileOk s d.toNat = true ∧ t.tileOk s a.toNat = true ∧ t.rows d.toNat = t.rows a.toNat ∧
             t.elems d.toNat = t.elems a.toNat,
           names := { mR := a.toNat :: t.comps a.toNat ++ t.comps d.toNat, mW := [d.toNat] }, dst := [(.m, d.toNat)] }
  | .mew d a b _ =>
    some { cond := t.chain = none ∧ Alike s t d.toNat [d.toNat, a.toNat, b.toNat], names := { mR := [a.toNat, b.toNat], mW := [d.toNat] },
           dst := [(.m, d.toNat)] }
  | .mred d a b _ =>
    some { cond := t.chainBars [a.toNat] = false ∧ t.tileOk s a.toNat = true ∧ t.narrow a.toNat = false,
           names := { gR := [b.toNat], mR := [a.toNat], vW := [d.toNat] }, b := t.gr b.toNat, dst := [(.v, d.toNat)] }
  | .hamt d a b =>
    some { cond := t.chainBars [a.toNat] = false ∧ t.tileOk s a.toNat = true ∧ shBytes (t.shape a.toNat) = 64 ∧ t.rows a.toNat ≤ 32,
           names := { mR := [a.toNat], mN := t.comps a.toNat, vR := [b.toNat], vW := [d.toNat] }, vb := t.vr b.toNat, dst := [(.v, d.toNat)] }
  | _ => none

/-- Exactly the listed registers have become empty with a result due (R180, R181). -/
structure Owed (t t' : Thread) (dst : List (RegKind × Nat)) : Prop where
  gE : ∀ n < 32, t'.gEmpty.getLsbD n = (t.gEmpty.getLsbD n || (n != 0 && dst.contains (.g, n)))
  gD : ∀ n < 32, t'.gDue.getLsbD n = (t.gDue.getLsbD n || (n != 0 && dst.contains (.g, n)))
  vE : ∀ n < 16, t'.vEmpty.getLsbD n = (t.vEmpty.getLsbD n || dst.contains (.v, n))
  vD : ∀ n < 16, t'.vDue.getLsbD n = (t.vDue.getLsbD n || dst.contains (.v, n))
  mE : ∀ n < 16, t'.mEmpty.getLsbD n = (t.mEmpty.getLsbD n || dst.contains (.m, n))
  mD : ∀ n < 16, t'.mDue.getLsbD n = (t.mDue.getLsbD n || dst.contains (.m, n))

/-- `t` with its full bits and due bits as in `t'`. -/
def likeFull (t t' : Thread) : Thread :=
  { t with gEmpty := t'.gEmpty, gDue := t'.gDue, vEmpty := t'.vEmpty, vDue := t'.vDue, mEmpty := t'.mEmpty, mDue := t'.mDue }

/-- The operation enters its core's dispatch queue with the sources of the row and the thread's shape, format and scale words. -/
def Dispatched (i : Instr) (s s' : State) (t : Thread) (r : DispRow) : Prop :=
  ∃ o : VmuOp, (s'.core s.cur.core).disp = (s.core s.cur.core).disp ++ [o] ∧ o.ins = i ∧ o.core = s.cur.core ∧ o.slot = s.cur.slot ∧
    o.tid = t.tid ∧ o.part = t.part ∧ o.a = r.a ∧ o.b = r.b ∧ o.va = r.va ∧ o.vb = r.vb ∧ o.vd = r.vd ∧ o.md = t.md ∧ o.fm = t.fm ∧
    o.sc = t.sc ∧ o.ref = none

/-- No unit but the cores and meters, and no byte of storage, is changed. -/
def CoresOnly (s s' : State) : Prop :=
  s' = { s with cores := s'.cores, parts := s'.parts, cur := s'.cur, fresh := s'.fresh } ∧
    (∀ c k, ¬(c = s.cur.core ∧ k = s.cur.slot) → s'.thread c k = s.thread c k) ∧ ∀ k a, s'.readByte k a = s.readByte k a

/-- A dispatch completes: the thread goes on with its destinations empty and due, and the operation is queued. -/
def DispatchCompletes (i : Instr) (s : State) (t : Thread) (r : DispRow) : Prop :=
  ∃ s' t', exec i s = .next s' ∧ s'.mine = some t' ∧ Onward s t t' (t.pc + 4) ∧ t' = likeFull (t.like t') t' ∧ Owed t t' r.dst ∧
    Dispatched i s s' t r ∧ CoresOnly s s'

/-- A tile transfer: when it issues, the registers it names, its pieces, the registers due, and the companion tile it brings. -/
structure TransferRow where
  cond   : Prop
  names  : Names
  pieces : List Piece
  dst    : List (RegKind × Nat)
  comp   : Option Nat

/-- R334, R335, R246: the transfers whose row checks pass. The scales of a narrow load are read line by line, from the first to the last byte needed:
DEDUCED, log entry 50. -/
def transferRow (s : State) (t : Thread) : Instr → Option TransferRow
  | .mld d a b g =>
    let md := t.shape d.toNat
    let w := (Fmt.ofWord (t.tileFm d.toNat)).width
    let nw := t.narrow d.toNat
    let sc := t.scw (shPair md)
    let bs := if nw ∧ sc ≠ 0 then blockScales (t.gr a.toNat) (t.gr b.toNat) (shRows md) (shBytes md / (2 * w)) w else []
    match checkRows s t g.toNat (shBytes md) (if nw then 2 * w else if shFmt md = 0 then 4 else 2) (if nw then .ldn else .load) .tileLd
        ((List.range (shRows md)).map (rowOff (t.gr a.toNat) (t.gr b.toNat))) with
    | .ok das => some
        { cond := t.chainBars (d.toNat :: t.comps d.toNat) = false ∧ t.tileOk s d.toNat = true ∧
            ∀ b ∈ bs, scaleFault s t (scaleDa sc b) = none
          names := { gR := [a.toNat, b.toNat], mW := d.toNat :: t.comps d.toNat }
          pieces := rowPieces (shBytes md) das ++ tileScalePieces sc bs
          dst := (.m, d.toNat) :: (t.comps d.toNat).map fun c => (.m, c)
          comp := (t.comps d.toNat).head? }
    | .error _ => none
  | .mldt d a b g =>
    let md := t.shape d.toNat
    let e := if shFmt md = 0 then 4 else 2
    match checkRows s t g.toNat (shRows md * e) e .load .tileLd
        ((List.range (shBytes md / e)).map (rowOff (t.gr a.toNat) (t.gr b.toNat))) with
    | .ok das => some
        { cond := t.chainBars [d.toNat] = false ∧ t.tileOk s d.toNat = true ∧ t.narrow d.toNat = false
          names := { gR := [a.toNat, b.toNat], mW := d.toNat :: t.comps d.toNat }
          pieces := rowPieces (shRows md * e) das
          dst := [(.m, d.toNat)]
          comp := none }
    | .error _ => none
  | .mst d a b g =>
    let md := t.shape d.toNat
    let w := (Fmt.ofWord (t.tileFm d.toNat)).width
    let nw := t.narrow d.toNat
    match checkRows s t g.toNat (shBytes md) (if nw then 2 * w else if shFmt md = 0 then 4 else 2) (if nw then .stn else .store) .tileSt
        ((List.range (shRows md)).map (rowOff (t.gr a.toNat) (t.gr b.toNat))) with
    | .ok das => some
        { cond := t.chainBars [d.toNat] = false ∧ t.tileOk s d.toNat = true
          names := { gR := [a.toNat, b.toNat], mR := [d.toNat], mN := t.comps d.toNat }
          pieces := rowPieces (shBytes md) das
          dst := []
          comp := none }
    | .error _ => none
  | _ => none

/-- Lane `i` of a vector in lanes of `w` bits. -/
def lane (w i : Nat) (v : Vec) : BitVec w := v.extractLsb' (w * i) w

/-- R325: the integer and bitwise operations, with their lane type, destination and effect on a lane. -/
def intLaneRow (w : Nat) : Instr → Option (BitVec 4 × BitVec 4 × (BitVec w → BitVec w → BitVec w → BitVec w))
  | .vadd d _ _ q => some (q, d, fun _ a b => a + b)
  | .vsub d _ _ q => some (q, d, fun _ a b => a - b)
  | .vmul d _ _ q => some (q, d, fun _ a b => a * b)
  | .vfma d _ _ q => some (q, d, fun d a b => a * b + d)
  | .vfms d _ _ q => some (q, d, fun d a b => d - a * b)
  | .vmin d _ _ q => some (q, d, fun _ a b => if a.toInt ≤ b.toInt then a else b)
  | .vmax d _ _ q => some (q, d, fun _ a b => if a.toInt ≥ b.toInt then a else b)
  | .vabs d _ q => some (q, d, fun _ a _ => if a.toInt < 0 then -a else a)
  | .vneg d _ q => some (q, d, fun _ a _ => -a)
  | .vand d _ _ q => some (q, d, fun _ a b => a &&& b)
  | .vor d _ _ q => some (q, d, fun _ a b => a ||| b)
  | .vxor d _ _ q => some (q, d, fun _ a b => a ^^^ b)
  | .vshl d _ _ q => some (q, d, fun _ a b => a <<< (b.toNat % w))
  | .vshr d _ _ q => some (q, d, fun _ a b => a.sshiftRight (b.toNat % w))
  | _ => none

/-- The unit `q` is about to write the result of `o`, whose thread is still in its slot. -/
structure Running (s : State) (q : Nat) (o : VmuOp) (rest : List VmuOp) (t : Thread) : Prop where
  unit    : s.env.unit = q ∧ q < 8192
  running : (s.vmu q).running = o :: rest
  thread  : s.thread o.core o.slot = some t
  tid     : t.tid = o.tid
  due     : o.ready ≤ s.now

/-- A general result is written: register `d` holds it, is full, and has nothing due; nothing else of any thread or storage changes. -/
def GeneralWritten (s s' : State) (q : Nat) (o : VmuOp) (rest : List VmuOp) (t : Thread) (d : Nat) (ok : Word → Prop) : Prop :=
  ∃ t', s'.thread o.core o.slot = some t' ∧ (d ≠ 0 → ok (t'.gr d) ∧ t'.gEmpty.getLsbD d = false) ∧ t'.gDue.getLsbD d = false ∧
    (∀ n, n ≠ d → t'.gr n = t.gr n ∧ t'.gEmpty.getLsbD n = t.gEmpty.getLsbD n) ∧
    t' = { t with g := t'.g, gEmpty := t'.gEmpty, gDue := t'.gDue, from_ := t'.from_ } ∧ (s'.vmu q).running = rest ∧
    (∀ c k, ¬(c = o.core ∧ k = o.slot) → s'.thread c k = s.thread c k) ∧ ∀ k a, s'.readByte k a = s.readByte k a

/-- A tile result is written, in the same way. -/
def TileWritten (s s' : State) (q : Nat) (o : VmuOp) (rest : List VmuOp) (t : Thread) (d : Nat) (ok : Tile → Prop) : Prop :=
  ∃ t', s'.thread o.core o.slot = some t' ∧ ok (t'.mr d) ∧ t'.mEmpty.getLsbD d = false ∧ t'.mDue.getLsbD d = false ∧
    (∀ n, n ≠ d → t'.mr n = t.mr n ∧ t'.mEmpty.getLsbD n = t.mEmpty.getLsbD n) ∧
    t' = { t with m := t'.m, mEmpty := t'.mEmpty, mDue := t'.mDue, from_ := t'.from_ } ∧ (s'.vmu q).running = rest ∧
    (∀ c k, ¬(c = o.core ∧ k = o.slot) → s'.thread c k = s.thread c k) ∧ ∀ k a, s'.readByte k a = s.readByte k a

/-- A vector result is written: register `d` holds it, is full, and has nothing due; the thread's other registers, every other thread and
every byte of storage are as before, and the operation has left the unit. -/
def VectorWritten (s s' : State) (q : Nat) (o : VmuOp) (rest : List VmuOp) (t : Thread) (d : Nat) (ok : Vec → Prop) : Prop :=
  ∃ t', s'.thread o.core o.slot = some t' ∧ ok (t'.vr d) ∧ t'.vEmpty.getLsbD d = false ∧ t'.vDue.getLsbD d = false ∧
    (∀ n, n ≠ d → t'.vr n = t.vr n ∧ t'.vEmpty.getLsbD n = t.vEmpty.getLsbD n) ∧
    t' = { t with v := t'.v, vEmpty := t'.vEmpty, vDue := t'.vDue, from_ := t'.from_ } ∧ (s'.vmu q).running = rest ∧
    (∀ c k, ¬(c = o.core ∧ k = o.slot) → s'.thread c k = s.thread c k) ∧ ∀ k a, s'.readByte k a = s.readByte k a

/-- R325: the floating operations, with their lane type, destination and exact effect on a lane, which is rounded once. -/
def floatLaneRow : Instr → Option (Nat × Nat × (XVal → XVal → XVal → XVal))
  | .vadd d _ _ q => some (q.toNat, d.toNat, fun _ a b => Exact.add a b)
  | .vsub d _ _ q => some (q.toNat, d.toNat, fun _ a b => Exact.add a (Exact.neg b))
  | .vmul d _ _ q => some (q.toNat, d.toNat, fun _ a b => Exact.mul a b)
  | .vfma d _ _ q => some (q.toNat, d.toNat, fun d a b => Exact.add (Exact.mul a b) d)
  | .vfms d _ _ q => some (q.toNat, d.toNat, fun d a b => Exact.add d (Exact.neg (Exact.mul a b)))
  | .vmin d _ _ q => some (q.toNat, d.toNat, fun _ a b => xMin a b)
  | .vmax d _ _ q => some (q.toNat, d.toNat, fun _ a b => xMax a b)
  | .vabs d _ q => some (q.toNat, d.toNat, fun _ a _ => Exact.abs a)
  | .vneg d _ q => some (q.toNat, d.toNat, fun _ a _ => Exact.neg a)
  | _ => none

/-- How two lanes of type `q` stand to each other; none where one is a NaN. -/
def laneOrder (q a b : Nat) : Option Ordering :=
  if q < 2 then Exact.cmp (flOf q a) (flOf q b) else some (compare (sgnOf (laneW q) a) (sgnOf (laneW q) b))

/-- R325-R330, R346: the other operations that make each lane on its own: lane type, destination, and lane `i`. -/
def otherLaneRow (o : VmuOp) : Option (Nat × Nat × (Nat → Nat)) :=
  match o.ins with
  | .vrcp d _ q => some (q.toNat, d.toNat, fun i => laneRcp q.toNat (laneOf q.toNat o.va i))
  | .vrsq d _ q => some (q.toNat, d.toNat, fun i => laneRsq q.toNat (laneOf q.toNat o.va i))
  | .vex2 d _ q => some (q.toNat, d.toNat, fun i => laneEx2 q.toNat (laneOf q.toNat o.va i))
  | .vlg2 d _ q => some (q.toNat, d.toNat, fun i => laneLg2 q.toNat (laneOf q.toNat o.va i))
  | .vcmp d _ _ q => some (q.toNat, d.toNat, fun i => match laneOrder q.toNat (laneOf q.toNat o.va i) (laneOf q.toNat o.vb i) with
      | some .lt => 2 ^ laneW q.toNat - 1
      | some .eq => 0
      | some .gt => 1
      | none => 2)
  | .vsel d _ _ q => some (q.toNat, d.toNat, fun i =>
      if 2 ^ (laneW q.toNat - 1) ≤ laneOf q.toNat o.vd i then laneOf q.toNat o.va i else laneOf q.toNat o.vb i)
  | .vbcast d _ q => some (q.toNat, d.toNat, fun _ => o.a.toNat % 2 ^ laneW q.toNat)
  | .vins d _ _ q => some (q.toNat, d.toNat, fun i =>
      if i = o.b.toNat % laneN q.toNat then o.a.toNat % 2 ^ laneW q.toNat else laneOf q.toNat o.vd i)
  | .vshuf d _ _ q => some (q.toNat, d.toNat, fun i => laneOf q.toNat o.va (laneOf q.toNat o.vb i % laneN q.toNat))
  | .vrot d _ _ q => some (q.toNat, d.toNat, fun i => laneOf q.toNat o.va ((i + o.b.toNat) % laneN q.toNat))
  | .bmf d _ _ q => some (q.toNat, d.toNat, fun i => if o.b.getLsbD i then laneOf q.toNat o.va i else 2 ^ laneW q.toNat - 1)
  | .topkz d => some (2, d.toNat, fun _ => 0xFFFFFFFF)
  | .vcvt d _ _ q =>
    let f := o.b.toNat % 8
    let p := o.b.toNat / 16 % 4
    some (q.toNat, d.toNat, fun i =>
      if laneN f < laneN q.toNat then
        (if laneN f * p ≤ i ∧ i < laneN f * (p + 1) then convLane f q.toNat (laneOf f o.va (i - laneN f * p)) else laneOf q.toNat o.vd i)
      else if laneN q.toNat < laneN f then convLane f q.toNat (laneOf f o.va (laneN q.toNat * p + i))
      else convLane f q.toNat (laneOf f o.va i))
  | _ => none

/-- R329, R331, R328, R346, R349: the operations with a general result. -/
def generalRow (o : VmuOp) : Option (Nat × Word) :=
  match o.ins with
  | .vext d _ _ q =>
    let n := laneOf q.toNat o.va (o.b.toNat % laneN q.toNat)
    some (d.toNat, if q.toNat < 2 then BitVec.ofNat 64 n else BitVec.ofInt 64 (sgnOf (laneW q.toNat) n))
  | .vred d _ _ q => some (d.toNat, vecReduce .sum q.toNat o.va o.b)
  | .vrmax d _ _ q => some (d.toNat, vecReduce .max q.toNat o.va o.b)
  | .vrmin d _ _ q => some (d.toNat, vecReduce .min q.toNat o.va o.b)
  | .vdot d _ _ q => some (d.toNat, vecDot q.toNat o.va o.vb)
  | .ham d _ _ => some (d.toNat, BitVec.ofNat 64 ((List.range 512).countP fun i => (o.va ^^^ o.vb).getLsbD i))
  | .dip d _ _ q => some (d.toNat, vecDip q.toNat o.va o.vb)
  | .dcos d _ _ q => some (d.toNat, vecDcos q.toNat o.va o.vb)
  | .dl2 d _ _ q => some (d.toNat, vecDl2 q.toNat o.va o.vb)
  | _ => none

/-- The candidates of TOPKI and TOPKR, with their destination (R348). -/
def topRow (o : VmuOp) : Option (Nat × List Nat) :=
  match o.ins with
  | .topki d _ _ =>
    some (d.toNat, (((List.range 32).filter fun i => laneOf 3 o.va i != 0xFFFF).map fun i =>
      laneOf 3 o.va i * 2 ^ 16 + (o.b.toNat + i) % 2 ^ 16))
  | .topkr d _ => some (d.toNat, (lanes 2 o.va).filter fun x => x / 2 ^ 16 != 0xFFFF)
  | _ => none

/-- `new` is the 16 smallest of the entries of `old` and of the candidates, ascending, with empty lanes last (R348). -/
def TopOf (old new : Vec) (cands : List Nat) : Prop :=
  let mine := (lanes 2 old).filter fun x => x / 2 ^ 16 != 0xFFFF
  (lanes 2 new).Pairwise (· ≤ ·) ∧ ∃ left, (lanes 2 new ++ left).Perm (mine ++ cands ++ List.replicate 16 0xFFFFFFFF) ∧
    ∀ x ∈ lanes 2 new, ∀ y ∈ left, x ≤ y

/-- Element (r, j) of a tile of FP32 or BF16 elements, as its bits. -/
def elemBits (m : Tile) (md : BitVec 32) (r j : Nat) : Nat :=
  if shFmt md = 0 then tileNat m (r * shBytes md + 4 * j) 4 else tileNat m (r * shBytes md + 2 * j) 2

/-- An exact value rounded once into the element format of a tile. -/
def elemRound (md : BitVec 32) (x : XVal) : Nat := if shFmt md = 0 then (toFp32 x).toNat else (toBf16 x).toNat

/-- A tile of FP32 or BF16 elements that lies within its 4,096 bytes. -/
def PlainTile (md : BitVec 32) : Prop :=
  (shFmt md = 0 ∧ shBytes md % 4 = 0 ∨ shFmt md = 1 ∧ shBytes md % 2 = 0) ∧ shRows md * shBytes md ≤ 4096

/-- R338, R345: MCVT to a wide tile and MEW, as the tile they write and its exact elements. -/
def elementRow (o : VmuOp) (t : Thread) : Option (Nat × (Nat → Nat → XVal)) :=
  match o.ins with
  | .mcvt d a => some (d.toNat, fun r j => o.elem t a.toNat r j)
  | .mew d a b q => some (d.toNat, fun r j => mewOp q (o.elem t a.toNat r j) (o.elem t b.toNat r j))
  | _ => none

/-! ### Memory accesses -/

/-- Nothing of the thread is in flight, and the next identity is in use by no access. -/
def Quiet (s : State) (t : Thread) : Prop := ∀ a ∈ s.net.accs, a.tid ≠ t.tid ∧ a.id ≠ s.fresh

/-- An access about to issue: the registers named, whether it is marked, its device address, its pieces, what its end does, and the
register that is due. -/
structure AccRow where
  names  : Names
  marked : Bool
  da     : Nat
  pieces : List Piece
  cont   : Cont
  dst    : List (RegKind × Nat)

/-- A scalar or vector load of `size` bytes whose checks pass (R201, R296, R299). -/
def loadForm (s : State) (t : Thread) (size : Nat) (k : SpKind) (a : BitVec 5) (g : BitVec 3) (x : BitVec 1) (o : BitVec 10) (w : Names)
    (cont : Cont) (dst : RegKind × Nat) : Option AccRow :=
  match s.checkAccess t s.cur.core g.toNat (t.gr a.toNat + o.signExtend 64 * BitVec.ofNat 64 size) size size .load k with
  | .ok da => some ⟨{ w with gR := [a.toNat] }, x == 1, da, [{ da := da, n := size, off := 0, st := .todo }], cont, [dst]⟩
  | .error _ => none

def loadRow (s : State) (t : Thread) : Instr → Option AccRow
  | .ldb d a g x o => loadForm s t 1 .ld a g x o { gW := [d.toNat] } (.gen d.toNat 1 true) (.g, d.toNat)
  | .ldh d a g x o => loadForm s t 2 .ld a g x o { gW := [d.toNat] } (.gen d.toNat 2 true) (.g, d.toNat)
  | .ldw d a g x o => loadForm s t 4 .ld a g x o { gW := [d.toNat] } (.gen d.toNat 4 true) (.g, d.toNat)
  | .ldd d a g x o => loadForm s t 8 .ld a g x o { gW := [d.toNat] } (.gen d.toNat 8 true) (.g, d.toNat)
  | .ldbz d a g x o => loadForm s t 1 .ld a g x o { gW := [d.toNat] } (.gen d.toNat 1 false) (.g, d.toNat)
  | .ldhz d a g x o => loadForm s t 2 .ld a g x o { gW := [d.toNat] } (.gen d.toNat 2 false) (.g, d.toNat)
  | .ldwz d a g x o => loadForm s t 4 .ld a g x o { gW := [d.toNat] } (.gen d.toNat 4 false) (.g, d.toNat)
  | .vld d a g x o => loadForm s t 64 .vld a g x o { vW := [d.toNat] } (.vec d.toNat) (.v, d.toNat)
  | .ldn d a g x p o =>
    let f := t.fmw p.toNat
    match narrowCheck s t p.toNat g.toNat (t.gr a.toNat + o.signExtend 64 * 64) .ldn .vld with
    | .ok (da, b) => some ⟨{ gR := [a.toNat], vW := [d.toNat] }, x == 1, da,
        linePieces 3 da (2 * (Fmt.ofWord f).width) 0 ++ scalePieces (t.scw p.toNat) b.toList, .ldn d.toNat f b, [(.v, d.toNat)]⟩
    | .error _ => none
  | _ => none

/-- A store whose checks pass: its row, and the bytes it stores (R297, R299, R301). -/
def storeRow (s : State) (t : Thread) : Instr → Option (AccRow × Nat × Nat)
  | .stb d a g x o => form 1 .st d.toNat a g x o
  | .sth d a g x o => form 2 .st d.toNat a g x o
  | .stw d a g x o => form 4 .st d.toNat a g x o
  | .std d a g x o => form 8 .st d.toNat a g x o
  | .vst d a g x o =>
    match s.checkAccess t s.cur.core g.toNat (t.gr a.toNat + o.signExtend 64 * 64) 64 64 .store .vst with
    | .ok da => some (⟨{ gR := [a.toNat], vR := [d.toNat] }, x == 1, da, linePieces 3 da 64 0, .store, []⟩, 64, (t.vr d.toNat).toNat)
    | .error _ => none
  | .stn d a g x p o =>
    let f := t.fmw p.toNat
    let n := 2 * (Fmt.ofWord f).width
    match narrowCheck s t p.toNat g.toNat (t.gr a.toNat + o.signExtend 64 * 64) .stn .stn with
    | .ok (da, none) => some (⟨{ gR := [a.toNat], vR := [d.toNat] }, x == 1, da, linePieces 3 da n 0, .store, []⟩, n,
        stnCodes f (t.vr d.toNat) unitScale)
    | _ => none
  | _ => none
where
  form (size : Nat) (k : SpKind) (d : Nat) (a : BitVec 5) (g : BitVec 3) (x : BitVec 1) (o : BitVec 10) : Option (AccRow × Nat × Nat) :=
    match s.checkAccess t s.cur.core g.toNat (t.gr a.toNat + o.signExtend 64 * BitVec.ofNat 64 size) size size .store k with
    | .ok da => some (⟨{ gR := [a.toNat, d] }, x == 1, da, linePieces 3 da size 0, .store, []⟩, size, (t.gr d).toNat)
    | .error _ => none

/-- An atomic whose checks pass: its row and its operation (R304-R309). -/
def atomicRow (s : State) (t : Thread) : Instr → Option (AccRow × MemOp)
  | .aadd d a b w g => amo .add d a b w g
  | .aand d a b w g => amo .and d a b w g
  | .aor d a b w g => amo .or d a b w g
  | .axor d a b w g => amo .xor d a b w g
  | .amax d a b w g => amo .max d a b w g
  | .amin d a b w g => amo .min d a b w g
  | .amaxu d a b w g => amo .maxu d a b w g
  | .aminu d a b w g => amo .minu d a b w g
  | .aswap d a b w g => amo .swap d a b w g
  | .acas d a b w g =>
    form d a [b.toNat, d.toNat] g (if w = 1 then 8 else 4) (.cas (if w = 1 then 8 else 4) (t.gr d.toNat) (t.gr b.toNat)) true
  | .aaddf d a b g => form d a [b.toNat] g 4 (.fadd ((t.gr b.toNat).setWidth 32)) false
  | _ => none
where
  form (d a : BitVec 5) (more : List Nat) (g : BitVec 3) (n : Nat) (op : MemOp) (sg : Bool) : Option (AccRow × MemOp) :=
    match s.checkAccess t s.cur.core g.toNat (t.gr a.toNat) n n .amo .amo with
    | .ok da => some (⟨{ gR := a.toNat :: more, gW := [d.toNat] }, false, da, [{ da := da, n := n, off := 0, st := .todo }],
        .amo d.toNat n sg, []⟩, op)
    | .error _ => none
  amo (op : AmoOp) (d a b : BitVec 5) (w : BitVec 1) (g : BitVec 3) : Option (AccRow × MemOp) :=
    form d a [b.toNat] g (if w = 1 then 8 else 4) (.amo op (if w = 1 then 8 else 4) (t.gr b.toNat)) true

/-- The access is in flight: every piece sent, with a request of its own, for the thread and register it is for. -/
def InFlight (s s' : State) (t : Thread) (r : AccRow) (kind : AccKind) (op : Option MemOp) (a : Access) : Prop :=
  s'.acc a.id = some a ∧ a.core = s.cur.core ∧ a.slot = s.cur.slot ∧ a.tid = t.tid ∧ a.part = t.part ∧ a.kind = kind ∧ a.marked = r.marked ∧
    a.op = op ∧ a.pieces = r.pieces.map (fun x => { x with st := .sent }) ∧ a.cont = r.cont ∧ a.pc = t.pc ∧ a.word = s.cur.word ∧
    a.held = none ∧ a.failed = none ∧
    ∀ i < r.pieces.length, ∃ q ∈ s'.net.reqs, q.acc = a.id ∧ q.piece = i ∧ q.core = s.cur.core ∧ q.slot = s.cur.slot

/-- Nothing but cores, meters, the port of a cluster and what is in flight has changed; no other thread, and no byte of storage. -/
def FlightOnly (s s' : State) : Prop :=
  s' = { s with cores := s'.cores, parts := s'.parts, cur := s'.cur, fresh := s'.fresh, net := s'.net, clusters := s'.clusters } ∧
    (∀ c k, ¬(c = s.cur.core ∧ k = s.cur.slot) → s'.thread c k = s.thread c k) ∧ ∀ k a, s'.readByte k a = s.readByte k a

/-- The thread, as it issued last, is on its way to core `c`, where it goes on at the instruction that moved it (R192). -/
def Boarded (s' : State) (t : Thread) (c : Nat) : Prop :=
  ∃ m ∈ s'.net.msgs, m.target = c ∧ m.part = t.part ∧ ∃ u, m.body = .thread u ∧ u.pc = t.pc ∧ u.tid = t.tid ∧ u.g = t.g ∧ u.resv = none

/-- No piece lies in the private alias or the Col mirror, and each resolves. -/
def Reaches (s : State) (t : Thread) (r : AccRow) (need : Need) (op : Piece → MemOp) : Prop :=
  r.da / 2 ^ 48 ≠ 3 ∧ r.da / 2 ^ 48 ≠ 5 ∧ r.da / 2 ^ 48 ≠ 14 ∧
    ∀ x ∈ r.pieces, x.isLocal = false ∧ ∃ y, Hits s s.cur.core t.part need (op x) x.da y

/-- A value of `n` bytes as a general register holds it (R296). -/
def extended (n : Nat) (sg : Bool) (v : Word) : Word := if sg then signLow (8 * n) v else (v.setWidth (8 * n)).setWidth 64

/-- What a core reads of its own die: near buffer over banks in space 0x5 (R204), its die's Col copy in space 0x3 (R32). -/
def ownBytes (s : State) (da n : Nat) : List Byte :=
  if da / 2 ^ 48 = 5 then s.aliasRead s.cur.core (da % 2 ^ 20) n else s.colRead s.cur.core (da % 2 ^ 20) n

/-- The number `bs` has come into the register that a load names, which is full. -/
def Loaded (t' : Thread) (bs : Nat) : Cont → Prop
  | .gen d n sg => d ≠ 0 → t'.gr d = extended n sg (BitVec.ofNat 64 bs) ∧ t'.gEmpty.getLsbD d = false
  | .vec d => t'.vr d = BitVec.ofNat 512 bs ∧ t'.vEmpty.getLsbD d = false
  | .ldn d f none => t'.vr d = ldnLanes f bs unitScale ∧ t'.vEmpty.getLsbD d = false
  | _ => False

/-- The register that a load names. -/
def loadDst : Cont → Option (RegKind × Nat)
  | .gen d _ _ => some (.g, d)
  | .vec d => some (.v, d)
  | .ldn d _ none => some (.v, d)
  | _ => none

/-- Every other register of a thread is as before. -/
def OthersKept (t t' : Thread) (dst : RegKind × Nat) : Prop :=
  (∀ n, (.g, n) ≠ dst → t'.gr n = t.gr n ∧ t'.gEmpty.getLsbD n = t.gEmpty.getLsbD n) ∧
    ∀ n, (.v, n) ≠ dst → t'.vr n = t.vr n ∧ t'.vEmpty.getLsbD n = t.vEmpty.getLsbD n

/-- The pieces of a store, as entries of the near buffer: offset, bytes, value. -/
def nearItems (r : AccRow) (v : Nat) : List (Nat × Nat × Nat) :=
  r.pieces.map fun x => (x.da % 2 ^ 20, x.n, v / 2 ^ (8 * x.off) % 2 ^ (8 * x.n))

/-- An alias store has entered its core's near buffer (R204): the alias reads it, no byte of the banks has changed, and no thread but by
the reservation that it loses (R235). -/
def NearEntered (s s' : State) (r : AccRow) (v n : Nat) : Prop :=
  let c := s.cur.core
  (s'.core c).near.map (fun e => (e.off, e.n, e.val.toNat)) = (s.core c).near.map (fun e => (e.off, e.n, e.val.toNat)) ++ nearItems r v ∧
    leNat (s'.aliasRead c (r.da % 2 ^ 20) n) = v % 2 ^ (8 * n) ∧ s'.net = s.net ∧ (∀ k a, s'.readByte k a = s.readByte k a) ∧
    (∀ d k, ¬(d = c ∧ k = s.cur.slot) → ∀ u, s.thread d k = some u → ∃ u', s'.thread d k = some u' ∧ u' = { u with resv := u'.resv }) ∧
    s' = { s with cores := s'.cores, parts := s'.parts, cur := s'.cur, fresh := s'.fresh, md := { s.md with benchLr := s'.md.benchLr } }

/-- A Col write of the current thread, as it enters its pair's queue (R28). -/
def ColItem (s : State) (t : Thread) (da n v : Nat) (w : ColWrite) : Prop :=
  w.part = t.part ∧ w.layer = layerOf s.cur.core % 8 ∧ w.tid = t.tid ∧ w.off = da % 2 ^ 20 ∧ w.n = n ∧
    w.val.toNat % 2 ^ (8 * n) = v % 2 ^ (8 * n)

/-- A narrow store whose scale is read first (R301, R302): its row, the device address and bytes of its elements, its format and its scale. -/
def scaledRow (s : State) (t : Thread) : Instr → Option (AccRow × Nat × BitVec 32 × Nat)
  | .stn d a g x p o =>
    let f := t.fmw p.toNat
    match narrowCheck s t p.toNat g.toNat (t.gr a.toNat + o.signExtend 64 * 64) .stn .stn with
    | .ok (da, some b) => some (⟨{ gR := [a.toNat], vR := [d.toNat] }, x == 1, scaleDa (t.scw p.toNat) b,
        scalePieces (t.scw p.toNat) [b], .stn da f (some b) (t.vr d.toNat), []⟩, da, f, b)
    | _ => none
  | _ => none

/-- R306, R307: what an atomic leaves at its word, of `8w` bits. -/
def atomicNew (w : Nat) (old : BitVec w) : MemOp → BitVec w
  | .amo .add _ b => old + b.setWidth w
  | .amo .and _ b => old &&& b.setWidth w
  | .amo .or _ b => old ||| b.setWidth w
  | .amo .xor _ b => old ^^^ b.setWidth w
  | .amo .max _ b => if old.toInt < (b.setWidth w).toInt then b.setWidth w else old
  | .amo .min _ b => if (b.setWidth w).toInt < old.toInt then b.setWidth w else old
  | .amo .maxu _ b => if old.toNat < (b.setWidth w).toNat then b.setWidth w else old
  | .amo .minu _ b => if (b.setWidth w).toNat < old.toNat then b.setWidth w else old
  | .amo .swap _ b => b.setWidth w
  | .cas _ cmp new => if old = cmp.setWidth w then new.setWidth w else old
  | _ => old

/-- The `n` bytes at `a`, as key `k` reads them, as a number. -/
def at_ (s : State) (k a n : Nat) : Nat := s.readLE k a n

/-- The operation of a cluster that a home of this module outside the SRAM layer serves next: partitions take turns at its ingress (R49),
and the operations of one are served in order of arrival (R226), in a scratchpad at each bank (R203, R223); it may be performed now. -/
structure Performable (s : State) (h : Header) : Prop where
  next   : s.nextAt s.env.home = some h
  src    : h.src = .cluster
  inside : isHbm h.loc = true ∨ isSpad h.loc = true ∨ isEdram h.loc = true
  home   : ∀ q, s.env.home ≠ .egress q
  host   : s.env.home ≠ .host
  live   : h.expired s = false
  rest   : s.refreshing s.env.home = false
  good   : s.env.bad = false
  awake  : s.homeLive s.env.home = true

/-- The operation has been performed: it has left the queue, its pieces are marked, and its reply travels back. -/
def Performed (s s' : State) (h : Header) (val : Vec) : Prop :=
  s'.net.homeQ = s.net.homeQ.filter (·.id != h.id) ∧ s'.net.replies = s.net.replies ++ [{ id := h.id, status := .ok, val := val }]

/-- The reply of request `id`, which carries piece `p` of access `a`, is at its requester's port. -/
structure Replied (s : State) (id : Nat) (r : Req) (x : Reply) (a : Access) (p : Piece) (t : Thread) : Prop where
  unit    : s.env.unit = id
  req     : s.net.reqs.find? (·.id == id) = some r ∧ r.acc = a.id ∧ ∀ q ∈ s.net.reqs, q.id = id → q = r
  reply   : s.net.replies.find? (·.id == id) = some x ∧ x.status = .ok
  acc     : s.acc a.id = some a ∧ (∀ b ∈ s.net.accs, b.id = a.id → b = a) ∧ a.held = none ∧ a.failed = none ∧ a.nform = false
  piece   : a.pieces[r.piece]? = some p ∧ p.n ≠ 0
  outside : (∀ h ∈ s.net.hostOut, h.id ≠ id) ∧ (∀ o ∈ s.by_.out, o.req ≠ id) ∧ ∀ m ∈ s.net.msgs, m.id ≠ id
  thread  : s.thread a.core a.slot = some t ∧ t.tid = a.tid

/-- Every other piece of the access is back. -/
def LastPiece (r : Req) (a : Access) : Prop := ∀ i y, a.pieces[i]? = some y → i ≠ r.piece → y.st = .done

/-- The request and its reply are over, and no byte of storage has changed. -/
def Answered (s s' : State) (id : Nat) : Prop :=
  s'.net.reqs = s.net.reqs.filter (·.id != id) ∧ s'.net.replies = s.net.replies.filter (·.id != id) ∧ ∀ k b, s'.readByte k b = s.readByte k b

/-- The access is over and every other stands as before; its thread, unless the access was marked, goes on at the next word. -/
def AccessEnded (s s' : State) (id : Nat) (a : Access) (t t' : Thread) : Prop :=
  s'.net.accs = s.net.accs.filter (·.id != a.id) ∧ Answered s s' id ∧
    if a.marked then t'.pc = t.pc else t'.pc = t.pc + 4 ∧ t'.avail = .rotation ∧ t'.from_ = Nat.max t.from_ (s.now + 1)

/-- As `Replied`, of a marked access, but the reply is a failure. -/
structure ReplyFails (s : State) (id : Nat) (r : Req) (x : Reply) (a : Access) (p : Piece) (t : Thread) : Prop where
  unit    : s.env.unit = id
  req     : s.net.reqs.find? (·.id == id) = some r ∧ r.acc = a.id ∧ ∀ q ∈ s.net.reqs, q.id = id → q = r
  reply   : s.net.replies.find? (·.id == id) = some x ∧ x.status ≠ .ok
  acc     : s.acc a.id = some a ∧ (∀ b ∈ s.net.accs, b.id = a.id → b = a) ∧ a.held = none ∧ a.failed = none ∧ a.nform = false ∧ a.marked = true
  piece   : a.pieces[r.piece]? = some p ∧ p.n ≠ 0
  outside : (∀ h ∈ s.net.hostOut, h.id ≠ id) ∧ (∀ o ∈ s.by_.out, o.req ≠ id) ∧ ∀ m ∈ s.net.msgs, m.id ≠ id
  thread  : s.thread a.core a.slot = some t ∧ t.tid = a.tid

/-- The report of a failed access of the thread, of its piece `p`, is due at its next issue (R413). -/
def FailureDue (t t' : Thread) (a : Access) (p : Piece) (st : Status) : Prop :=
  t'.reports = t.reports ++ [{ cause := (failReport st).1, g1 := BitVec.ofNat 64 p.da, g2 := BitVec.ofNat 64 (failReport st).2, g4 := a.pc, g5 := a.word }]

/-- The request of the access is for a piece that is not performed yet. -/
def Unmade (a : Access) (q : Req) : Prop := q.acc = a.id ∧ ∃ y, a.pieces[q.piece]? = some y ∧ y.st = .sent

/-- The bytes that an access has once the value `v` of its piece `p` has come. -/
def bytesIn (a : Access) (p : Piece) (v : Vec) : Sparse Byte := putBuf a.buf p.off (bytesOf p.n v)

/-! ### Messages, threads, barriers, engines and reaction forms -/

/-- The current slot's thread and, of the other cores and slots, only the record of the current core (by `k`) may have changed, and no
byte of storage. -/
structure Kept (s s' : State) (k : Core → Core) : Prop where
  cur   : s'.cur = { s.cur with used := true }
  core  : ∀ c, s'.core c = { (if c = s.cur.core then k (s.core c) else s.core c) with slots := (s'.core c).slots }
  slots : ∀ c j, ¬(c = s.cur.core ∧ j = s.cur.slot) → s'.thread c j = s.thread c j
  bytes : ∀ k a, s'.readByte k a = s.readByte k a

/-- The attempt retires: the thread goes on at the next word, and is what `ok` says. -/
def Retires (i : Instr) (s : State) (t : Thread) (ok : State → Thread → Prop) : Prop :=
  ∃ s' t', exec i s = .next s' ∧ s'.mine = some t' ∧ Onward s t t' (t.pc + 4) ∧ ok s' t'

/-- The next identity is in use by nothing on its way, and no message stands among the headers of requests in the ports. -/
def Fresh (s : State) : Prop :=
  (∀ m ∈ s.net.msgs, m.id ≠ s.fresh) ∧ (∀ h ∈ s.net.port, h.id ≠ s.fresh ∧ h.src ≠ .msg) ∧ ∀ k ∈ s.net.tickets, k.id ≠ s.fresh

/-- R367, R368: whether the descriptor is well formed, the registers that SEND and FILL name and send, the core address, and the message. -/
def messageRow (t : Thread) : Instr → Option (Bool × Names × Names × Word × MsgBody)
  | .send d a b =>
    let w := t.gr b.toNat
    let u := sendRegs d.toNat w
    some (sendOk t d.toNat w, { gR := [a.toNat, b.toNat], gN := [d.toNat] }, u, t.gr a.toNat,
      .table (w.toNat % 256) (u.gR.map t.gr) (u.vR.map t.vr))
  | .fill d a b q =>
    let w := t.gr b.toNat
    let reg := w.toNat / 2 ^ 48 % 32
    let ok : Bool := !w.getLsbD 47 && w.toNat / 2 ^ 53 == 0 && (q != 1 || reg < 16) && (q != 3 || reg < 8)
    some (ok, if q = 1 then { gR := [a.toNat, b.toNat], vR := [d.toNat] } else { gR := [d.toNat, a.toNat, b.toNat] }, {}, t.gr a.toNat,
      .fill (w.toNat % 16) (BitVec.ofNat 64 (w.toNat / 16 % 2 ^ 43)) (if q = 1 then .v else if q = 3 then .c else .g) reg
        (if q = 1 then t.vr d.toNat else (t.gr d.toNat).setWidth 512))
  | _ => none

/-- One message of `t` has joined those in flight, as a release: it leaves once what `t` has outstanding is performed (R230), and with a
permit, which it has at once where it waits for nothing and the pair has one to give (R47), as in every attempt of a cycle; of the other
messages it changes permits alone. -/
def Sent (s s' : State) (t : Thread) (target : Nat) (away : Option (Nat × BitVec 22 × Option Nat)) (body : MsgBody) : Prop :=
  let r := s.releaseOf s.cur.core t.tid
  let cl := permitPort s.cur.core
  s'.net.msgs.length = s.net.msgs.length + 1 ∧ (∀ x ∈ s.net.msgs, ∃ y ∈ s'.net.msgs, y = { x with permit := y.permit }) ∧
    ∃ m ∈ s'.net.msgs, m.id = s.fresh ∧ m.part = t.part ∧ m.from_ = some t.tid ∧ m.via = some cl ∧ m.target = target ∧ m.away = away ∧
      m.body = body ∧ m.rel = (if r.idle then none else some r) ∧
      (r.idle = true → s.eventsRun = false → s.permitsHeld cl m.slice < 4 → s.permitWaiters cl m.slice = [] → m.permit = true)

/-- The thread has left its slot in a message to another core, with `u` what arrives there. -/
def Carried (s s' : State) (t : Thread) (target : Nat) (ok : Thread → Prop) : Prop :=
  s'.mine = none ∧ (∃ m ∈ s'.net.msgs, m.target = target ∧ m.part = t.part ∧ ∃ u, m.body = .thread u ∧ u.pc = t.pc + 4 ∧
      u.gcnt = (if t.gcnt = 0 then 0 else t.gcnt - 1) ∧ ok u) ∧
    (∀ c k, ¬(c = s.cur.core ∧ k = s.cur.slot) → s'.thread c k = s.thread c k) ∧ ∀ k a, s'.readByte k a = s.readByte k a

/-- The thread is a member of group `g` of its active launch `l`, as unit `w`, and its last arrival's phase has released. -/
structure Joins (s : State) (t : Thread) (l : Launch) (g w : Nat) : Prop where
  launch : s.launchOf t = some l
  group  : l.glist.contains g = true
  unit   : s.memberUnit t l g = some w
  open_  : ((s.aux t.part).member l.id g w).made ≤ (s.aux t.part).releasedPhases l.id g

/-- An arrival of the member, as a release; its record notes the arrival. -/
def Arrived (s s' : State) (t : Thread) (l g w : Nat) (fuzzy : Bool) : Prop :=
  let m := (s.aux t.part).member l g w
  (s'.aux t.part).arrivals = (s.aux t.part).arrivals ++
      [{ launch := l, group := g, unit := w, tid := t.tid, rel := s.releaseOf s.cur.core t.tid }] ∧
    (s'.aux t.part).member l g w = { m with made := m.made + 1, fuzzy := if fuzzy then some m.made else m.fuzzy } ∧
    (s'.aux t.part).phases = (s.aux t.part).phases

/-- Nothing keeps an engine push waiting: what `fence.sys` asks for holds (R375). -/
def PushFree (s : State) (t : Thread) : Prop :=
  s.rxDone t.tid = true ∧ s.sysDone t.tid = true ∧ s.drained t.tid (s.fenceMark t) = true

/-- A token transfer is on its way to the slice that its key and kind choose, and the thread waits for it (R147, R148): it waits in the port of
the thread's core or has its permit and has left; a body's product index has gone up. -/
def Emitted (i : Instr) (s : State) (t : Thread) (v : Vec) (init noid : Bool) (ident : Nat) : Prop :=
  let tok := emitted v t.part init noid ident
  let k := homeSlice (tokWord tok 1) (tokKind tok) (s.sliceCount t.part)
  ∃ s' t', exec i s = .next s' ∧ s'.mine = some t' ∧ t' = { t.like t' with region := none, resv := none } ∧ t'.pc = t.pc ∧
    t'.gcnt = t.gcnt ∧ t'.avail = .memory ∧ (s'.aux t.part).sent = (s.aux t.part).sent + 1 ∧
    (∃ h r, (h ∈ s'.net.port ∨ ∃ q ∈ s'.net.packets, q.hdr = h) ∧ h.src = .token k t.tid ∧ h.op = .write 64 tok ∧ h.part = t.part ∧
      r ∈ s'.net.reqs ∧ r.id = h.id ∧ r.core = s.cur.core ∧ r.slot = s.cur.slot ∧ r.slice = .spad (s.sliceCore t.part k)) ∧
    (∀ j o n u, (s.life t.tid).body = some (j, o, n, u) → (s'.life t.tid).body = some (j, o, n + 1, u)) ∧
    s' = { s with cores := s'.cores, parts := s'.parts, auxs := s'.auxs, lives := s'.lives, net := s'.net, cur := s'.cur, fresh := s'.fresh,
                  clusters := s'.clusters } ∧
    Kept s s' id

/-- What emission asks of the machine: slices, no unperformed access, and an identity for its transfer. -/
def MayEmit (s : State) (t : Thread) (v : Vec) : Prop :=
  v.getLsbD 22 = false ∧ v.getLsbD 23 = false ∧ 0 < s.sliceCount t.part ∧ s.unperformed t.tid = false ∧ Fresh s

/-- The slice at which a form that acts on the run or its rules is served: slice 0, where there is one (DESIGN CHOICE, log entry 18). -/
def runSlice (s : State) (t : Thread) : Option Nat := if s.sliceCount t.part = 0 then none else some 0

/-- A reaction form: when it acts, the registers it names, the slice that it accesses, what it makes of the partition's run and slices, and
the thread after it. -/
structure RxnRow where
  cond  : Prop
  names : Names
  slice : Option Nat
  aux   : PartAux → PartAux
  ok    : Thread → Prop

def rxnRow (s : State) (t : Thread) : Instr → Option RxnRow
  | .tpeek d a b =>
    let w := t.gr b.toNat
    some ⟨selectOk w (s.sliceCount t.part) = true, { gR := [a.toNat, b.toNat], vW := [d.toNat] },
      some (s.namedSlice t.part (t.gr a.toNat) w), id, fun t' =>
      t' = { t.like t' with v := t'.v, vEmpty := t'.vEmpty, resv := none } ∧ t'.vEmpty.getLsbD d.toNat = false ∧
        (∀ n, n ≠ d.toNat → t'.vr n = t.vr n ∧ t'.vEmpty.getLsbD n = t.vEmpty.getLsbD n) ∧
        t'.vr d.toNat = match (s.findToken t.part (t.gr a.toNat) w).2 with
          | some k => k.word
          | none => BitVec.allOnes 512⟩
  | .tgrab d a b =>
    let w := t.gr b.toNat
    let f := s.findToken t.part (t.gr a.toNat) w
    some ⟨selectOk w (s.sliceCount t.part) = true, { gR := [a.toNat, b.toNat], vW := [d.toNat] }, some f.1, fun x => match f.2 with
        | some k => x.modSlice f.1 fun y => { y with tokens := y.tokens.erase k }
        | none => x,
      fun t' => t' = { t.like t' with v := t'.v, vEmpty := t'.vEmpty, resv := none, region := none } ∧ t'.vEmpty.getLsbD d.toNat = false ∧
        (∀ n, n ≠ d.toNat → t'.vr n = t.vr n ∧ t'.vEmpty.getLsbD n = t.vEmpty.getLsbD n) ∧
        t'.vr d.toNat = match f.2 with
          | some k => k.word
          | none => BitVec.allOnes 512⟩
  | .rulew a b =>
    let i := (t.gr a.toNat).toNat
    let r := t.vr b.toNat
    some ⟨i < 256 ∧ (ruleV r = true → ruleOk r = true) ∧ (s.aux t.part).run.st ≠ .running ∧ (s.aux t.part).run.st ≠ .stopped,
      { gR := [a.toNat], vR := [b.toNat] }, runSlice s t, fun x => { x with rules := Sparse.put 0 x.rules i (if ruleV r then r else 0) },
      fun t' => t' = { t.like t' with resv := none, region := none }⟩
  | .rhalt =>
    some ⟨(s.aux t.part).run.st ≠ .running ∧ (s.aux t.part).run.st ≠ .stopped, {}, runSlice s t, id,
      fun t' => t' = { t.like t' with resv := none, region := none }⟩
  | .rstat d a =>
    let w := (t.gr a.toNat).toNat
    let i := w / 2 ^ 16 % 2 ^ 12
    let x := (s.aux t.part).slice i
    some ⟨w % 2 ^ 16 ≤ 6 ∧ w < 2 ^ 28 ∧ (2 ≤ w % 16 → i < s.sliceCount t.part), { gR := [a.toNat], gW := [d.toNat] },
      if w % 16 < 2 then runSlice s t else some i, id, fun t' =>
      t' = { t.like t' with g := t'.g, gEmpty := t'.gEmpty, resv := none } ∧ GotG t t' d.toNat (fun v => match w % 16 with
        | 0 => v = BitVec.ofNat 64 (s.aux t.part).run.picked
        | 1 => v = match (s.aux t.part).run.left with
          | some b => BitVec.ofNat 64 b
          | none => BitVec.allOnes 64
        | 2 => v = BitVec.ofNat 64 x.tokens.length
        | 3 => v = BitVec.ofNat 64 x.inbox.length
        | 4 => v = BitVec.ofNat 64 x.rho
        | 5 => v = BitVec.ofNat 64 x.ordinal
        | _ => v = BitVec.ofNat 64 (match x.cur with
          | some c => c.used
          | none => 0))⟩
  | .rbudg a =>
    let w := t.gr a.toNat
    let b := if w = 0 then none else some w.toNat
    some ⟨w.toNat < 2 ^ 40 ∧ (s.aux t.part).run.st ≠ .stopped, { gR := [a.toNat] }, runSlice s t,
      fun x => { x with run := if x.run.st = .running then { x.run with left := b } else { x.run with armed := b } },
      fun t' => t' = { t.like t' with resv := none, region := none }⟩
  | .rlogm a b =>
    let w := (t.gr a.toNat).toNat
    let base := (t.gr b.toNat).toNat
    let l : Log := { base := base, len := w / 2 ^ 16 % 2 ^ 24 + 1, used := 0 }
    some ⟨w % 2 ^ 16 < s.sliceCount t.part ∧ w % 2 ^ 16 < 4096 ∧ w < 2 ^ 40 ∧ base % 32 = 0 ∧ base < 2 ^ 48, { gR := [a.toNat, b.toNat] },
      some (w % 2 ^ 16), fun x => x.modSlice (w % 2 ^ 16) fun y =>
        if y.logStop then { y with cur := some l, headRec := none, logStop := false, due := true }
        else if x.run.st = .running ∨ x.run.st = .stopped then
          match y.cur with
          | some c =>
            if c.used < c.len then { y with nxt := some l }
            else { y with cur := some l, nxt := none, due := y.due || x.run.mode == 2 }
          | none => { y with nxt := some l, due := y.due || x.run.mode == 2 }
        else { y with cur := some l, headRec := none },
      fun t' => t' = { t.like t' with resv := none, region := none }⟩
  | .stabq d =>
    some ⟨True, { gW := [d.toNat] }, runSlice s t, id, fun t' =>
      t' = { t.like t' with g := t'.g, gEmpty := t'.gEmpty, resv := none } ∧ GotG t t' d.toNat (· = (s.aux t.part).run.word)⟩
  | _ => none

/-- A reaction form that is served at slice `slice` acts as `acts` says once its access has had its turn there, and waits in memory until then
(R355); with no slice it acts at once. -/
def ServedAt (i : Instr) (s : State) (t : Thread) (slice : Option Nat) (acts : State → Prop) : Prop :=
  (slice = none → acts s) ∧
    ∀ k, slice = some k →
      let key := Errand.slice s.cur.core s.cur.slot
      let ls := [(Home.spad (s.sliceCore t.part k), spadLoc (s.sliceCore t.part k) 0)]
      (s.turnsHad key ls = true → acts (s.dropTicket key)) ∧
        (s.turnsHad key ls = false → WaitsInMemory i s (s.askLines key s.cur.core t.part ls))

/-! ### Events -/

/-- The event completes in a state that `ok` describes, with every byte of storage as before. -/
def Happens (i : Instr) (s : State) (ok : State → Prop) : Prop := ∃ s', exec i s = .next s' ∧ ok s' ∧ ∀ k a, s'.readByte k a = s.readByte k a

/-- No message of this identity is on its way any more. -/
def Gone (s' : State) (m : Msg) : Prop := ∀ x ∈ s'.net.msgs, x.id ≠ m.id

/-- R312: what an N-form leaves at its word of `8w` bits. -/
def updateNew (w : Nat) (old : Nat) (v : Word) : NOp → Nat
  | .add => (BitVec.ofNat (8 * w) old + v.setWidth (8 * w)).toNat
  | .max => (if (BitVec.ofNat (8 * w) old).toInt < (v.setWidth (8 * w)).toInt then v.setWidth (8 * w) else BitVec.ofNat (8 * w) old).toNat
  | .min => (if (v.setWidth (8 * w)).toInt < (BitVec.ofNat (8 * w) old).toInt then v.setWidth (8 * w) else BitVec.ofNat (8 * w) old).toNat
  | .fadd => (toFp32 (Exact.add (ofFp32 (BitVec.ofNat 32 old)) (ofFp32 (v.setWidth 32)))).toNat

/-- One message of the machine's own unit `frm` has joined those that are to leave: from a unit that lies in no cluster it needs no permit
(R47). -/
def Tells (s s' : State) (frm : MsgFrom) (p target : Nat) (body : MsgBody) : Prop :=
  ∃ m : Msg, s'.net.msgs = s.net.msgs ++ [m] ∧ m.part = p ∧ m.frm = frm ∧ m.target = target ∧ m.body = body ∧ m.permit = m.src.isNone ∧
    m.away = none ∧ m.way = .port

/-- A report of `cause` joins the messages on their way: for the core itself, or from a channel core for the lowest core of the partition
(R195, R363). -/
def Reports (s s' : State) (p c : Nat) (ws : List Word) : Prop := Tells s s' .core p (if isChan c then (s.part p).base else c) (.table 6 ws [])

/-- A copy command as its unit takes it: nothing considered, nothing moved. -/
def taken (c : CopyCmd) : CopyRun :=
  { cmd := c, j := 0, k := 0, at_ := 0, byte := none, acc := none, stage := 0, leave := none, asked := false, failed := none }

/-- The first access of a command (R378, R379): its bitmap's first byte, or its first source piece, with no scale array. -/
def firstAccess (s : State) (c : CopyCmd) : Option (Nat × List Piece) :=
  if c.filt then
    match s.copyCheck c (Sparse.get 0 c.ctx.sg c.bseg) (BitVec.ofNat 64 c.bmoff) 1 false with
    | .ok da => some (1, onePiece da 1)
    | .error _ => none
  else if c.conv = 0 ∨ c.sc = 0 then
    match s.copyCheck c (Sparse.get 0 c.ctx.sg c.sseg) c.src (taken c).pieceLen false with
    | .ok da => some (2, linePieces 3 da (taken c).pieceLen 0)
    | .error _ => none
  else none

/-- An address that the copy unit of cluster `cl` reaches with the translations that it has. -/
def Steady (s : State) (cl p : Nat) (op : MemOp) (da : Nat) : Prop :=
  ∃ x, ∀ u : State, u = { s with cores := u.cores, net := u.net, fresh := u.fresh, clusters := u.clusters } →
    (∀ k, (u.cluster k).tlb = (s.cluster k).tlb) → u.renew (8 * cl) p da = u ∧ u.resolve (8 * cl) p .read op da = (.at_ x, u)

/-- Byte `i` of the register that a delivery names. -/
def delivByte (c : CopyCmd) (t : Thread) (i : Nat) : Byte :=
  if c.tile then (t.mr c.reg).extractLsb' (8 * i) 8 else (t.vr c.reg).extractLsb' (8 * i) 8

/-- The thread of a delivery is neither being written out nor read back. -/
def NotAway (s : State) (c : CopyCmd) : Prop := ∀ x ∈ s.net.spills, ¬(x.core = c.core ∧ x.slot = c.slot)

/-- The register of a delivery is full (`full`) or its full bit is as it was; a copy that its own thread made has then paid what was due. -/
def delivFull (c : CopyCmd) (t t' : Thread) (full : Bool) : Prop :=
  (∀ n, t'.vEmpty.getLsbD n = if full ∧ c.tile = false ∧ n = c.reg then false else t.vEmpty.getLsbD n) ∧
  (∀ n, t'.mEmpty.getLsbD n = if full ∧ c.tile = true ∧ n = c.reg then false else t.mEmpty.getLsbD n) ∧
  (∀ n, t'.vDue.getLsbD n = if full ∧ c.own = true ∧ c.tile = false ∧ n = c.reg then false else t.vDue.getLsbD n) ∧
  (∀ n, t'.mDue.getLsbD n = if full ∧ c.own = true ∧ c.tile = true ∧ n = c.reg then false else t.mDue.getLsbD n)

/-- What the end of a command with code `e` (0 for none) and INDEX makes of its core's record (R378, R380): the tag set and not busy, and an
element in the error queue; a full queue drops it, and the next that enters says so (log entry 44, DEDUCED). -/
def EndsWith (c : CopyCmd) (e index : Nat) (k k' : Core) : Prop :=
  k' = { k with busy := k.busy &&& ~~~(1#64 <<< c.tag), tagr := k.tagr ||| (1#64 <<< c.tag), errQ := k'.errQ, errLost := k'.errLost,
                slots := k'.slots } ∧
  (e = 0 → k'.errQ = k.errQ ∧ k'.errLost = k.errLost) ∧
  (e ≠ 0 → k.errQ.length < 8 → k'.errLost = false ∧ ∃ w : Word, k'.errQ = k.errQ ++ [w] ∧ (e < 256 →
    w.toNat % 64 = c.tag ∧ w.getLsbD 7 = k.errLost ∧ w.toNat / 256 % 256 = e ∧ w.toNat / 2 ^ 16 = index % 2 ^ 40)) ∧
  (e ≠ 0 → 8 ≤ k.errQ.length → k'.errQ = k.errQ ∧ k'.errLost = true)


/-- A change of the module's record that MSTAT shows raises the module interrupt, and one that it does not show raises none (R22). -/
def StatChange (s s' : State) : Prop :=
  s' = { s with md := s'.md, msix := s'.msix, aplic := s'.aplic, layers := s'.layers } ∧
    (if s'.md.mstat = s.md.mstat then s'.msix = s.msix ∧ s'.aplic = s.aplic else s'.msix = s.msix ++ [0] ∧ s'.aplic = s.aplic ++ [257])

/-- Nothing but what leaves the module changes: the answer is `x`. -/
def Answers (i : Instr) (s : State) (x : Ext) : Prop := exec i s = .next { s with ext := x }

/-- One event changes one layer's governor alone. -/
def LayerOnly (s s' : State) (l : Nat) : Prop := s' = { s with layers := s'.layers } ∧ ∀ k, k ≠ l → s'.layer k = s.layer k

/-- One event changes one tower's Col alone. -/
def TowerOnly (s s' : State) (t : Nat) : Prop := s' = { s with towers := s'.towers } ∧ ∀ k, k ≠ t → s'.tower k = s.tower k

/-- The write's bytes stand in a die's copy, and every other byte is as before (R32). -/
def CopyHolds (s s' : State) (tower die : Nat) (w : ColWrite) : Prop :=
  ∀ a, s'.raw a = if colLoc tower die w.off ≤ a ∧ a < colLoc tower die w.off + w.n then w.val.extractLsb' (8 * (a - colLoc tower die w.off)) 8
    else s.raw a


/-- The bytes `v` of an access stand at `a`, and every other byte is as before. -/
def BytesAt (s s' : State) (a n : Nat) (v : Vec) : Prop :=
  ∀ b, s'.raw b = if a ≤ b ∧ b < a + n then v.extractLsb' (8 * (b - a)) 8 else s.raw b

/-- One event changes one Byand port alone. -/
def PortOnly (s s' : State) (q : Nat) (f : Port → Port) : Prop :=
  s'.port q = f (s.port q) ∧ (∀ k, k ≠ q → s'.port k = s.port k) ∧
    s' = { s with by_ := { s.by_ with ports := s'.by_.ports }, msix := s'.msix, aplic := s'.aplic }


/-- One event changes one partition's record alone. -/
def PartOnly (s s' : State) (p : Nat) : Prop := s' = { s with parts := s'.parts } ∧ ∀ q, q ≠ p → s'.part q = s.part q

/-- A write of PART(p) changes that partition's record alone; its HOSTIRQ bit is as written, and a page-fault line that is high then drives
the source that the new bit names (R79, R84, R220). -/
def PartWritten (s s' : State) (p : Nat) (x : Part) : Prop :=
  (∀ q, q ≠ p → s'.part q = s.part q) ∧ s'.part p = { x with hostirq := s.env.val.getLsbD 34 } ∧
    s' = { s with parts := s'.parts, msix := s'.msix, aplic := s'.aplic } ∧
    (s.env.val.getLsbD 34 = (s.part p).hostirq ∨ (s.aux p).fq = [] → s'.msix = s.msix ∧ s'.aplic = s.aplic) ∧
    (s.env.val.getLsbD 34 ≠ (s.part p).hostirq → (s.aux p).fq ≠ [] →
      if s.env.val.getLsbD 34 then s'.msix = s.msix ++ [1 + p] ∧ s'.aplic = s.aplic else s'.msix = s.msix ∧ s'.aplic = s.aplic ++ [258 + p])

/-- What a reset of partition `p` has done (R101): its compute cores hold nothing that runs, nothing of it is on its way, its threads are
gone, its scratchpads are zero and every other byte is as before; its meters, key, registers of place and epoch stand. -/
def PartReset (s s' : State) (p : Nat) : Prop :=
  let x := s.part p
  (∀ c, isChan c = false → x.owns c = true → (s'.core c).slots = [] ∧ (s'.core c).ready = [] ∧ (s'.core c).ibuf = [] ∧
      (s'.core c).vec = [] ∧ (s'.core c).c = [] ∧ (s'.core c).starts = (s.core c).starts) ∧
    (∀ m ∈ s'.net.msgs, m.part ≠ p) ∧ (∀ a ∈ s'.net.accs, a.part ≠ p) ∧ (∀ e ∈ s'.lives, e.2.part ≠ p) ∧
    (∀ a, s'.raw a = if spadLoc x.base 0 ≤ a ∧ a < spadLoc (x.base + x.len) 0 then 0 else s.raw a) ∧
    (s'.part p).base = x.base ∧ (s'.part p).len = x.len ∧ (s'.part p).epoch = x.epoch ∧ (s'.part p).meters = x.meters ∧
    (s'.part p).busy = true ∧ (s'.part p).lq = [] ∧ (s'.part p).cq = [] ∧ (s'.part p).launches = [] ∧ (s'.part p).tasks = [] ∧
    (s'.aux p).fq = [] ∧ (s'.aux p).slices = [] ∧ (s'.aux p).run.number = (s.aux p).run.number ∧ ∀ q, q ≠ p → s'.part q = s.part q


/-- R124: the level of waiting work of priority `prio` that waits since `since`: one for each full AGE period, up to effective priority 3, and
never one less than before. -/
def aged (s : State) (p : Nat) (prio : BitVec 2) (since lvl : Nat) : Nat :=
  let d := 1024 * ((s.schedWord p prio.toNat).toNat / 2 ^ 16)
  if d = 0 then lvl else Nat.max lvl (Nat.min ((s.now - since) / d) (3 - prio.toNat))

/-! ### The whole machine -/

/-- What a thread finds at its PC: the fetch passes, its line is in the instruction buffer, and the word there is `w` (R196, R266). -/
def Fetches (s : State) (c : Nat) (t : Thread) (w : IWord) : Prop :=
  ∃ da l, segCheck (t.seg 0) t.pc 4 4 .fetch = .ok da ∧ da < 2 ^ 48 ∧
    (s.core c).ibuf.find? (fun x => x.part == t.part && x.base == segBase (t.seg 0) && x.off == t.pc.toNat / 64 * 64) = some l ∧
    w = (l.bytes >>> (8 * (t.pc.toNat % 64))).setWidth 32

/-- What a step makes of the outcome of an attempt on core `c`: a cycle that has been used passes to the next core (R176). -/
def afterTry (c : Nat) : Host.Outcome State Fault Refusal → Host.Outcome State Fault Refusal
  | .next s => .next (if s.cur.used then { s with rotor := { core := c + 1, tried := 0 } } else s)
  | o => o


end Sys2Proof.Claims

open Sys2Proof.Claims

/-- R281, R282, R284-R287, R253, R254: every ALU form, MUL, MULH, MULHU, MULW, MAD, every BIT form, ADDI, ANDI, ORI, XORI, LIH, SLLI, SRLI,
SRAI, SLTI and SLTIU complete with their result in g[D], and change nothing else. -/
def Obligations.IntegerFormResults : Prop := RowResult aluRow ∧ RowResult bitRow ∧ RowResult immRow

/-- R283: DIV, DIVU, REM and REMU complete with quotient or remainder, for a divisor of zero and for the quotient that wraps too; the word
of the rule decodes to its instruction. -/
def Obligations.DivisionResults : Prop :=
  RowResult divRow ∧ decodeWord 0x252A5860 = .ok (.divu 9 10 11) ∧ decodeWord 0x24A63840 = .ok (.mad 5 6 7)

/-- R287: LIH writes its immediate into one lane of 16 bits of g[D], keeps the other three and completes; four of them make any value whatever
D held; its words decode, and one with a reserved bit set is refused. -/
def Obligations.LihWritesOneLane : Prop :=
  let set (k : Nat) (i : BitVec 16) (d v : Word) : Prop :=
    ∀ j < 64, v.getLsbD j = if 16 * k ≤ j ∧ j < 16 * k + 16 then i.getLsbD (j - 16 * k) else d.getLsbD j
  (∀ s t d k i, Ready s t { gR := [d.toNat], gW := [d.toNat] } →
    WritesG (.lih d k i) s t d.toNat (set k.toNat i (t.gr d.toNat))) ∧
  (∀ w a b c d e : Word, set 0 (w.extractLsb' 0 16) a b → set 1 (w.extractLsb' 16 16) b c → set 2 (w.extractLsb' 32 16) c d →
    set 3 (w.extractLsb' 48 16) d e → e = w) ∧
  (∀ w : BitVec 32, w.extractLsb' 26 6 = 0x0F → w.extractLsb' 18 3 ≠ 0 → ∀ i, decodeWord w ≠ .ok i) ∧
  decodeWord 0x3CE0CDEF = .ok (.lih 7 0 0xCDEF) ∧ decodeWord 0x3CE189AB = .ok (.lih 7 1 0x89AB) ∧
  decodeWord 0x3CE24567 = .ok (.lih 7 2 0x4567) ∧ decodeWord 0x3CE30123 = .ok (.lih 7 3 0x0123) ∧
  decodeWord 0x3084FFF0 = .ok (.andi 4 4 0xFFF0) ∧ decodeWord 0x34A0BEEF = .ok (.ori 5 0 0xBEEF) ∧
  decodeWord 0x48C6003F = .ok (.srai 6 6 0x3F) ∧ decodeWord 0x4CE8FFFF = .ok (.slti 7 8 0xFFFF)

/-- R253, R254: PHASH and RNDK are the functions of the rules. PHASH is a bijection with PHASH(0) = 0, every round of RNDK is a bijection, and
under one key RNDK gives distinct results for distinct counters. The two instructions complete with them in g[D]. -/
def Obligations.HashAndRandomAreInjective : Prop :=
  let mix (r1 r2 : Nat) (x : Word) : Word := let y := (x ^^^ (x >>> r1)) * 0xD6E8FEB86659FD93; y ^^^ (y >>> r2)
  let key (k : Word) : Word := k.rotateLeft 17 + 0x7B2C4E91D35A60F7
  let round (k x : Word) : Word := mix 32 29 (x + k)
  (∀ x, phash x = let h := mix 31 29 x * 0xA5CB3E9124F70D6B; h ^^^ (h >>> 32)) ∧
  (∀ k c, rndk k c = round (key (key (key k))) (round (key (key k)) (round (key k) (round k c)))) ∧
  (∀ x y, phash x = phash y → x = y) ∧ (∀ y, ∃ x, phash x = y) ∧ phash 0 = 0 ∧
  (∀ k x y, round k x = round k y → x = y) ∧ (∀ k y, ∃ x, round k x = y) ∧ (∀ k x y, rndk k x = rndk k y → x = y) ∧
  (∀ s t d a, Ready s t { gR := [a.toNat], gW := [d.toNat] } → WritesG (.phash d a) s t d.toNat (· = phash (t.gr a.toNat))) ∧
  ∀ s t d a b, Ready s t { gR := [a.toNat, b.toNat], gW := [d.toNat] } →
    WritesG (.rndk d a b) s t d.toNat (· = rndk (t.gr a.toNat) (t.gr b.toNat))

/-- R356-R359, R376, R381, R374: RDCTL, RDLT, RDCNT, MSHGET, GETVEC, EPEEK, TAGWANY, TAGWALL, and a LOADQ that stays, complete with what
they read in g[D], and change nothing else. -/
def Obligations.ReadsOfMachineState : Prop :=
  ∀ i s t r, readRow s t i = some r → r.cond → Ready s t r.names → WritesG i s t r.d r.ok

/-- R288-R290, R177: CMP, CMPW, CMPF, CMPI and CMPIW complete; the window that they open replaces any other, and nothing else changes. An
instruction annulled under a window only retires, and uses one place of it. -/
def Obligations.GuardWindowsOpenAndAnnul : Prop :=
  (∀ i s t n src c, cmpRow t.gr i = some (n, src, c) → Ready s t { gR := src } →
    ∃ s' t', exec i s = .next s' ∧ s'.mine = some t' ∧ t'.gcnt = n ∧ (t'.gcond = true ↔ c) ∧ t'.pc = t.pc + 4 ∧ t'.avail = .rotation ∧
      t'.last = s.now + 1 ∧ t' = { t.like t' with gcond := t'.gcond } ∧ Alone s s' t.part) ∧
  ∀ s c k t, s.env.unit = c → isCore c = true → s.env.sub = k → k < 16 → s.thread c k = some t → t.avail = .rotation → t.gcnt ≠ 0 →
    t.gcond = false → Happens .annulledRetire s fun s' => s'.thread c k = some { t with pc := t.pc + 4, gcnt := t.gcnt - 1 } ∧
      (∀ d j, ¬(d = c ∧ j = k) → s'.thread d j = s.thread d j) ∧ s' = { s with cores := s'.cores }

/-- R292: J, JL, JR and JLR complete: the thread goes on at the target with the link written, where the target is a multiple of 4 below
the limit of `sg0`; else an alignment or address fault is raised with the PC at the jump and no link. -/
def Obligations.JumpsReachTheirTarget : Prop :=
  ∀ i s t src link target, jumpRow t i = some (src, link, target) → Ready s t { gR := src, gW := link } →
    if target.toNat % 4 ≠ 0 then ∃ s', exec i s = .next s' ∧ Trapped s s' t 3 target 0
    else if segLimit (t.seg 0) ≤ target.toNat then ∃ s', exec i s = .next s' ∧ Trapped s s' t 4 target 0
    else ∃ s' t', exec i s = .next s' ∧ s'.mine = some t' ∧ Onward s t t' target ∧ Alone s s' t.part ∧
      t' = { t.like t' with g := t'.g, gEmpty := t'.gEmpty } ∧ GotG t t' (link.headD 0) (· = t.pc + 4)

/-- R197, R200, R202, R233, R318-R320, R333, R357, R361, R362, R382: NOP, IDEM, WRCTL of `psw`, RDSEG, WRSEG, MSHAPE, WRES of a register of
the thread, FENCE, CFENCE and an answered LEAVE complete and change their own thread alone; so does YIELD, which records its last issue eight
cycles later; IDEND closes the region, and the thread's count of restarts in a row is 0. That an IDEM over an open region takes its place and
leaves that count as it stands is the model's reading (DEDUCED, log entry 45). -/
def Obligations.ThreadFormsChangeTheirThread : Prop :=
  (∀ i s t r, threadRow s t i = some r → r.cond → Ready s t r.names →
    ∃ s' t', exec i s = .next s' ∧ s'.mine = some t' ∧ r.ok t' ∧ Onward s t t' (t.pc + 4) ∧ Alone s s' t.part) ∧
  (∀ s t, Ready s t {} → ∃ s' t', exec .idend s = .next s' ∧ s'.mine = some t' ∧ Onward s t t' (t.pc + 4) ∧
    t' = { t.like t' with region := none } ∧ Alone (s.modLife t.tid fun l => { l with softs := 0 }) s' t.part) ∧
  ∀ s t, Ready s t {} → ∃ s' t', exec .yield s = .next s' ∧ s'.mine = some t' ∧ t'.pc = t.pc + 4 ∧ t'.last = s.now + 8 + 1 ∧
    t'.gcnt = (if t.gcnt = 0 then 0 else t.gcnt - 1) ∧ t' = t.like t' ∧ Alone s s' t.part

/-- R197, R320, R356, R373, R376, R381: WRCTL and WRES of a common register, IFENCE, TAGCLR, TAGFF, a SETVEC that invalidates and an EPOP of
the copy errors complete and change their core's record alone. R188, R373: so does a SETVEC with V = 1, which reads the header at KHDR and
writes the entry and the vector context; with a header that is not well formed it raises the illegal-operand trap. R355, R65: it waits for the
header in memory, and one of another module is read over Byand. That the header's line is asked for, and read in the step that follows its turn,
is the model's choice (DESIGN CHOICE, log entry 18), and that the
entry keeps the header that SETVEC read, from which its messages start their threads, is the model's reading (DEDUCED, log entry 54). -/
def Obligations.CoreFormsChangeTheirCore : Prop :=
  (∀ s t (a b : BitVec 5), Ready s t { gR := [a.toNat, b.toNat] } →
    let ty := (t.gr a.toNat).toNat % 256
    let w := t.gr b.toNat
    isChan s.cur.core = false → tableType ty = true → 0x40 ≤ ty ∨ t.mode = true → w.toNat < 2 ^ 52 → w.getLsbD 4 = false →
    w.getLsbD 0 = true → entryHdr w < 2 ^ 48 → AsksForHeader (.setvec a b) s t (entryHdr w) ∧ ∀ hw s1, HeaderRead s t (entryHdr w) hw s1 →
    (hdrForm hw = true → hdrRegs hw = true →
      ∃ s' t', exec (.setvec a b) s = .next s' ∧ s'.mine = some t' ∧ Onward s t t' (t.pc + 4) ∧
        t' = { t.like t' with region := none, resv := none } ∧
        AloneBut s1 s' t.part (setEntry t ty w (hdrOf hw))) ∧
    (hdrForm hw = false ∨ hdrRegs hw = false →
      ∃ s', exec (.setvec a b) s = .next s' ∧ Trapped s1 s' t 2 0 0)) ∧
  ∀ i s t r, coreRow s t i = some r → r.cond → Ready s t r.names →
    ∃ s' t', exec i s = .next s' ∧ s'.mine = some t' ∧ r.ok t' ∧ Onward s t t' (t.pc + 4) ∧ AloneBut s s' t.part r.core

/-- R363, R364, R366, R266: TRAP and HALT stop their thread at themselves with causes 0x08 and 0x09, and a reserved encoding with 0x01; one
report goes out. -/
def Obligations.TrapsStopAndReport : Prop :=
  ∀ s t, Ready s t {} →
    (∀ q : BitVec 4, ∃ s', exec (.trap q) s = .next s' ∧ Trapped s s' t 8 (q.setWidth 64) 0) ∧
      (∃ s', exec .halt s = .next s' ∧ Trapped s s' t 9 0 0) ∧ ∃ s', exec .reservedEncoding s = .next s' ∧ Trapped s s' t 1 0 0

/-- R180, R184, R356: an ALU form that names a register beyond the allocation, WRCTL of a read-only register, and any use of `c0`-`c7` on a
channel core raise the illegal-operand trap; an ALU form that reads an empty register, or writes one with a result due, parks without using the
cycle, and nothing else changes; R179, R181: parked, it stays so while a register that it names is empty or has a result due. -/
def Obligations.OperandTrapsAndParks : Prop :=
  (∀ i s t r, aluRow t.gr i = some r → s.mine = some t →
    let u : Names := { gR := r.src, gW := [r.d] }
    (t.holds u = false → ∃ s', exec i s = .next s' ∧ Trapped s s' t 2 0 0) ∧
      (t.holds u = true → (t.avail ≠ .parked ∧ ((∃ n ∈ r.src, n ≠ 0 ∧ t.gEmpty.getLsbD n = true) ∨ (r.d ≠ 0 ∧ t.gDue.getLsbD r.d = true))) ∨
        (t.avail = .parked ∧ ∃ n ∈ r.d :: r.src, n ≠ 0 ∧ (t.gEmpty.getLsbD n = true ∨ t.gDue.getLsbD n = true)) → exec i s = .next (s.setThread s.cur.core s.cur.slot { t with avail := .parked }))) ∧
  ∀ s t n, (∀ b, Ready s t { gR := [b.toNat] } → (1 ≤ n.toNat ∧ n.toNat < 8) ∨ (8 ≤ n.toNat ∧ isChan s.cur.core = true) →
      ∃ s', exec (.wrctl n b) s = .next s' ∧ Trapped s s' t 2 0 0) ∧
    ∀ d, Ready s t { gW := [d.toNat] } → 8 ≤ n.toNat → isChan s.cur.core = true →
      ∃ s', exec (.rdctl d n) s = .next s' ∧ Trapped s s' t 2 0 0

/-- R365: ERET in general mode traps. In system mode it completes: it writes 1 and acts on the trapped thread that g[A] names (`retry` at its
resume PC, `skip` after it with one place of its guard window used), or changes no other thread and writes 0. -/
def Obligations.EretResumesTrappedThreads : Prop :=
  ∀ s t (d a : BitVec 5), Ready s t { gR := [a.toNat], gW := [d.toNat] } →
    let w := t.gr a.toNat
    let slot := w.toNat % 16
    (t.mode = false → ∀ i ∈ [Instr.eretRetry d a, .eretSkip d a, .eretEnd d a], ∃ s', exec i s = .next s' ∧ Trapped s s' t 2 0 0) ∧
    (t.mode = true →
      (∀ u rpc, s.thread s.cur.core slot = some u → u.avail = .trapped rpc false → slot ≠ s.cur.slot → w.toNat < 2 ^ 47 →
          u.tid.toNat % 2 ^ 43 = w.toNat / 16 →
        (∃ s' t', exec (.eretRetry d a) s = .next s' ∧ s'.mine = some t' ∧ GotG t t' d.toNat (· = 1) ∧ Onward s t t' (t.pc + 4) ∧
          s'.thread s.cur.core slot = some { u with avail := .rotation, pc := rpc, from_ := Nat.max u.from_ (s.now + 1) } ∧ s'.mem = s.mem) ∧
        (∃ s' t', exec (.eretSkip d a) s = .next s' ∧ s'.mine = some t' ∧ GotG t t' d.toNat (· = 1) ∧ Onward s t t' (t.pc + 4) ∧
          s'.thread s.cur.core slot = some { u with avail := .rotation, pc := rpc + 4, gcnt := if u.gcnt = 0 then 0 else u.gcnt - 1,
                                                    from_ := Nat.max u.from_ (s.now + 1) } ∧ s'.mem = s.mem) ∧
        (∃ s' t', exec (.eretEnd d a) s = .next s' ∧ s'.mine = some t' ∧ GotG t t' d.toNat (· = 1) ∧ Onward s t t' (t.pc + 4) ∧
          s'.thread s.cur.core slot = none ∧ Sparse.find? s'.lives u.tid.toNat = none ∧ s'.mem = s.mem)) ∧
      (∀ u rpc, s.thread s.cur.core slot = some u → u.avail = .trapped rpc true →
        ∀ i ∈ [Instr.eretRetry d a, .eretSkip d a], WritesG i s t d.toNat (· = 0)) ∧
      (∀ i ∈ [Instr.eretRetry d a, .eretSkip d a, .eretEnd d a],
        (∀ u rpc h, s.thread s.cur.core slot = some u → u.avail ≠ .trapped rpc h) → WritesG i s t d.toNat (· = 0)))

/-- R186, R322, R325-R331, R346-R349: every VALU and VPERM form, HAM, TOPKI, TOPKR, TOPKZ, BMF, DIP, DCOS and DL2 complete by entering the
dispatch queue with their sources as they stand; the destination is empty with a result due, and the thread goes on. With the queue full they
do not issue: the thread leaves the rotation, and nothing else changes. -/
def Obligations.VectorOperationsAreDispatched : Prop :=
  ∀ i s t r, vectorRow t i = some r → r.cond → Ready s t r.names →
    ((s.core s.cur.core).disp.length < 8 → DispatchCompletes i s t r) ∧
    (8 ≤ (s.core s.cur.core).disp.length → exec i s = .next (s.setThread s.cur.core s.cur.slot { t with avail := .admission }))

/-- R322, R337, R338, R345, R347: MZERO, MROWV, MVROW, MCVT, MEW, MRED and HAMT complete by entering the dispatch queue. -/
def Obligations.TileOperationsAreDispatched : Prop :=
  ∀ i s t r, tileRow s t i = some r → r.cond → Ready s t r.names → (s.core s.cur.core).disp.length < 8 → DispatchCompletes i s t r

/-- R334-R336, R339, R341: CHB with its leave granted, CHE, and the MMA forms in an open chain or with leave granted complete by entering the
dispatch queue, an MMA form with its thread out of the rotation until it is done; MLD, MLDT and MST, of a narrow shape too, complete with a
transfer of their rows, and of their scales, that waits for the unit. That all scales of a transfer are read line by line in one access, from
the first to the last scale byte that it needs, is the model's reading (DEDUCED, log entry 50). -/
def Obligations.MatrixAndTransferDispatch : Prop :=
  ∀ s t, (s.core s.cur.core).disp.length < 8 →
    (∀ d : BitVec 4, ∀ id, Ready s t { mR := [d.toNat] } → t.chain = none → t.matD s d.toNat = true → t.asking = .granted id →
      ∃ s' t', exec (.chb d) s = .next s' ∧ s'.mine = some t' ∧ Onward s t t' (t.pc + 4) ∧
        t' = { t.like t' with asking := .no, chain := some { tile := d.toNat, rows := t.rows d.toNat, cols := t.elems d.toNat, acc := [],
                                                             leave := id } } ∧
        (∃ o, (s'.core s.cur.core).disp = (s.core s.cur.core).disp ++ [o] ∧ o.ins = .chb d ∧ o.ref = some id ∧ o.tid = t.tid ∧
          o.md = t.md ∧ o.fm = t.fm) ∧ CoresOnly s s') ∧
    (∀ d : BitVec 4, ∀ c, Ready s t { mW := [d.toNat] } → t.chain = some c → c.tile = d.toNat →
      ∃ s' t', exec (.che d) s = .next s' ∧ s'.mine = some t' ∧ Onward s t t' (t.pc + 4) ∧ t'.chain = none ∧ Owed t t' [(.m, d.toNat)] ∧
        t' = { likeFull (t.like t') t' with chain := none } ∧
        (∃ o, (s'.core s.cur.core).disp = (s.core s.cur.core).disp ++ [o] ∧ o.ins = .che d ∧ o.chain = some c ∧ o.tid = t.tid) ∧
        CoresOnly s s') ∧
    (∀ (i : Instr) (d a b : BitVec 4) (z tr : Bool),
      (i = .mma d a b ∧ z = false ∧ tr = false) ∨ (i = .mmaz d a b ∧ z = true ∧ tr = false) ∨ (i = .mmat d a b ∧ z = false ∧ tr = true) →
      let src := a.toNat :: b.toNat :: t.comps a.toNat ++ t.comps b.toNat
      t.mmaOk s tr d.toNat a.toNat b.toNat = true →
      (∀ c, t.chain = some c → c.tile = d.toNat → Ready s t { mR := src, mN := [d.toNat] } →
        ∃ s' t' o, exec i s = .next s' ∧ s'.mine = some t' ∧ t'.avail = .matrix ∧ t'.pc = t.pc ∧ t' = { t.like t' with avail := .matrix } ∧
          (s'.core s.cur.core).disp = (s.core s.cur.core).disp ++ [o] ∧ o.ins = i ∧ o.ref = none ∧ CoresOnly s s') ∧
      (∀ id, t.chain = none → t.asking = .granted id → Ready s t { mR := if z then src else d.toNat :: src, mW := [d.toNat] } →
        ∃ s' t' o, exec i s = .next s' ∧ s'.mine = some t' ∧ t'.avail = .matrix ∧ t'.pc = t.pc ∧ Owed t t' [(.m, d.toNat)] ∧
          t' = { likeFull (t.like t') t' with asking := .no } ∧
          (s'.core s.cur.core).disp = (s.core s.cur.core).disp ++ [o] ∧ o.ins = i ∧ o.ref = some id ∧ CoresOnly s s')) ∧
    (∀ i r, transferRow s t i = some r → r.cond → Ready s t r.names → s.window t.tid < 8 →
      ∃ s' t' o x, exec i s = .next s' ∧ s'.mine = some t' ∧ Onward s t t' (t.pc + 4) ∧ Owed t t' r.dst ∧
        t' = { likeFull (t.like t') t' with resv := none, md := t'.md } ∧
        (∀ k, t'.shape k = if r.comp = some k then 0x6000 else t.shape k) ∧
        (s'.core s.cur.core).disp = (s.core s.cur.core).disp ++ [o] ∧ o.ins = i ∧ o.ref = some x.id ∧
        s'.net = { s.net with accs := s.net.accs ++ [x] } ∧ x.tid = t.tid ∧ x.marked = true ∧ x.held = some 0 ∧ x.pieces = r.pieces ∧
        ∀ k a, s'.readByte k a = s.readByte k a)

/-- R323, R325-R331, R338, R341, R343, R345-R349, R180: when the unit writes a result, the register that the instruction names holds it, is
full and has nothing due, and nothing else changes: each lane of an integer or bitwise VALU operation from the sources as they stood at issue;
each lane of a floating one, rounded once; VCMP, VSEL, the VPERM forms, VCVT, BMF and TOPKZ lane by lane, VSCAN prefix by prefix; TOPKI and TOPKR
the 16 smallest entries; the reductions and search forms in a general register; MZERO, MROWV, MVROW, MRED, HAMT and MCVT to a narrow tile by
their definition, MEW, MCVT, CHE and the MMA forms element by element, each rounded once. An MMA form in a chain adds to the accumulator, CHB
fills it from mD, and an MMA form's thread goes on after it. -/
def Obligations.IntegerLanesAreWritten : Prop :=
  ∀ s q o rest t, Running s q o rest t →
    (∀ w lq d f, intLaneRow w o.ins = some (lq, d, f) → (w = 32 ∧ lq = 2) ∨ (w = 16 ∧ lq = 3) ∨ (w = 8 ∧ lq = 4) →
      ∃ s', exec .vmuResult s = .next s' ∧
        VectorWritten s s' q o rest t d.toNat fun v => ∀ i < 512 / w, lane w i v = f (lane w i o.vd) (lane w i o.va) (lane w i o.vb)) ∧
    (∀ lq d f, floatLaneRow o.ins = some (lq, d, f) → lq < 2 →
      ∃ s', exec .vmuResult s = .next s' ∧
        VectorWritten s s' q o rest t d fun v => ∀ i < laneN lq,
          laneOf lq v i = flTo lq (f (flOf lq (laneOf lq o.vd i)) (flOf lq (laneOf lq o.va i)) (flOf lq (laneOf lq o.vb i)))) ∧
    (∀ lq d f, otherLaneRow o = some (lq, d, f) → lq < 5 →
      ∃ s', exec .vmuResult s = .next s' ∧ VectorWritten s s' q o rest t d fun v => ∀ i < laneN lq, laneOf lq v i = f i) ∧
    (∀ d a lq : BitVec 4, o.ins = .vscan d a lq → lq.toNat < 5 →
      ∃ s', exec .vmuResult s = .next s' ∧ VectorWritten s s' q o rest t d.toNat fun v =>
        laneOf lq.toNat v 0 = (if lq.toNat < 2 then flTo lq.toNat (flOf lq.toNat (laneOf lq.toNat o.va 0)) else laneOf lq.toNat o.va 0) ∧ ∀ i, i + 1 < laneN lq.toNat → laneOf lq.toNat v (i + 1) =
          lane2 lq.toNat Exact.add (· + ·) (laneOf lq.toNat v i) (laneOf lq.toNat o.va (i + 1))) ∧
    (∀ d cands, topRow o = some (d, cands) →
      ∃ s', exec .vmuResult s = .next s' ∧ VectorWritten s s' q o rest t d fun v => TopOf o.vd v cands) ∧
    (∀ d w, generalRow o = some (d, w) → ∃ s', exec .vmuResult s = .next s' ∧ GeneralWritten s s' q o rest t d (· = w)) ∧
    (∀ d v n, tileResult o t = some (.v, d, v, n) →
      ∃ s', exec .vmuResult s = .next s' ∧ VectorWritten s s' q o rest t d (· = v.setWidth 512)) ∧
    (∀ d v n, tileResult o t = some (.m, d, v, n) → ∃ s', exec .vmuResult s = .next s' ∧ TileWritten s s' q o rest t d (· = v)) ∧
    (∀ d f, elementRow o t = some (d, f) → PlainTile (o.md_ d) →
      ∃ s', exec .vmuResult s = .next s' ∧ TileWritten s s' q o rest t d fun m =>
        ∀ r < o.rows d, ∀ j < o.elems d, elemBits m (o.md_ d) r j = elemRound (o.md_ d) (f r j)) ∧
    (∀ (d : BitVec 4) c, o.ins = .che d → o.chain = some c → PlainTile (o.md_ d.toNat) → shFmt (o.md_ d.toNat) = 0 →
      c.cols = o.elems d.toNat → c.acc.length = o.rows d.toNat * c.cols →
      ∃ s', exec .vmuResult s = .next s' ∧ TileWritten s s' q o rest t d.toNat fun m =>
        ∀ r < o.rows d.toNat, ∀ j < c.cols, elemBits m (o.md_ d.toNat) r j = (toFp32 (c.acc.getD (r * c.cols + j) .nan)).toNat) ∧
    (∀ (d : BitVec 4) c, o.ins = .chb d → o.ref = some c.leave → t.chain = some c →
      ∃ s' t' c', exec .vmuResult s = .next s' ∧ s'.thread o.core o.slot = some t' ∧ t'.chain = some c' ∧ t' = { t with chain := some c' } ∧
        c' = { c with acc := c'.acc } ∧
        (∀ r < o.rows d.toNat, ∀ j < o.elems d.toNat, c'.acc[r * o.elems d.toNat + j]? = some (o.elem t d.toNat r j)) ∧
        ∀ k a, s'.readByte k a = s.readByte k a) ∧
    ∀ d a b z tr, mmaForm o.ins = some (d, a, b, z, tr) →
      (t.chain = none → PlainTile (o.md_ d) → shFmt (o.md_ d) = 0 →
        ∃ s' t', exec .vmuResult s = .next s' ∧ s'.thread o.core o.slot = some t' ∧ t'.pc = t.pc + 4 ∧ t'.avail = .rotation ∧
          t' = { t with pc := t'.pc, gcnt := t'.gcnt, avail := .rotation, from_ := t'.from_, m := t'.m, mEmpty := t'.mEmpty, mDue := t'.mDue } ∧
          t'.mEmpty.getLsbD d = false ∧ t'.mDue.getLsbD d = false ∧ (∀ n, n ≠ d → t'.mr n = t.mr n) ∧
          (∀ r < o.rows d, ∀ j < o.elems d, elemBits (t'.mr d) (o.md_ d) r j =
            (toFp32 (o.dot t tr a b r j (if z then Exact.zero true else o.elem t d r j))).toNat) ∧
          (s'.vmu q).running = rest ∧ ∀ k a, s'.readByte k a = s.readByte k a) ∧
      ∀ c, t.chain = some c → c.acc.length = o.rows d * o.elems d →
        ∃ s' t' c', exec .vmuResult s = .next s' ∧ s'.thread o.core o.slot = some t' ∧ t'.chain = some c' ∧ t'.pc = t.pc + 4 ∧
          t'.avail = .rotation ∧ t' = { t with pc := t'.pc, gcnt := t'.gcnt, avail := .rotation, from_ := t'.from_, chain := some c' } ∧
          c' = { c with acc := c'.acc } ∧
          (∀ r < o.rows d, ∀ j < o.elems d, c'.acc[r * o.elems d + j]? =
            some (o.dot t tr a b r j (if z then Exact.zero true else c.acc.getD (r * o.elems d + j) .nan))) ∧
          (s'.vmu q).running = rest ∧ ∀ k a, s'.readByte k a = s.readByte k a

/-- R187, R343: VMU_START takes the head of the next queue, cyclically, that has an entry into the start stage for 64 cycles at most: an
operation that needs no more then runs, and the rest of a longer one stays at the head of its queue. When the stage waits, and how long a
CHB takes, are the model's choice (log entries 60 and 69, DESIGN CHOICE and DEDUCED). -/
def Obligations.UnitStartsTheHeadOfAQueue : Prop :=
  ∀ s q k o rest, s.env.unit = q → q < 8192 → (s.vmu q).freeAt ≤ s.now → k < 4 →
    let c := 4 * q + ((s.vmu q).next + k) % 4
    (s.core c).disp = o :: rest → (∀ j < k, (s.core (4 * q + ((s.vmu q).next + j) % 4)).disp = []) →
    let n := startCycles o - o.done
    ∃ s', exec .vmuStart s = .next s' ∧ (s'.vmu q).next = (c + 1) % 4 ∧ (∀ c', c' ≠ c → s'.core c' = s.core c') ∧
      (n ≤ 64 → (s'.core c).disp = rest ∧ (s'.vmu q).running = (s.vmu q).running ++ [{ o with ends := s.now + n }] ∧
        (s'.vmu q).freeAt = s.now + n) ∧
      (64 < n → (s'.core c).disp = { o with done := o.done + 64 } :: rest ∧ (s'.vmu q).running = (s.vmu q).running ∧
        (s'.vmu q).freeAt = s.now + 64) ∧
      s' = { s with cores := s'.cores, vmus := s'.vmus } ∧ ∀ k a, s'.readByte k a = s.readByte k a

/-- R201, R225, R296, R297, R299, R301: a load (LDB, LDH, LDW, LDD, LDBZ, LDHZ, LDWZ, VLD, LDN) whose checks pass completes its issue with
its access in flight: marked, the thread goes on with the register empty and due; unmarked, it waits out of the rotation at its PC. R204,
R32: one in the private alias or the Col mirror completes with what its core's own die holds in the register. R416: one of a control
register completes with what the register reads, and with what such a read takes out of a queue. That these three act in the step of the
issue is the model's choice (DESIGN CHOICE, log entry 18). R192: one of a migrating thread in the scratchpad of another core moves the
thread there once nothing is due to it, and the load issues again there. -/
def Obligations.LoadsIssue : Prop :=
  ∀ i s t r, loadRow s t i = some r → Ready s t r.names → Quiet s t →
    (∀ c, s.loadMoves t r.da = some c →
      (t.due = false → ∃ s', exec i s = .next s' ∧ s'.thread s.cur.core s.cur.slot = none ∧ Boarded s' t c) ∧
      (t.due = true → exec i s = .next (s.setThread s.cur.core s.cur.slot { t with avail := .fence }))) ∧
    (s.loadMoves t r.da = none → Reaches s t r .read (fun x => .read x.n) →
      ∃ s' t' a, exec i s = .next s' ∧ s'.mine = some t' ∧ InFlight s s' t r .load none a ∧ FlightOnly s s' ∧
        if r.marked then Onward s t t' (t.pc + 4) ∧ Owed t t' r.dst ∧ t' = { likeFull (t.like t') t' with resv := none }
        else t'.pc = t.pc ∧ t'.gcnt = t.gcnt ∧ t'.avail = .memory ∧ t' = { t.like t' with resv := none }) ∧
    (∀ dst, s.loadMoves t r.da = none → r.da / 2 ^ 48 = 3 ∨ r.da / 2 ^ 48 = 5 → loadDst r.cont = some dst →
      ∃ s' t', exec i s = .next s' ∧ s'.mine = some t' ∧ Onward s t t' (t.pc + 4) ∧
        Loaded t' (leNat (ownBytes s r.da (r.pieces.map (·.n)).sum)) r.cont ∧ OthersKept t t' dst ∧
        t' = { t.like t' with g := t'.g, gEmpty := t'.gEmpty, gDue := t'.gDue, v := t'.v, vEmpty := t'.vEmpty, vDue := t'.vDue,
                              from_ := t'.from_, resv := none } ∧
        (r.da / 2 ^ 48 = 5 → t'.from_ = Nat.max t.from_ (s.now + 4)) ∧ s'.net = s.net ∧ FlightOnly s s') ∧
    (∀ d n sg, r.da / 2 ^ 48 = 14 → r.cont = .gen d n sg →
      let u := s.readReg 16 (r.da % 2 ^ 48) n
      ∃ s' t', exec i s = .next s' ∧ s'.mine = some t' ∧ Onward s t t' (t.pc + 4) ∧ GotG t t' d (· = extended n sg u.1) ∧
        t' = { t.like t' with g := t'.g, gEmpty := t'.gEmpty, resv := none } ∧ Alone u.2 s' t.part)

/-- R201, R225, R297, R299, R301: a store (STB, STH, STW, STD, VST, STN) whose checks pass completes its issue with its access in flight,
carrying the low bytes of its source; no byte changes until its home performs it. R301, R302: an STN with a scale first reads it, and keeps
its lanes. R204: one in the private alias enters the near buffer, where the alias reads it. R28, R29: one in the Col mirror enters its
pair's queue; it traps where the pair has no entry, and waits at a full queue, in its order of arrival, until an entry is kept for it, when it
issues and enters (DESIGN CHOICE, log entry 100). R416: one of a control register completes with what the
register's write does. That this acts in the step of the issue, and that of overlapping stores the later leaves after the earlier, are the
model's (log entries 18 and 16, DESIGN CHOICE and DEDUCED). -/
def Obligations.StoresIssue : Prop :=
  (∀ i s t r n v, storeRow s t i = some (r, n, v) → Ready s t r.names → Quiet s t →
    let c := s.cur.core
    let pair := colPair t.part c
    let y := s.tower (towerOf c)
    ((∀ w, Reaches s t r .write (fun x => .write x.n w)) →
      ∃ s' t' a, exec i s = .next s' ∧ s'.mine = some t' ∧ InFlight s s' t r .store none a ∧ FlightOnly s s' ∧
        bufNat a.buf 0 n = v % 2 ^ (8 * n) ∧
        if r.marked then Onward s t t' (t.pc + 4) ∧ t' = { t.like t' with resv := none }
        else t'.pc = t.pc ∧ t'.gcnt = t.gcnt ∧ t'.avail = .memory ∧ t' = { t.like t' with resv := none }) ∧
    (r.da / 2 ^ 48 = 5 → s.nearOpen c s.fresh = true → (s.core c).near.length + r.pieces.length ≤ 8 →
      ∃ s' t', exec i s = .next s' ∧ s'.mine = some t' ∧ Onward s t t' (t.pc + 4) ∧
        t' = { t.like t' with resv := none, from_ := Nat.max t.from_ (s.now + 4) } ∧ NearEntered s s' r v n) ∧
    (r.da / 2 ^ 48 = 3 → (∀ x ∈ y.waiting, x.w.tid ≠ t.tid) →
      (mapHolds y.kmap pair = false → ∃ s', exec i s = .next s' ∧ Trapped s s' t 5 (BitVec.ofNat 64 r.da) 0) ∧
      (mapHolds y.kmap pair = true → (y.queue pair).length < 16 → (∀ x ∈ y.waiting, 8 * x.w.part + x.w.layer ≠ pair) →
        ∃ s' t' w, exec i s = .next s' ∧ s'.mine = some t' ∧ Onward s t t' (t.pc + 4) ∧ t' = { t.like t' with resv := none } ∧
          ColItem s t r.da n v w ∧ s'.tower (towerOf c) = y.setQueue pair (y.queue pair ++ [w]) ∧
          (∀ k, k ≠ towerOf c → s'.tower k = s.tower k) ∧ Kept s s' id ∧
          s' = { s with cores := s'.cores, parts := s'.parts, towers := s'.towers, cur := s'.cur, fresh := s'.fresh }) ∧
      (mapHolds y.kmap pair = true → 16 ≤ (y.queue pair).length ∨ (∃ x ∈ y.waiting, 8 * x.w.part + x.w.layer = pair) →
        ∃ s' w, exec i s = .next s' ∧ s'.mine = some { t with avail := .admission, resv := none } ∧ ColItem s t r.da n v w ∧
          (∃ x ∈ (s'.tower (towerOf c)).waiting, x.core = c ∧ x.slot = s.cur.slot ∧ x.since = s.now ∧ x.ok = false ∧ x.w = w) ∧
          (s'.tower (towerOf c)).waiting.length = y.waiting.length + 1 ∧ ∀ k a, s'.readByte k a = s.readByte k a)) ∧
    (r.da / 2 ^ 48 = 3 → mapHolds y.kmap pair = true → ∀ x, y.waiting.find? (fun x => x.w.tid == t.tid) = some x →
      (x.ok = true →
        ∃ s' t' w, exec i s = .next s' ∧ s'.mine = some t' ∧ Onward s t t' (t.pc + 4) ∧ t' = { t.like t' with resv := none } ∧
          ColItem s t r.da n v w ∧ (s'.tower (towerOf c)).queue pair = y.queue pair ++ [w] ∧
          (∀ z ∈ (s'.tower (towerOf c)).waiting, z ∈ y.waiting ∧ z.w.tid ≠ t.tid) ∧ ∀ k a, s'.readByte k a = s.readByte k a) ∧
      (x.ok = false → exec i s = .next (s.setThread c s.cur.slot { t with avail := .admission }))) ∧
    (r.da / 2 ^ 48 = 14 →
      let u := (s.here Thread.noResv).writeReg 16 (r.da % 2 ^ 48) n (BitVec.ofNat 64 v)
      ∃ s', exec i s = .next s' ∧ Alone u s' t.part ∧
        ∀ t1, u.mine = some t1 → ∃ t', s'.mine = some t' ∧ t'.pc = t1.pc + 4 ∧ t'.avail = .rotation ∧ t' = t1.like t')) ∧
  ∀ i s t r da f b, scaledRow s t i = some (r, da, f, b) → Ready s t r.names → Quiet s t → Reaches s t r .read (fun x => .read x.n) →
    (∀ x ∈ linePieces 3 da (2 * (Fmt.ofWord f).width) 0, x.isLocal = true ∨
      ∀ w, ∃ y, Hits s s.cur.core t.part .write (.write x.n w) x.da y) →
    ∃ s' t' a, exec i s = .next s' ∧ s'.mine = some t' ∧ InFlight s s' t r .store none a ∧ FlightOnly s s' ∧
      if r.marked then Onward s t t' (t.pc + 4) ∧ t' = { t.like t' with resv := none }
      else t'.pc = t.pc ∧ t'.gcnt = t.gcnt ∧ t'.avail = .memory ∧ t' = { t.like t' with resv := none }

/-- R304-R308, R142: AADD, AAND, AOR, AXOR, AMAX, AMIN, AMAXU, AMINU, ASWAP, ACAS and AADDF complete their issue with the operation on its way
to its home; the thread waits, its region is closed and its reservation lost. -/
def Obligations.AtomicsIssue : Prop :=
  ∀ i s t r op, atomicRow s t i = some (r, op) → Ready s t r.names → Quiet s t → Reaches s t r .rwa (fun _ => op) →
    ∃ s' t' a, exec i s = .next s' ∧ s'.mine = some t' ∧ InFlight s s' t r .atomic (some op) a ∧ FlightOnly s s' ∧ t'.pc = t.pc ∧
      t'.gcnt = t.gcnt ∧ t'.avail = .memory ∧ t' = { t.like t' with resv := none, region := none }

/-- R309, R310, R192: at the home of their word LR and SC complete their issue with the operation on its way; elsewhere, where the thread holds
no vector registers or tiles and nothing is due to it, it leaves its slot in a message to the home's core and issues again there. -/
def Obligations.ReservedFormsIssueAtTheirHome : Prop :=
  ∀ s t (d a b : BitVec 5) (w : BitVec 1) (g : BitVec 3) da x, Quiet s t →
    let n := if w = 1 then 8 else 4
    (∀ i need op sk, (i = .lr d a w g ∧ need = .lr ∧ op = .lr n ∧ sk = .lr ∧ Ready s t { gR := [a.toNat], gW := [d.toNat] }) ∨
        (i = .sc d a b w g ∧ need = .sc ∧ op = .sc n (t.gr b.toNat) ∧ sk = .sc ∧
          Ready s t { gR := [a.toNat, b.toNat], gW := [d.toNat] }) →
      s.checkAccess t s.cur.core g.toNat (t.gr a.toNat) n n sk .lrsc = .ok da → da / 2 ^ 48 ≠ 3 → da / 2 ^ 48 ≠ 5 →
      Hits s s.cur.core t.part need op da x →
      (homeCore x.loc = some s.cur.core → ∃ s' t' y, exec i s = .next s' ∧ s'.mine = some t' ∧
        s'.acc y.id = some y ∧ y.tid = t.tid ∧ y.kind = .atomic ∧ y.op = some op ∧ y.pieces = [{ da := da, n := n, off := 0, st := .sent }] ∧
        FlightOnly s s' ∧ t'.pc = t.pc ∧ t'.avail = .memory ∧
        t' = { t.like t' with region := none, resv := if sk = .sc then t.resv else none }) ∧
      (∀ c, homeCore x.loc = some c → c ≠ s.cur.core → t.vregs = 0 → t.tiles = 0 → t.due = false →
        ∃ s', exec i s = .next s' ∧ s'.thread s.cur.core s.cur.slot = none ∧ Boarded s' t c))

/-- R312, R231, R68: NADD, NADDF, NMAX and NMIN complete at once: the thread goes on, its region is closed, and the update is on its way in a
message to the home of its word, through Byand where the word is another module's. A word of another module that no channel holds stands for the
channel of its line (DESIGN CHOICE, log entry 93). -/
def Obligations.RemoteUpdatesRetireAtOnce : Prop :=
  ∀ i s t (a b : BitVec 5) (w : BitVec 1) (g : BitVec 3) op n da x c,
    (i = .nadd a b w g ∧ op = NOp.add ∧ n = if w = 1 then 8 else 4) ∨ (i = .nmax a b w g ∧ op = .max ∧ n = if w = 1 then 8 else 4) ∨
      (i = .nmin a b w g ∧ op = .min ∧ n = if w = 1 then 8 else 4) ∨ (i = .naddf a b g ∧ op = .fadd ∧ n = 4) →
    Ready s t { gR := [a.toNat, b.toNat] } → Quiet s t →
    s.checkAccess t s.cur.core g.toNat (t.gr a.toNat) n n .amo .nform = .ok da → da / 2 ^ 48 ≠ 3 → da / 2 ^ 48 ≠ 5 →
    Hits s s.cur.core t.part .rwa (.upd op n (t.gr b.toNat)) da x → c = (homeCore x.loc).getD (chanCore (x.loc / 64 % 256)) →
    ∃ s' t', exec i s = .next s' ∧ s'.mine = some t' ∧ Onward s t t' (t.pc + 4) ∧ t' = { t.like t' with region := none, resv := none } ∧
      (∃ m ∈ s'.net.msgs, m.target = c ∧ m.from_ = some t.tid ∧
        m.away = (match x.home with
          | .egress q => some (q, x.dest, none)
          | _ => none) ∧ ∃ id, m.body = .update x.loc op n (t.gr b.toNat) x.expiry id) ∧ FlightOnly s s'

/-- R224, R226, R306-R310, R235, R3: a home performs the operation it serves next. A read returns the bytes and changes none; a write changes
exactly the bytes it names; an atomic, AADDF among them, returns the old value and leaves the new one in its word, and no other byte changes. An LR
returns its word and places its requester's reservation; an SC whose requester holds that reservation writes and returns 0, and any other returns
1 and writes nothing; the reservation is gone either way. R203, R223: of two operations of one partition at a scratchpad
the later is next at its banks where they share none, and waits where they do. -/
def Obligations.HomesPerformInOrder : Prop :=
  (∀ (s : State) (h g : Header) c, s.net.homeQ = [h, g] → h.home = .spad c → g.home = .spad c → s.env.sub ∈ g.banks →
    ((∀ x ∈ g.banks, x ∉ h.banks) → s.nextAt (.spad c) = some g) ∧
    (∀ x, x ∈ g.banks → x ∈ h.banks → h.part = g.part → h ≠ g → s.nextAt (.spad c) ≠ some g)) ∧
  ∀ s h, Performable s h →
    let k := s.keyOf h.part
    (∀ n, h.op = .read n → n ≤ 64 →
      ∃ s', exec .homeQueuePerform s = .next s' ∧ Performed s s' h (BitVec.ofNat 512 (at_ s k h.loc n)) ∧ ∀ a, s'.raw a = s.raw a) ∧
    (∀ n v, h.op = .write n v →
      ∃ s', exec .homeQueuePerform s = .next s' ∧ Performed s s' h 0 ∧
        ∀ a, s'.raw a = if h.loc ≤ a ∧ a < h.loc + n then v.extractLsb' (8 * (a - h.loc)) 8 else s.raw a) ∧
    (∀ n, n = 4 ∨ n = 8 → (∃ op b, h.op = .amo op n b) ∨ (∃ x y, h.op = .cas n x y) →
      ∃ s', exec .homeQueuePerform s = .next s' ∧ Performed s s' h (BitVec.ofNat 512 (at_ s k h.loc n)) ∧
        at_ s' k h.loc n = (atomicNew (8 * n) (BitVec.ofNat (8 * n) (at_ s k h.loc n)) h.op).toNat ∧
        ∀ a, ¬(h.loc ≤ a ∧ a < h.loc + n) → s'.raw a = s.raw a) ∧
    (∀ v, h.op = .fadd v →
      ∃ s', exec .homeQueuePerform s = .next s' ∧ Performed s s' h (BitVec.ofNat 512 (at_ s k h.loc 4)) ∧
        at_ s' k h.loc 4 = (toFp32 (Exact.add (ofFp32 (BitVec.ofNat 32 (at_ s k h.loc 4))) (ofFp32 v))).toNat ∧
        ∀ a, ¬(h.loc ≤ a ∧ a < h.loc + 4) → s'.raw a = s.raw a) ∧
    ∀ n c sl t, n = 4 ∨ n = 8 → s.requester h.id = some (c, sl) → s.thread c sl = some t →
      (h.op = .lr n →
        ∃ s', exec .homeQueuePerform s = .next s' ∧ Performed s s' h (BitVec.ofNat 512 (at_ s k h.loc n)) ∧
          s'.thread c sl = some { t with resv := some (h.loc / 8 * 8, s.now) } ∧ ∀ a, s'.raw a = s.raw a) ∧
      (∀ v cyc, h.op = .sc n v → t.resv = some (h.loc / 8 * 8, cyc) →
        ∃ s', exec .homeQueuePerform s = .next s' ∧ Performed s s' h 0 ∧ s'.thread c sl = some { t with resv := none } ∧
          ∀ a, s'.raw a = if h.loc ≤ a ∧ a < h.loc + n then v.extractLsb' (8 * (a - h.loc)) 8 else s.raw a) ∧
      (∀ v, h.op = .sc n v → (∀ cyc, t.resv ≠ some (h.loc / 8 * 8, cyc)) →
        ∃ s', exec .homeQueuePerform s = .next s' ∧ Performed s s' h 1 ∧ s'.thread c sl = some { t with resv := none } ∧
          ∀ a, s'.raw a = s.raw a)

/-- R235, R309, R310: a write at its home clears every reservation on a word that it touches. -/
def Obligations.WritesClearReservations : Prop :=
  ∀ (s : State) (k a : Nat) (bs : List Byte) (c sl : Nat) (t : Thread) (w cyc : Nat), homeCore a = some c → bs ≠ [] → s.thread c sl = some t →
    t.resv = some (w, cyc) → w < a + bs.length → a < w + 8 →
    ∃ t', (s.store k a bs).thread c sl = some t' ∧ t'.resv = none ∧ t' = { t with resv := none }

/-- R297, R301, R302, R305, R310, R180, R181: the last reply of a load or of an atomic writes its register, which is full with nothing due; an
unmarked one's thread then goes on at the next word from the next cycle; no byte changes. An earlier reply leaves its bytes with the access. The
last reply of the scale of a narrow store sends the store of its lanes' codes under that scale. A failure of a marked access is reported at
the thread's next issue: a load's register is zero and full, and of a tile store nothing further is written, whether it has reached its home or
not (R336, R413). -/
def Obligations.RepliesDeliverLoads : Prop :=
  (∀ s id r x a p t, Replied s id r x a p t →
    (LastPiece r a →
      (∀ d n sg,
        a.cont = .gen d n sg ∨ a.cont = .amo d n sg ∨ (∃ l, a.cont = .lr d n l ∧ sg = true) ∨
          (a.cont = .sc d ∧ sg = false ∧ (n = 8 ∨ a.buf = [])) →
        p.off = 0 → p.n = n → n ≤ 8 → d < 32 →
        ∃ s' t', exec .accessReply s = .next s' ∧ s'.thread a.core a.slot = some t' ∧
          (d ≠ 0 → t'.gr d = extended n sg (x.val.setWidth 64) ∧ t'.gEmpty.getLsbD d = false) ∧
          t'.gDue.getLsbD d = false ∧ (∀ n, n ≠ d → t'.gr n = t.gr n) ∧ AccessEnded s s' id a t t') ∧
      (∀ d, a.cont = .vec d → p.off = 0 → p.n = 64 → d < 16 →
        ∃ s' t', exec .accessReply s = .next s' ∧ s'.thread a.core a.slot = some t' ∧ t'.vr d = x.val ∧ t'.vEmpty.getLsbD d = false ∧
          t'.vDue.getLsbD d = false ∧ (∀ n, n ≠ d → t'.vr n = t.vr n) ∧ AccessEnded s s' id a t t') ∧
      (∀ d f b, a.cont = .ldn d f b → d < 16 →
        ∃ s' t', exec .accessReply s = .next s' ∧ s'.thread a.core a.slot = some t' ∧
          t'.vr d = ldnLanes f (bufNat (bytesIn a p x.val) 0 (2 * (Fmt.ofWord f).width)) (scaleIn (bytesIn a p x.val) scaleAt b) ∧
          t'.vEmpty.getLsbD d = false ∧ t'.vDue.getLsbD d = false ∧ (∀ n, n ≠ d → t'.vr n = t.vr n) ∧ AccessEnded s s' id a t t') ∧
      ∀ da f b v, a.cont = .stn da f b v → a.op = none → 0 < (Fmt.ofWord f).width →
        s.behind a = false → s.eventsRun = true →
        (∀ y ∈ linePieces 3 da (2 * (Fmt.ofWord f).width) 0, y.isLocal = false ∧
          ∀ w, ∃ z, Hits s a.core a.part .write (.write y.n w) y.da z) →
        ∃ s' a', exec .accessReply s = .next s' ∧ s'.acc a.id = some a' ∧ a'.cont = .store ∧
          a'.pieces = (linePieces 3 da (2 * (Fmt.ofWord f).width) 0).map (fun y => { y with st := .sent }) ∧
          bufNat a'.buf 0 (2 * (Fmt.ofWord f).width) = stnCodes f v (scaleIn (bytesIn a p x.val) scaleAt b) % 2 ^ (16 * (Fmt.ofWord f).width) ∧
          ∀ k b, s'.readByte k b = s.readByte k b) ∧
    (a.stores = false → (∃ i y, a.pieces[i]? = some y ∧ i ≠ r.piece ∧ y.st ≠ .done) → (∀ y ∈ a.pieces, y.st ≠ .todo) →
      ∃ s', exec .accessReply s = .next s' ∧ s'.thread a.core a.slot = some t ∧ Answered s s' id ∧
        s'.acc a.id = some { a with pieces := a.pieces.set r.piece { p with st := .done }, buf := bytesIn a p x.val })) ∧
  ∀ s id r x a p t, ReplyFails s id r x a p t →
    (LastPiece r a →
      (∀ d n sg, a.cont = .gen d n sg → d ≠ 0 → d < 32 → ∃ s' t', exec .accessReply s = .next s' ∧ s'.thread a.core a.slot = some t' ∧
        GotG t t' d (· = 0) ∧ FailureDue t t' a p x.status ∧ Answered s s' id) ∧
      (∀ d, a.cont = .vec d → d < 16 → ∃ s' t', exec .accessReply s = .next s' ∧ s'.thread a.core a.slot = some t' ∧
        t'.vr d = 0 ∧ t'.vEmpty.getLsbD d = false ∧ FailureDue t t' a p x.status ∧ Answered s s' id)) ∧
    (a.cont = .mst → (∀ i y, a.pieces[i]? = some y → i ≠ r.piece → y.st = .done ∨ (y.st = .sent ∧ ∃ q ∈ s.net.reqs, q.acc = a.id ∧ q.piece = i)) →
      (∀ q ∈ s.net.reqs, Unmade a q → ∀ o ∈ s.by_.out, o.req ≠ q.id) →
      Happens .accessReply s fun s' => s'.acc a.id = none ∧ (∃ t', s'.thread a.core a.slot = some t' ∧ FailureDue t t' a p x.status) ∧
        ∀ q ∈ s.net.reqs, Unmade a q → (∀ h ∈ s'.net.homeQ, h.id ≠ q.id) ∧ (∀ h ∈ s'.net.port, h.id ≠ q.id) ∧
          ∀ k ∈ s'.net.packets, k.hdr.id ≠ q.id)

/-- R367, R368, R230, R47: SEND and FILL complete with their message on its way to the core that g[A] names; the region is closed and the
reservation lost. A descriptor that is not well formed raises the illegal-operand trap. -/
def Obligations.SendAndFillSendMessages : Prop :=
  ∀ i s t ok u v addr body, messageRow t i = some (ok, u, v, addr, body) → Ready s t u →
    (ok = false → ∃ s', exec i s = .next s' ∧ Trapped s s' t 2 0 0) ∧
    (∀ target away, ok = true → t.blocked v = false → s.msgTarget t.part addr = .ok (target, away) →
      Fresh s →
      ∃ s' t', exec i s = .next s' ∧ s'.mine = some t' ∧ Onward s (t.count 6 1) t' (t.pc + 4) ∧
        t' = { t.like t' with region := none, resv := none } ∧ Sent s s' t target away body ∧ FlightOnly s s' ∧ Kept s s' id)

/-- R369, R374, R192: a GO to its own core completes and changes nothing but its PC; a GO elsewhere, and a LOADQ that moves, complete by
carrying the thread there in a message, to go on at the next instruction; a GO by a thread with vector registers or tiles traps. That such a
thread's GO to its own core traps too, where R369 also says that a GO to the own core has no effect, is the model's reading (DEDUCED, log
entry 42). -/
def Obligations.GoAndLoadqCarryTheThread : Prop :=
  ∀ s t, (∀ (a : BitVec 5) target, Ready s t { gR := [a.toNat] } → s.goTarget t.part (t.gr a.toNat) = some target →
      (t.vregs ≠ 0 ∨ t.tiles ≠ 0 → ∃ s', exec (.go a) s = .next s' ∧ Trapped s s' t 2 0 0) ∧
      (t.vregs = 0 → t.tiles = 0 → target = s.cur.core → Retires (.go a) s t fun s' t' => t' = t.like t' ∧ Alone s s' t.part) ∧
      (t.vregs = 0 → t.tiles = 0 → target ≠ s.cur.core → t.due = false → Quiet s t →
        ∃ s', exec (.go a) s = .next s' ∧ Carried s s' t target fun u =>
          u = { t.like u with resv := none, fence := none })) ∧
    ∀ d : BitVec 5, Ready s t { gW := [d.toNat] } → ¬Stays s t →
      ∃ s', exec (.loadq d) s = .next s' ∧ Carried s s' t (s.idleCore t.part s.cur.core) fun u =>
        GotG t u d.toNat (· = 1) ∧ u = { t.like u with g := u.g, gEmpty := u.gEmpty, resv := none, fence := none }

/-- R370, R371, R141, R109: SPAWN and SPAWND whose header reads as well formed complete with the child on its way in a message: it starts at
ENTRY with g[B] in `g1` and its path in `g2`; the result register is empty and due, and the ordinal has gone up. R355, R65: they wait for the
header in memory, and one of another module is read over Byand. That the header's line is asked for, and read in the step that follows its turn,
is the model's choice (DESIGN CHOICE, log entry 18). -/
def Obligations.SpawnStartsAChild : Prop :=
  ∀ i s t (d a b : BitVec 5) named w s1, (i = .spawn d a b ∧ named = false) ∨ (i = .spawnd d a b ∧ named = true ∧ d ≠ 0) →
    Ready s t { gR := [a.toNat, b.toNat], gW := [d.toNat] } → (t.gr a.toNat).toNat < 2 ^ 48 →
    ((t.gr a.toNat).toNat % 32 = 0 → AsksForHeader i s t (t.gr a.toNat).toNat) ∧ (HeaderRead s t (t.gr a.toNat).toNat w s1 → hdrForm w = true → hdrRegs w = true → (hdrOf w).supv = false → (s.life t.tid).ord < 15 →
    (s.life t.tid).path.toNat < 2 ^ 60 →
    let path := ((s.life t.tid).path <<< 4) ||| BitVec.ofNat 64 ((s.life t.tid).ord + 1)
    let target := s.childCore t.part named path
    ∃ s' t', exec i s = .next s' ∧ s'.mine = some t' ∧ Onward s t t' (t.pc + 4) ∧ Owed t t' [(.g, d.toNat)] ∧
      t' = { likeFull (t.like t') t' with region := none, resv := none } ∧ (s'.life t.tid).ord = (s.life t.tid).ord + 1 ∧
      (∃ m ∈ s'.net.msgs, m.target = target ∧ m.part = t.part ∧ ∃ st, m.body = .child st ∧ st.entry = BitVec.ofNat 64 (w / 2 ^ 64 % 2 ^ 40) ∧
        st.prio = t.prio ∧ st.supv = false ∧ Sparse.get 0 st.g 1 = t.gr b.toNat ∧ Sparse.get 0 st.g 2 = path ∧ st.sg = t.sg ∧
        st.life.path = path ∧ st.life.parent = if d = 0 then none else some (t.tid, d.toNat)) ∧ Kept s s' id)

/-- R371, R372, R181: JOIN completes and sets the ordinal to 0 once the result register of every child still outstanding is full, and parks
until then. EXIT with nothing outstanding completes: the thread is gone, its slot and granules are free, and its `g1` is on its way to its
parent's register. -/
def Obligations.JoinAndExitEndWaiting : Prop :=
  ∀ s t, Ready s t {} →
    ((s.life t.tid).kids &&& t.gEmpty = 0 → Retires .join s t fun s' t' => t' = t.like t' ∧ (s'.life t.tid).ord = 0 ∧ Kept s s' id ∧
      s' = { s with cores := s'.cores, parts := s'.parts, lives := s'.lives, cur := s'.cur }) ∧
    ((s.life t.tid).kids &&& t.gEmpty ≠ 0 → exec .join s = .next (s.setThread s.cur.core s.cur.slot { t with avail := .parked })) ∧
    (PushFree s t → t.due = false → ∃ s', exec .exit s = .next s' ∧ s'.mine = none ∧ Sparse.find? s'.lives t.tid.toNat = none ∧
      (∀ c k, ¬(c = s.cur.core ∧ k = s.cur.slot) → s'.thread c k = s.thread c k) ∧ (∀ k a, s'.readByte k a = s.readByte k a) ∧
      ∀ p r, (s.life t.tid).parent = some (p, r) → ∃ m ∈ s'.net.msgs, m.part = t.part ∧ m.body = .result p r (t.gr 1))

/-- R314-R317, R235: BARA and FZA complete with an arrival of their member, which loses its reservation; BAR arrives and parks, BARW and FZW
park in the group that their register names, and all three complete once the phase of the group that they noted has released, whatever the
register then holds (R316), or once the launch has ended; BARRIER_RELEASE releases a phase in which every member has arrived. -/
def Obligations.BarriersArriveAndRelease : Prop :=
  (∀ s t (a : BitVec 5) l w, Ready s t { gR := [a.toNat] } →
    let g := (t.gr a.toNat).toNat % 256
    let m := (s.aux t.part).member l.id g w
    let only := fun (s' : State) => Kept s s' id ∧
      s' = { s with cores := s'.cores, parts := s'.parts, auxs := s'.auxs, lives := s'.lives, cur := s'.cur }
    let fuzzy := gtabFuzzy ((s.part t.part).group g)
    (Joins s t l g w → m.fuzzy = none →
      (Retires (.bara a) s t fun s' t' => t' = { t.like t' with region := none, resv := none } ∧ Arrived s s' t l.id g w false ∧ only s') ∧
      (fuzzy = true → Retires (.fza a) s t fun s' t' =>
        t' = { t.like t' with region := none, resv := none } ∧ Arrived s s' t l.id g w true ∧ only s') ∧
      ((s.life t.tid).bar = none → ∃ s', exec (.bar a) s = .next s' ∧
        s'.mine = some { t with region := none, resv := none, avail := .parked } ∧ Arrived s s' t l.id g w false ∧
        (s'.life t.tid).bar = some (g, m.made))) ∧
    (s.launchOf t = some l → l.glist.contains g = true → (s.life t.tid).bar = none →
      (s.memberUnit t l g = none → ∃ s', exec (.barw a) s = .next s' ∧ s'.mine = some { t with avail := .parked } ∧
        (s'.life t.tid).bar = some (g, (s.aux t.part).releasedPhases l.id g) ∧ s'.auxs = s.auxs) ∧
      ∀ ph, s.memberUnit t l g = some w → m.fuzzy = some ph → fuzzy = true →
        (ph < (s.aux t.part).releasedPhases l.id g → Retires (.fzw a) s t fun s' t' =>
          t' = t.like t' ∧ (s'.aux t.part).member l.id g w = { m with fuzzy := none } ∧
            (s'.aux t.part).arrivals = (s.aux t.part).arrivals ∧ only s') ∧
        ((s.aux t.part).releasedPhases l.id g ≤ ph → ∃ s', exec (.fzw a) s = .next s' ∧ s'.mine = some { t with avail := .parked } ∧
          (s'.life t.tid).bar = some (g, ph) ∧ s'.auxs = s.auxs)) ∧
    (∀ h ph, (s.life t.tid).bar = some (h, ph) →
      (∀ i ∈ [Instr.bar a, .barw a], s.launchOf t = some l → ph < (s.aux t.part).releasedPhases l.id h → Retires i s t fun s' t' =>
        t' = t.like t' ∧ (s'.life t.tid).bar = none ∧ s'.auxs = s.auxs ∧ only s') ∧
      (s.launchOf t = some l → (s.life t.tid).unit = some w → ph < (s.aux t.part).releasedPhases l.id h → Retires (.fzw a) s t fun s' t' =>
        t' = t.like t' ∧ (s'.life t.tid).bar = none ∧ (s'.aux t.part).member l.id h w = { (s.aux t.part).member l.id h w with fuzzy := none } ∧
          (s'.aux t.part).arrivals = (s.aux t.part).arrivals ∧ only s') ∧
      (∀ i ∈ [Instr.bar a, .barw a, .fzw a],
        (s.launchOf t = some l → (s.aux t.part).releasedPhases l.id h ≤ ph →
          exec i s = .next (s.setThread s.cur.core s.cur.slot { t with avail := .parked })) ∧
        (s.launchOf t = none → Retires i s t fun s' t' => t' = t.like t' ∧ (s'.life t.tid).bar = none ∧ s'.auxs = s.auxs ∧ only s')))) ∧
  ∀ s p l g, s.env.unit = p → p < 64 → s.env.third = g → g < 256 → (s.part p).launches.find? (·.id == s.env.sub) = some l →
    l.glist.contains g = true → (s.aux p).arrivals = [] →
    (∀ w < l.count, gtabMember ((s.part p).group g) w = true → l.ended.contains w = false →
      (s.aux p).releasedPhases l.id g < ((s.aux p).member l.id g w).left) →
    ∃ s', exec .barrierRelease s = .next s' ∧ (s'.aux p).releasedPhases l.id g = (s.aux p).releasedPhases l.id g + 1 ∧
      s' = { s with auxs := s'.auxs }

/-- R375-R378, R105, R106: EPUSH of a copy command and a governor request complete with their entry in the queue, and one of a launch with its
command on its way to the launch queue, in its place among the cycle's by core and slot; EPOP of a completion and of a governor answer complete
with the entry out of the queue: of the completions, with the first that the bench cores' reads of the cycle leave (R106). -/
def Obligations.EngineQueuesTakeAndGive : Prop :=
  ∀ s t (p : Nat), t.part = p →
    let c := s.cur.core
    (∀ a : BitVec 4, Ready s t { vR := [a.toNat] } → PushFree s t →
      let cmd : CopyCmd := { core := c, part := p, cmd := t.vr a.toNat, ctx := { sg := t.sg, fm := t.fm, sc := t.sc }, own := false, void := false }
      let own := cmd.ownReg t s.cur.slot
      (isChan c = false → cmd.ok s.md.full = true → (s.core c).busy.getLsbD cmd.tag = false → t.owesReg own = false →
        (s.cluster (clusterOf c)).fifo.length < 16 → Retires (.epushCopy a) s t fun s' t' =>
          t' = { likeFull (t.like t') t' with region := none, resv := none, fence := none } ∧ Owed t t' own.toList ∧
          (s'.cluster (clusterOf c)).fifo = (s.cluster (clusterOf c)).fifo ++ [{ cmd with own := own.isSome }] ∧
          Kept s s' (fun k => { k with busy := k.busy ||| (1#64 <<< cmd.tag), tagr := k.tagr &&& ~~~(1#64 <<< cmd.tag) }) ∧
          s' = { s with cores := s'.cores, parts := s'.parts, clusters := s'.clusters, cur := s'.cur }) ∧
      ((s.part p).lq.length + (s.part p).lqIn.length < 64 → (s.part p).en = true → (s.part p).busy = false →
        Retires (.epushLaunch a) s t fun s' t' => t' = { t.like t' with region := none, resv := none, fence := none } ∧
          (s'.part p).lqIn = insertPush { since := s.now, core := c, slot := s.cur.slot, tid := t.tid, word := launchEntry (t.vr a.toNat) }
            (s.part p).lqIn ∧ (s'.part p).lq = (s.part p).lq ∧ Kept s s' id ∧
          s' = { s with cores := s'.cores, parts := s'.parts, cur := s'.cur }) ∧
      (isChan c = false → (t.vr a.toNat).toNat < 2 ^ 64 → leaveOk ((t.vr a.toNat).setWidth 64) = true → (s.core c).govIn.length < 4 →
        Retires (.epushGov a) s t fun s' t' => t' = { t.like t' with region := none, resv := none, fence := none } ∧
          Kept s s' (fun k => { k with govIn := k.govIn ++ [(p, (t.vr a.toNat).setWidth 64)] }) ∧
          s' = { s with cores := s'.cores, parts := s'.parts, cur := s'.cur })) ∧
    ∀ d : BitVec 5, Ready s t { gW := [d.toNat] } →
      (∀ old w r, (s.part p).cq = old ++ w :: r → old.length = s.cqPlace p 16 → Retires (.epop d 1) s t fun s' t' =>
        t' = { t.like t' with g := t'.g, gEmpty := t'.gEmpty } ∧ GotG t t' d.toNat (· = w) ∧ (s'.part p).cq = old ++ r ∧ Kept s s' id ∧
          s' = { s with cores := s'.cores, parts := s'.parts, cur := s'.cur }) ∧
      (∀ w r, isChan c = false → (s.core c).govQ = w :: r → (s.core c).govHeld = [] → Retires (.epop d 2) s t fun s' t' =>
        t' = { t.like t' with g := t'.g, gEmpty := t'.gEmpty } ∧ GotG t t' d.toNat (· = w) ∧ Kept s s' (fun k => { k with govQ := r }) ∧
          s' = { s with cores := s'.cores, parts := s'.parts, cur := s'.cur })

/-- R217, R201, R213, R214: LEASE of an address outside space 0x0 completes and changes nothing but its thread's reservation. LEASE of a paged
address whose page has a leaf that lets it be read or written completes: every entry of the page that the two translation buffers of its core
held is gone, and where the leaf may be cached each holds the one that the walk gave, with the lease counted from now. One whose leaf lets it be
neither read nor written raises the rights trap. Until the entries that it reads have had their turns its thread waits in memory (R217, R355);
that they are read in one step then is the model's choice (DESIGN CHOICE, log entry 80). -/
def Obligations.LeaseRenewsATranslation : Prop :=
  ∀ s t (a : BitVec 5) (g : BitVec 3) da, Ready s t { gR := [a.toNat] } → segCheck (t.seg g.toNat) (t.gr a.toNat) 1 1 .lease = .ok da →
    s.unperformed t.tid = false →
    (2 ^ 48 ≤ da → ∃ s' t', exec (.lease a g) s = .next s' ∧ s'.mine = some t' ∧ Onward s t t' (t.pc + 4) ∧
      t' = { t.like t' with resv := none } ∧ Alone s s' t.part) ∧
    (da < 2 ^ 48 → s.turnsHad (.lease s.cur.core s.cur.slot) (s.walkLines t.part da) = false →
      WaitsInMemory (.lease a g) s (s.askLines (.lease s.cur.core s.cur.slot) s.cur.core t.part (s.walkLines t.part da))) ∧
    ∀ leaf at_ s1, da < 2 ^ 48 → s.turnsHad (.lease s.cur.core s.cur.slot) (s.walkLines t.part da) = true →
      (((s.dropTicket (.lease s.cur.core s.cur.slot)).here Thread.noResv).forget s.cur.core t.part da).walk t.part da = (.ok (leaf, at_), s1) →
      (pteR leaf = true ∨ pteW leaf = true →
        ∃ s' t', exec (.lease a g) s = .next s' ∧ s'.mine = some t' ∧ Onward s t t' (t.pc + 4) ∧ t' = { t.like t' with resv := none } ∧
          ∀ cl l, unitsOf s.cur.core = some (cl, l) →
            let ep := (s.part t.part).epoch
            let x : TlbEntry := { part := t.part, epoch := ep, va := da / 4096 * 4096, leaf := leaf, leafAt := at_,
                                  expiry := s.md.ltc.toNat + leaseNs leaf, hot := 0 }
            (∀ e ∈ (s'.cluster cl).tlb, e.serves t.part ep da s.md.ltc.toNat = true → e = x) ∧
              (∀ e ∈ (s'.layer l).llt, e.serves t.part ep da s.md.ltc.toNat = true → e = x) ∧
              (pteLC leaf ≠ 0 → s.caches l = true → x ∈ (s'.cluster cl).tlb ∧ x ∈ (s'.layer l).llt)) ∧
      (pteR leaf = false → pteW leaf = false → ∃ s' t', exec (.lease a g) s = .next s' ∧ s'.mine = some t' ∧
        t'.avail = .trapped t.pc false ∧ ∃ m ∈ s'.net.msgs, m.part = t.part ∧
          ∃ r, m.body = .table 6 (BitVec.ofNat 64 da :: 0 :: BitVec.ofNat 64 (5 + 256) :: t.pc :: r) [])

/-- R146-R148, R383: TEMIT and TEMITI complete their issue with their token on its way to its home slice; the word's PART, INIT, NOID and
IDENT are the machine's, a body's product index goes up, and the thread waits for the slice's acknowledgement. -/
def Obligations.EmissionSendsATransfer : Prop :=
  ∀ s t, (∀ a : BitVec 4, Ready s t { vR := [a.toNat] } → MayEmit s t (t.vr a.toNat) →
      ((s.life t.tid).body = none → (s.aux t.part).run.strict = false → Emitted (.temit a) s t (t.vr a.toNat) false true 0) ∧
      (∀ i o k u, (s.life t.tid).body = some (i, o, k, u) → k < 16 →
        Emitted (.temit a) s t (t.vr a.toNat) false false (2 ^ 39 + i * 2 ^ 27 + o * 2 ^ 4 + k))) ∧
    ∀ (a : BitVec 4) (b : BitVec 5), Ready s t { vR := [a.toNat], gR := [b.toNat] } → (s.life t.tid).body = none →
      (t.gr b.toNat).toNat < 2 ^ 39 → MayEmit s t (t.vr a.toNat) → Emitted (.temiti a b) s t (t.vr a.toNat) true false (t.gr b.toNat).toNat

/-- R152, R164, R168, R170, R355, R384-R389: TGRAB, TPEEK, RULEW, RHALT of no active run, RSTAT, RBUDG of a run that is not STOPPED, RLOGM and
STABQ complete with what they read, and change of the machine their partition's run alone. Each waits in memory until its access has had its turn
at its slice. That those which act on the run or its rules are served at slice 0, and at once where the partition has no slice, is the model's
choice (DESIGN CHOICE, log entry 18). That a replayed slice whose records are used up goes on with a next log in a pass is its reading (DEDUCED,
log entry 111). -/
def Obligations.ReactionFormsActAtTheirSlice : Prop :=
  ∀ i s t r, rxnRow s t i = some r → r.cond → Ready s t r.names → s.unperformed t.tid = false →
    ServedAt i s t r.slice fun u => Retires i s t fun s' t' => r.ok t' ∧ s'.aux t.part = r.aux (s.aux t.part) ∧
      (∀ p, p ≠ t.part → s'.aux p = s.aux p) ∧ Kept s s' id ∧ s' = { u with cores := s'.cores, parts := s'.parts, auxs := s'.auxs, cur := s'.cur }

/-- R155, R159, R161, R167, R386, R389: RRUN of an acceptable run completes with a new run number in g[D] and the run RUNNING, every slice's
ordinal 0 and its place in the rules START, or the next valid rule where START is none; one that is refused completes with why in bits 63:32 and
nothing started; RHALT halts an active run; STABW completes with the status word once the run is not RUNNING. R355: RRUN and RHALT wait in memory
until they are served. That this is at slice 0 is the model's choice (DESIGN CHOICE, log entry 18), and that a valid entry is judged by the header that SETVEC read its reading (DEDUCED,
log entry 54). -/
def Obligations.RunsStartHaltAndReport : Prop :=
  ∀ s t, s.unperformed t.tid = false →
    (∀ d a : BitVec 5, Ready s t { gR := [a.toNat], gW := [d.toNat] } → (t.gr a.toNat).toNat < 2 ^ 10 →
      let n := s.refuseRun t.part ((t.gr a.toNat).toNat / 256)
      (n = 0 → ServedAt (.rrun d a) s t (runSlice s t) fun _ => Retires (.rrun d a) s t fun s' t' =>
        let r := (s'.aux t.part).run
        t' = { t.like t' with g := t'.g, gEmpty := t'.gEmpty, resv := none, region := none } ∧
          GotG t t' d.toNat (· = ((s.aux t.part).run.number + 1).setWidth 64) ∧ r.number = (s.aux t.part).run.number + 1 ∧ r.st = .running ∧
          r.owner = s.cur.core ∧ r.mode = (t.gr a.toNat).toNat / 256 ∧ r.left = (s.aux t.part).run.armed ∧ r.armed = none ∧ r.picked = 0 ∧
          (∀ k < s.sliceCount t.part, ((s'.aux t.part).slice k).ordinal = 0 ∧ ((s'.aux t.part).slice k).due = true ∧
            ((s'.aux t.part).slice k).rho = (let start := (t.gr a.toNat).toNat % 256
              if (s.validRules t.part).contains start then start else nextRule (s.validRules t.part) start) ∧
            ((s'.aux t.part).slice k).tokens = ((s.aux t.part).slice k).tokens) ∧ Kept s s' id) ∧
      (n ≠ 0 → ServedAt (.rrun d a) s t (runSlice s t) fun _ => Retires (.rrun d a) s t fun s' t' =>
        t' = { t.like t' with g := t'.g, gEmpty := t'.gEmpty, resv := none, region := none } ∧
          GotG t t' d.toNat (· = BitVec.ofNat 64 (n * 2 ^ 32)) ∧ s'.auxs = s.auxs ∧ Kept s s' id)) ∧
    (Ready s t {} → (s.aux t.part).run.st = .running ∨ (s.aux t.part).run.st = .stopped →
      ServedAt .rhalt s t (runSlice s t) fun _ => Retires .rhalt s t fun s' t' =>
      t' = { t.like t' with resv := none, region := none } ∧ (s'.aux t.part).run.st = .halted ∧ Kept s s' id) ∧
    ∀ d : BitVec 5, Ready s t { gW := [d.toNat] } →
      (∀ w, (s.life t.tid).stab = some w → (s.life t.tid).inStabw = true → Retires (.stabw d) s t fun s' t' =>
        t' = { t.like t' with g := t'.g, gEmpty := t'.gEmpty } ∧ GotG t t' d.toNat (· = w) ∧ (s'.life t.tid).inStabw = false ∧ Kept s s' id) ∧
      ((s.life t.tid).stab = none → (s.aux t.part).run.st ≠ .running → Retires (.stabw d) s t fun s' t' =>
        t' = { t.like t' with g := t'.g, gEmpty := t'.gEmpty } ∧ GotG t t' d.toNat (· = (s.aux t.part).run.word) ∧
          (s'.life t.tid).inStabw = false ∧ Kept s s' id)


/-- R182, R190-R192, R221, R312, R371: REGISTER_FILL writes the common or general register that its message names and sets it full, and a
child's result the register of its parent; MESSAGE_ACCEPT makes a ready entry of a message whose table entry can start it, with the header that
SETVEC kept (log entry 54, DEDUCED), and drops another; MIGRATION_ARRIVAL, PAGE_WAKE and REMOTE_UPDATE take their message and do what it
says, an update whose lease has ended or that meets an uncorrectable error changes no byte; a PWAKE write sends a page wake, from the
Carcass die of T0 (DESIGN CHOICE, log entry 92). -/
def Obligations.MessagesActAtTheirCore : Prop :=
  (∀ s m, s.arriving s.env.unit = some m → m.frm ≠ .launch → Fresh s →
    let c := m.target
    (∀ slot tid n v, m.body = .fill slot tid .c n v → isChan c = false → n < 8 → Happens .registerFill s fun s' => Gone s' m ∧
      (s'.core c).cEmpty = (s.core c).cEmpty &&& ~~~(1#8 <<< n) ∧
      (∀ k j, (s'.core k).common j = if k = c ∧ j = n then v.setWidth 64 else (s.core k).common j) ∧
      ∀ k j, s'.thread k j = s.thread k j) ∧
    (∀ slot tid n v t, m.body = .fill slot tid .g n v → isChan c = false → s.net.spills = [] → s.thread c slot = some t → t.tid = tid →
      n < t.gregs → n < 32 → Happens .registerFill s fun s' => Gone s' m ∧ ∃ t', s'.thread c slot = some t' ∧ GotG t t' n (· = v.setWidth 64) ∧
        t' = { t with g := t'.g, gEmpty := t'.gEmpty, from_ := t'.from_ } ∧ ∀ k j, ¬(k = c ∧ j = slot) → s'.thread k j = s.thread k j) ∧
    (∀ tid n v k j t, m.body = .result tid n v → (Sparse.find? s.lives tid.toNat).isSome = true → s.net.spills = [] → n < 32 →
      s.findThread tid = some (k, j) → s.thread k j = some t → Happens .registerFill s fun s' => Gone s' m ∧
        (s'.life tid).kids = (s.life tid).kids &&& ~~~(1#32 <<< n) ∧ ∃ t', s'.thread k j = some t' ∧ GotG t t' n (· = v) ∧
          t'.gDue = t.gDue &&& ~~~(1#32 <<< n) ∧ t' = { t with g := t'.g, gEmpty := t'.gEmpty, gDue := t'.gDue, from_ := t'.from_ }) ∧
    (∀ ty g v, m.body = .table ty g v → isChan c = false →
      (∀ w h, (s.core c).entry ty = some (w, h) → g.length + 1 ≤ h.gAlloc → v.length ≤ h.vAlloc → (s.core c).room = true →
        Happens .messageAccept s fun s' => Gone s' m ∧ ∃ e st, (s'.core c).ready = (s.core c).ready ++ [e] ∧ e.kind = .start st ∧
          st.entry = h.entry ∧ st.supv = h.supv ∧ st.part = m.part ∧ st.prio = BitVec.ofNat 2 (w.toNat / 4 % 4) ∧
          st.gregs = (h.gregs + 7) / 8 * 8 ∧ st.vregs = (h.vregs + 3) / 4 * 4 ∧ st.tiles = h.tiles ∧ st.sg = (s.core c).vctx.sg ∧
          (∀ k, Sparse.get 0 st.g k = if k = 0 then 0 else g.getD (k - 1) 0) ∧ ∀ k, Sparse.get 0 st.v k = v.getD k 0) ∧
      ((s.core c).entry ty = none → Happens .messageAccept s fun s' => Gone s' m ∧ s'.cores = s.cores)) ∧
    (∀ t, m.body = .thread t → s.takesThread c t = true → Happens .migrationArrival s fun s' => Gone s' m ∧
      ∃ e, (s'.core c).ready = (s.core c).ready ++ [e] ∧ e.kind = .moved t ∧ e.prio = t.prio) ∧
    (∀ token k slot t, m.body = .wake token → token ≠ 0 → s.net.accs = [] → s.droppedBy token = some (k, slot) →
      s.thread k slot = some t → Happens .pageWake s fun s' => Gone s' m ∧
        s'.thread k slot = some { t with avail := .rotation, from_ := Nat.max t.from_ (s.now + 1) }) ∧
    (∀ loc op w v e id, m.body = .update loc op w v e id → w = 4 ∨ w = 8 →
      isHbm loc = true ∨ isSpad loc = true ∨ isEdram loc = true →
      (s.env.bad = false → (∀ x, e = some x → s.md.ltc.toNat < x) →
        ∃ s', exec .remoteUpdate s = .next s' ∧ Gone s' m ∧ s'.acc id = none ∧
          s'.readLE 0 loc w = updateNew w (s.readLE 0 loc w) v op % 2 ^ (8 * w) ∧ ∀ a, ¬(loc ≤ a ∧ a < loc + w) → s'.raw a = s.raw a) ∧
      (s.env.bad = true → isHbm loc = true → (∀ x, e = some x → s.md.ltc.toNat < x) → Happens .remoteUpdate s fun s' => Gone s' m ∧
        s'.acc id = none ∧ s'.msix = (s.irqLine m.part 2).msix ∧ s'.aplic = (s.irqLine m.part 2).aplic) ∧
      (∀ x, e = some x → x ≤ s.md.ltc.toNat → s.acc id = none → Happens .remoteUpdate s fun s' => Gone s' m ∧
        (∀ y, s.by_.inside.find? (·.id == m.id) = some y → s'.by_.sentOut = s.by_.sentOut ++ [(y.src, .expired, 0)])))) ∧
  ∀ s p, s.env.unit = p → p < 64 → Happens .pwakeWrite s fun s' =>
    let v := s.env.val.toNat
    Tells s s' (.service 0) p (if s.env.val.getLsbD 20 then 32768 + v % 2 ^ 8 else v % 2 ^ 15) (.wake (v / 2 ^ 32)) ∧
      s' = { s with net := s'.net, fresh := s'.fresh }

/-- R378-R380: COPY_COMMAND_START takes the next command of its cluster and sets its tag busy; one of more than 64 KiB asks for leave
(whose bytes are counted at the source: log entry 79, DESIGN CHOICE), another sends its first access, that of the bitmap's first byte where one
selects the runs. One access is under way at a time, its pieces go in the order of the stream, and the cursor moves on once it is done: log entry
34, DESIGN CHOICE. A source piece that has arrived is
delivered into its register, which the last byte of a delivery with FILT = 0 sets full, or fails with code 5 where the thread is gone; a
destination piece that has been written moves the cursor on. COPY_COMPLETE of a command that is over frees the unit, ends its leave, makes its
tag set and not busy, sets the register of a filtered delivery full, whose bytes it checks (log entry 43), and adds one element to the error queue where it failed; a ninth is dropped (log
entry 44). Bytes for a thread that is being read back are kept for it, and a thread whose record is written is gone (code 5): the model's
readings, log entry 65, DEDUCED. -/
def Obligations.CopyUnitTakesAndCompletes : Prop :=
  ∀ s cl, s.env.unit = cl → cl < 4096 →
    (∀ c rest, (s.cluster cl).run = none → (s.cluster cl).fifo = c :: rest →
      let busy := fun (s' : State) => (s'.core c.core).busy = (s.core c.core).busy ||| (1#64 <<< c.tag)
      (c.asksLeave = true → Happens .copyCommandStart s fun s' =>
        (s'.cluster cl).fifo = rest ∧ (s'.cluster cl).run = some { taken c with asked := true } ∧ busy s' ∧
          (∃ q ∈ (s'.layer (layerOf (8 * cl))).asks, q.who = .copy cl ∧ q.core = c.core ∧ q.part = c.part ∧ q.charge = 2) ∧
          (∀ k j, s'.thread k j = s.thread k j) ∧ s' = { s with cores := s'.cores, clusters := s'.clusters, layers := s'.layers }) ∧
      (∀ n ps, c.asksLeave = false → 0 < c.n1 * c.n2 → firstAccess s c = some (n, ps) → ps ≠ [] →
        (∀ x ∈ ps, x.isLocal = false ∧ Steady s cl c.part (.read x.n) x.da) →
        (∀ a ∈ s.net.accs, a.id ≠ s.fresh ∧ (a.kind = .copyRead ∨ a.kind = .copyWrite ∨ a.tid ≠ BitVec.allOnes 64)) →
        Happens .copyCommandStart s fun s' => (s'.cluster cl).fifo = rest ∧ busy s' ∧
          (∃ a, s'.acc a.id = some a ∧ (s'.cluster cl).run = some { taken c with acc := some a.id, stage := n } ∧ a.kind = .copyRead ∧
            a.part = c.part ∧ a.cont = .copy cl ∧ a.pieces = ps.map (fun x => { x with st := .sent }) ∧ a.failed = none ∧ a.held = none) ∧
          (∀ k j, s'.thread k j = s.thread k j) ∧
          s' = { s with cores := s'.cores, clusters := s'.clusters, net := s'.net, fresh := s'.fresh })) ∧
    (∀ r a, (s.cluster cl).run = some r → r.failed = none → r.acc = some a.id → s.acc a.id = some a → a.held = none → a.failed = none →
      (∀ x ∈ a.pieces, x.st = .done) →
      let c := r.cmd
      (r.stage = 3 → Happens .copyCommandStart s fun s' => (s'.cluster cl).run = some r.next ∧ s'.acc a.id = none ∧ s'.cores = s.cores) ∧
      (r.stage = 2 → c.deliv = true → s.delivThread c = none → Happens .copyCommandStart s fun s' =>
        (s'.cluster cl).run = some { r with acc := none, failed := some 5 } ∧ s'.acc a.id = none ∧ s'.cores = s.cores) ∧
      (∀ t, r.stage = 2 → c.deliv = true → c.void = false → s.delivThread c = some t → NotAway s c → Happens .copyCommandStart s fun s' =>
        (s'.cluster cl).run = some r.next ∧ s'.acc a.id = none ∧ (∀ k j, ¬(k = c.core ∧ j = c.slot) → s'.thread k j = s.thread k j) ∧
        ∃ t', s'.thread c.core c.slot = some t' ∧ delivFull c t t' (!c.filt && decide (c.n1 * c.n2 ≤ r.next.j)) ∧
          (∀ i < (if c.tile then 4096 else 64), delivByte c t' i =
            if r.landAt ≤ i ∧ i < r.landAt + (r.output a.buf).length then (r.output a.buf).getD (i - r.landAt) 0 else delivByte c t i) ∧
          t' = { t with v := t'.v, m := t'.m, vEmpty := t'.vEmpty, mEmpty := t'.mEmpty, vDue := t'.vDue, mDue := t'.mDue,
                        from_ := t'.from_ }) ∧
      (∀ t x, r.stage = 2 → c.deliv = true → c.void = false → s.delivThread c = some t →
        s.net.spills.find? (fun x => x.core == c.core && x.slot == c.slot && x.phase != 1) = some x → x.phase = 2 →
        Happens .copyCommandStart s fun s' => (s'.cluster cl).run = some r.next ∧ s'.acc a.id = none ∧ (∀ k j, s'.thread k j = s.thread k j) ∧
          { x with fills := x.fills ++ [c.fill r.landAt (r.output a.buf) (!c.filt && decide (c.n1 * c.n2 ≤ r.next.j))] } ∈ s'.net.spills)) ∧
    (∀ r, (s.cluster cl).run = some r → r.acc = none →
      let c := r.cmd
      let ends := fun (s' : State) (e index : Nat) => (s'.cluster cl).run = none ∧ EndsWith c e index (s.core c.core) (s'.core c.core) ∧
        s'.layers = (match r.leave with
          | some id => (s.endLeave id).layers
          | none => s.layers) ∧ s' = { s with cores := s'.cores, clusters := s'.clusters, layers := s'.layers }
      (∀ e, r.failed = some e → Happens .copyComplete s fun s' => ends s' e (r.k * c.l0 + r.at_) ∧ ∀ k j, s'.thread k j = s.thread k j) ∧
      (r.failed = none → c.n1 * c.n2 ≤ r.j → c.deliv = false ∨ c.filt = false → Happens .copyComplete s fun s' =>
        ends s' 0 0 ∧ ∀ k j, s'.thread k j = s.thread k j) ∧
      (∀ t, r.failed = none → c.n1 * c.n2 ≤ r.j → c.deliv = true → c.filt = true → c.void = false → s.delivThread c = some t → NotAway s c →
        let n := r.k * c.dlen
        let good := if c.tile then n ≠ 0 ∧ n % 64 = 0 else n = 64
        Happens .copyComplete s fun s' => (good → ends s' 0 0) ∧ (¬good → ends s' 5 (r.k * c.l0)) ∧
          ∃ t', s'.thread c.core c.slot = some t' ∧ delivFull c t t' true ∧ ∀ i, delivByte c t' i = delivByte c t i))

/-- R142, R143, R196: a soft error in a register of a thread with no region zeroes it, sets it full and makes an imprecise report due; one
in an open region brings the PC to RSTART with the live-in general registers as they were, and the fourth without an IDEND between stops the
thread there with a report of cause 0x0C; one in a common register zeroes it and is reported. An instruction line is asked for until
it has had its turn at its home (R47, R49), or is read over Byand where it is another module's (R65, R211); it then enters the buffer, and its
thread goes on. A read over Byand that has failed stops the thread as a load's failure does (R71, R413). That nothing but an IDEND ends the count is the
model's reading (DEDUCED, log entry 45), and that the line's bytes are those of the step in which it arrives is its choice (DESIGN CHOICE, log entry
18). -/
def Obligations.SoftErrorsAndLineFills : Prop :=
  ∀ s c, s.env.unit = c → isCore c = true →
    (∀ slot n t, s.env.hit = .reg slot .g n → s.thread c slot = some t → n < t.gregs → n < 32 → t.avail ≠ .spilling →
      (t.region = none → t.chain = none → Happens .softError s fun s' => ∃ t', s'.thread c slot = some t' ∧ GotG t t' n (· = 0) ∧
        t'.reports = t.reports ++ [{ cause := 0xD, g1 := BitVec.ofNat 64 n, g2 := 0, g4 := 0, g5 := 0 }] ∧
        t' = { t with g := t'.g, gEmpty := t'.gEmpty, reports := t'.reports }) ∧
      (∀ r, t.region = some r → let softs := (s.life t.tid).softs + 1
        Happens .softError s fun s' => ∃ t', s'.thread c slot = some t' ∧ t'.pc = r.rstart ∧ t'.region = some r ∧ t'.gcnt = 0 ∧
          t'.chain = none ∧ t'.asking = .no ∧ (∀ k < 32, k ≠ 0 → r.mask.getLsbD k = true → t'.gr k = Sparse.get 0 r.g k ∧
            t'.gEmpty.getLsbD k = false) ∧ (∀ k j, ¬(k = c ∧ j = slot) → s'.thread k j = s.thread k j) ∧
          s'.life t.tid = { s.life t.tid with softs := softs, bar := none, inStabw := false, stab := none } ∧
          (softs < 4 → s'.net.msgs = s.net.msgs) ∧
          (4 ≤ softs → t'.avail = .trapped r.rstart false ∧ Reports s s' t.part c
            (reportWords s 0xC (BitVec.ofNat 64 softs) 0 r.rstart 0 (threadWord slot t.tid) c)))) ∧
    (∀ n p, s.env.hit = .common n → s.partOf c = some p → n < 8 → Happens .softError s fun s' =>
      (s'.core c).common n = 0 ∧ (s'.core c).cEmpty.getLsbD n = false ∧ (∀ k j, s'.thread k j = s.thread k j) ∧
        Reports s s' p c (reportWords s 0xD (BitVec.ofNat 64 (n + 96)) 0 0 0 0 c)) ∧
    (∀ slot off t x, s.env.sub = slot → slot < 16 → Sparse.find? (s.core c).fetching slot = some off → s.thread c slot = some t →
      let da := segBase (t.seg 0) + off
      da / 2 ^ 48 = 0 →
      let arrives := fun (s' : State) (w : BitVec 512) => s'.thread c slot = some { t with avail := .rotation, from_ := Nat.max t.from_ (s.now + 1) } ∧
        (∃ l ∈ (s'.core c).ibuf, l.part = t.part ∧ l.base = segBase (t.seg 0) ∧ l.off = off ∧ l.bytes = w) ∧
        Sparse.find? (s'.core c).fetching slot = none
      let far := s.farOf (.line c slot) da
      (far = none → s.isFar c t.part da 64 = true → exec .ifetchLineFill s = .next (s.askFar (.line c slot) .fetch c slot t da 64 0)) ∧
      (∀ a, far = some a → a.back = false → exec .ifetchLineFill s = .next s) ∧
      (∀ a, far = some a → a.back = true → a.failed = none → Happens .ifetchLineFill s fun s' => arrives s' (BitVec.ofNat 512 (bufNat a.buf 0 64))) ∧
      (∀ a st y, far = some a → a.back = true → a.failed = some (st, y) → Happens .ifetchLineFill s fun s' =>
        (∃ t', s'.thread c slot = some t' ∧ t'.avail = .trapped t.pc false) ∧
          Reports s s' t.part c (reportWords s (failTrap st).1 (BitVec.ofNat 64 da) (BitVec.ofNat 64 (failTrap st).2) t.pc 0 (threadWord slot t.tid) c)) ∧
      (far = none → s.isFar c t.part da 64 = false → s.served (.line c slot) c t.part .read [(da, 64)] = false →
        exec .ifetchLineFill s = .next (s.askFor (.line c slot) c t.part .read [(da, 64)])) ∧
      (far = none → s.served (.line c slot) c t.part .read [(da, 64)] = true → s.env.bad = false → Hits s c t.part .read (.read 64) da x → x.home ≠ .host →
        (∀ q, x.home ≠ .egress q) → Happens .ifetchLineFill s fun s' => arrives s' (BitVec.ofNat 512 (s.readLE (s.keyOf t.part) x.loc 64))))

/-- R148, R150, R151: TOKEN_INSERT puts the oldest arrival into a free entry with the next stamp, gives its permit back and lets its emitter go
on, and changes nothing at a full slice; a transfer that has waited 65,536 cycles stops the run with cause 1, and otherwise SLICE_WAIT_TIMEOUT changes nothing. -/
def Obligations.SlicesTakeTokens : Prop :=
  ∀ s p i, s.env.unit = p → s.env.sub = i → p < 64 → i < 4096 →
    let x := (s.aux p).slice i
    (∀ t r, x.inbox = t :: r → x.tokens.length < 4096 → Happens .tokenInsert s fun s' => let x' := (s'.aux p).slice i
      x' = { x with inbox := r, tokens := x.tokens ++ [{ word := t.word, stamp := x.stamp + 1 }], stamp := x.stamp + 1, recv := x.recv + 1,
                    due := true } ∧ (∀ q ∈ s'.net.reqs, q.id ≠ t.req) ∧
        (∀ u, s.thread t.core t.slot = some u → u.tid = t.tid → ∃ u', s'.thread t.core t.slot = some u' ∧ u'.pc = u.pc + 4 ∧
          u'.avail = .rotation ∧ u' = { u with pc := u'.pc, gcnt := u'.gcnt, avail := u'.avail, from_ := u'.from_ }) ∧
        ∀ k j, ¬(k = t.core ∧ j = t.slot) → s'.thread k j = s.thread k j) ∧
    (4096 ≤ x.tokens.length → exec .tokenInsert s = .next s) ∧
    (∀ t ∈ x.inbox, 65536 ≤ t.waited → (s.aux p).run.st = .running → Happens .sliceWaitTimeout s fun s' =>
      (s'.aux p).run.st = .stopped ∧ (s'.aux p).run.cause = 1 ∧ (s'.aux p).run.slice = i ∧ ((s'.aux p).slice i).tokens = x.tokens) ∧
    ((∀ t ∈ x.inbox, t.waited < 65536) → exec .sliceWaitTimeout s = .next s)

/-- R156-R161: a pass that finds one enabled group of the one valid rule removes its tokens and queues its firing with the next ordinal.
FIRE_SEND sends the head of the fire queue to the chosen core, in the context of the run that picked it; where no core of the slice can take it
the run stops with cause 3 and keeps its head until it resumes. -/
def Obligations.PassesPickAndFire : Prop :=
  ∀ s p i, s.env.unit = p → s.env.sub = i → p < 64 → i < 4096 →
    let a := s.aux p
    let x := a.slice i
    (∀ r ts, s.mayPass p i = true → a.run.mode = 0 → a.run.left = none → s.validRules p = [r] → x.rho = r → x.ordinal + 1 < 2 ^ 23 →
      x.fire.length < 15 → firstGroup (s.rule p r) x.tokens = some ts →
      firstGroup (s.rule p r) (x.tokens.filter fun t => !ts.contains t) = none →
      Happens .mortisePass s fun s' => let x' := (s'.aux p).slice i
        x'.tokens = x.tokens.filter (fun t => !ts.contains t) ∧ x'.ordinal = x.ordinal + 1 ∧ x'.rho = r ∧ x'.due = false ∧
        x'.fire = x.fire ++ [{ rule := r, mtype := ruleType (s.rule p r), prio := rulePrio (s.rule p r), run := a.run.number,
                               ordinal := x.ordinal, toks := ts.map (·.word), ctx := a.run.ctx }] ∧
        (s'.aux p).run = { a.run with picked := a.run.picked + 1 } ∧ s'.cores = s.cores) ∧
    (∀ f r, x.fire = f :: r → i < s.sliceCount p →
      let able := ((List.range 8).map (s.sliceCore p i + ·)).filter fun c => ((s.core c).bodyEntry f.mtype).isSome
      (able = [] → a.run.st = .running → Happens .fireSend s fun s' =>
        (s'.aux p).run.st = .stopped ∧ (s'.aux p).run.cause = 3 ∧ (s'.aux p).run.slice = i) ∧
      (a.run.keepsHead i = true → exec .fireSend s = .next s) ∧
      (∀ c, able ≠ [] → a.run.keepsHead i = false → s.lowestLoad (able.filter fun c => ((s.core c).bodyEntry f.mtype).any fun h => s.freeSlotOf c h.supv) = some c →
        Fresh s → Happens .fireSend s fun s' => (s'.aux p).slice i = { x with fire := r, bodies := x.bodies + 1 } ∧
          ∃ m ∈ s'.net.msgs, m.target = c ∧ m.part = p ∧ ∃ life, m.body = .fire f.mtype f.prio
              [BitVec.ofNat 64 f.rule, f.run.setWidth 64, BitVec.ofNat 64 f.ordinal] f.toks life f.ctx.sg f.ctx.fm f.ctx.sc ∧
            life.body = some (i, f.ordinal, 0, f.run.toNat)))

/-- R165-R167, R173: a detection wave of a RUNNING run samples every slice and changes none of them, a later one 256 cycles after the one
before; a second that finds all passive and as many tokens received as sent makes the run STABLE where that still holds as it completes, and
a run with a token in flight, a body that runs or an enabled group is not declared stable; a first does not end the run. In replay
mode a slice is passive only where it has read no head record and its records are used up, and reports WAIT by the head record that it has read
(DEDUCED, log entry 102). -/
def Obligations.WavesDetectStability : Prop :=
  ∀ s p, s.env.unit = p → p < 64 →
    let r := (s.aux p).run
    let quiet := fun (x : Slice) => x.fire = [] ∧ x.bodies = 0 ∧ x.inbox = []
    let still := ((List.range (s.sliceCount p)).map fun i => ((s.aux p).slice i).recv).sum = (s.aux p).sent ∧
      ∀ i < s.sliceCount p, let x := (s.aux p).slice i
        quiet x ∧ s.anyGroup p x = false ∧ (r.mode = 2 → x.logStop = false ∧ x.headRec = none ∧ ∀ c, x.cur = some c → c.len ≤ c.used)
    (r.st = .running → r.wave = none → r.waveDue ≤ s.now → Happens .detectionWaveStart s fun s' =>
      (∃ w, (s'.aux p).run = { r with wave := some w } ∧ w.sent = (s.aux p).sent ∧
        (r.mode ≠ 2 → w.waits = [] ∧
          (w.passive = true ↔ ∀ i < s.sliceCount p, let x := (s.aux p).slice i; quiet x ∧ s.anyGroup p x = false)) ∧
        (r.mode = 2 →
          (w.passive = true ↔ ∀ i < s.sliceCount p, let x := (s.aux p).slice i
            quiet x ∧ s.anyGroup p x = false ∧ x.logStop = false ∧ x.headRec = none ∧ ∀ c, x.cur = some c → c.len ≤ c.used) ∧
          ∀ i, i ∈ w.waits ↔ i < s.sliceCount p ∧ let x := (s.aux p).slice i
            quiet x ∧ x.logStop = false ∧ ∃ h, x.headRec = some h ∧ s.judge p i h = .wait)) ∧
      (∀ i, (s'.aux p).slice i = (s.aux p).slice i) ∧ s' = { s with auxs := s'.auxs }) ∧
    (∀ w, r.wave = some w → r.prev = none → Happens .detectionWaveComplete s fun s' =>
      (s'.aux p).run = { r with wave := none, prev := some w, waveDue := s.now + 256 } ∧ s' = { s with auxs := s'.auxs }) ∧
    (∀ w v, r.wave = some w → r.prev = some v → w.passive = true → v.passive = true → ¬still →
      Happens .detectionWaveComplete s fun s' => (s'.aux p).run = { r with wave := none, prev := some w, waveDue := s.now + 256 } ∧
        s' = { s with auxs := s'.auxs }) ∧
    (∀ w v, r.wave = some w → r.prev = some v → w.sent = w.recv → v.sent = v.recv → w.sent = v.sent → w.passive = true → v.passive = true → still →
      Happens .detectionWaveComplete s fun s' => (s'.aux p).run.st = .stable ∧ (s'.aux p).run.wave = none ∧
        (s'.aux p).run.number = r.number ∧ s'.cores = s.cores)


/-- R17-R22, R81, R418: MODULE_RESET leaves the state after reset with the next system key, no byte of storage listed (that HBM5 is then read
as zero is log entries 3 and 84, and the values of `State.reset` that the manual does not give are log entry 11: DESIGN CHOICE); the boot ROM
takes one image; layers join until
a self-test has failed; the unit events set their MSTAT bits; FULL_SERVICE needs all of them. A change of MSTAT raises the module interrupt. -/
def Obligations.BringUpReachesFullService : Prop :=
  ∀ s : State, (∃ s', exec .moduleReset s = .next s' ∧
      s' = { State.reset with md := s'.md, env := s.env, cur := s'.cur, agenda := s.agenda, fresh := s.fresh, drawn := s.drawn } ∧
      s'.md = { Mod.reset with sysKey := s.md.keys, keys := s.md.keys + 1 }) ∧
    (s.md.image = none → exec .firmwareImageLoad s =
      .next { s with md := { s.md with image := some s.env.bytes, digest := Config.sha384 s.env.bytes } }) ∧
    (s.md.image ≠ none → exec .firmwareImageLoad s = .next s) ∧
    (∀ l, s.env.unit = l → l < 32 → (s.md.fail = false → Happens .layerJoin s fun s' => StatChange s s' ∧ s'.layers = s.layers ∧
        s'.md = { s.md with layerUp := s.md.layerUp ||| (1#32 <<< l) }) ∧ (s.md.fail = true → exec .layerJoin s = .next s)) ∧
    (s.md.full = false → Happens .selfTestFail s fun s' => StatChange s s' ∧ s'.layers = s.layers ∧ s'.md = { s.md with fail := true }) ∧
    (s.md.full = true → exec .selfTestFail s = .next s) ∧
    (Happens .hbm5TrainingDone s fun s' => StatChange s s' ∧ s'.layers = s.layers ∧ s'.md = { s.md with hbmRdy := true }) ∧
    (s.md.edRdy = false → Happens .edramCalibrationDone s fun s' => StatChange s s' ∧ s'.md = { s.md with edRdy := true } ∧
      ∀ l < 32, s'.layer l = { s.layer l with group := 0, winEnd := s.now + 1024 }) ∧
    (Happens .colReady s fun s' => StatChange s s' ∧ s'.layers = s.layers ∧ s'.md = { s.md with colRdy := true }) ∧
    let all := s.md.fail = false ∧ s.md.layerUp = BitVec.allOnes 32 ∧ s.md.hbmRdy = true ∧ s.md.edRdy = true ∧ s.md.colRdy = true
    (s.md.full = false → all → Happens .fullService s fun s' => s'.md = { s.md with full := true, narrow := true } ∧ s'.cores = s.cores ∧
      s'.msix = s.msix ++ [0] ∧ s'.aplic = s.aplic ++ [257]) ∧
    (¬all → exec .fullService s = .next s)

/-- R76-R78, R80, R81, R97, R410: the answers of the SPDM responder and of the aperture; a snapshot in a measurement counts up its partition's
sequence number; Bus Master Enable takes the value that is written. An aperture access to HBM5 enters the crossbar of T0 at port 4416 toward its
home, which performs it under the system key and answers it; one beyond the aperture is answered as an Unsupported Request. That it is one
request to the home of its first byte is the model's choice (DESIGN CHOICE, log entry 96). -/
def Obligations.HostRequestsAreAnswered : Prop :=
  (∀ s : State, Answers .getVersion s (.spdm (.version 0x13)) ∧ Answers .getCapabilities s (.spdm (.capabilities true true true)) ∧
    Answers .negotiateAlgorithms s (.spdm (.algorithms true true true)) ∧
    Answers .getDigests s (.spdm (.digests (Config.sha384 Config.certificateChain))) ∧
    Answers .getCertificate s (.spdm (.certificate Config.certificateChain)) ∧ Answers .spdmUnsupported s (.spdm .unsupportedRequest) ∧
    Answers .hostUnsupportedRequest s .unsupported ∧
    exec .configurationWrite s = .next { s with md := { s.md with bme := s.env.write } } ∧
    (∃ s' n, exec .challenge s = .next s' ∧ s'.ext = .spdm (.challengeAuth (Config.nonce n) (Config.signature n (bytesOf 32 s.env.nonce))) ∧
      s' = { s with ext := s'.ext, drawn := s'.drawn }) ∧
    (s.env.unit = 1 → ∃ s' n g, exec .getMeasurements s = .next s' ∧ s'.ext = .spdm (.measurements [(1, bytesOf 48 s.md.digest)] n g) ∧
      s' = { s with ext := s'.ext, drawn := s'.drawn }) ∧
    (∀ p < 64, s.env.unit = 16 + p → (s.part p).closing = none → ∃ s' n g, exec .getMeasurements s = .next s' ∧
      s'.ext = .spdm (.measurements [(16 + p, snapBytes p (s.part p).epoch s.md.ltc ((s.part p).snaps + 1) (s.part p).meters)] n g) ∧
      s'.part p = { s.part p with snaps := (s.part p).snaps + 1 } ∧ s' = { s with ext := s'.ext, drawn := s'.drawn, parts := s'.parts }) ∧
    let o := s.env.addr.toNat
    let a := s.md.apbase.toNat + o
    let n := s.env.size
    1 ≤ n → n ≤ 64 →
      (2 ^ 32 < o + n → Answers .apertureAccess s .unsupported) ∧
      (o + n ≤ 2 ^ 32 → isHbm (a + n - 1) = true → Happens .apertureAccess s fun s' => ∃ k, s'.net.packets = s.net.packets ++ [k] ∧ k.net = 32 ∧
        k.pos = 4416 ∧ k.stage = 0 ∧ k.hdr.op = (if s.env.write then .write n (if n ≤ 8 then s.env.val.setWidth 512 else BitVec.ofNat 512 (leNat (s.env.bytes.take n))) else .read n) ∧ k.hdr.loc = a ∧
        homeOf a = some k.hdr.home ∧ k.hdr.src = .aperture ∧ k.hdr.expiry = none ∧
        s' = { s with fresh := s.fresh + 1, net := { s.net with packets := s'.net.packets } })) ∧
  ∀ s h c, s.env.home = .hbm c → s.nextAt (.hbm c) = some h → h.src = .aperture → h.expiry = none → s.env.bad = false →
    (∀ n, h.op = .read n → 0 < n → n ≤ 64 → isHbm (h.loc + n - 1) = true → Happens .homeQueuePerform s fun s' =>
      s'.ext = (if n ≤ 8 then .data n (BitVec.ofNat 64 (s.readLE s.md.sysKey h.loc n)) else .wide n (BitVec.ofNat 512 (s.readLE s.md.sysKey h.loc n))) ∧ s'.net.homeQ = s.net.homeQ.filter (·.id != h.id) ∧
      s'.parts = s.parts) ∧
    ∀ n v, h.op = .write n v → 0 < n → isHbm (h.loc + n - 1) = true → ∃ s', exec .homeQueuePerform s = .next s' ∧ s'.ext = .ack ∧
      s'.readLE s.md.sysKey h.loc n = v.toNat % 2 ^ (8 * n) ∧ (∀ b, ¬(h.loc ≤ b ∧ b < h.loc + n) → s'.raw b = s.raw b) ∧
      s'.net.homeQ = s.net.homeQ.filter (·.id != h.id) ∧ s'.parts = s.parts

/-- R10-R16, R382, R419: a governor answers the request of the lowest core: it grants one that its limits allow, with its charge in the totals,
or defers it with a reason that holds (of several, and which request stands first in a cycle: log entries 118 and 97, DESIGN CHOICE); the first
deferred one that fits is granted, past an older one that does not (log entry 97, DESIGN CHOICE; none while the layer is at 95 °C or above: log
entry 68, DEDUCED); a leave ends with its duration; ceilings keep their bounds; a shutdown stops the clocks. -/
def Obligations.GovernorsKeepTheLimits : Prop :=
  ∀ s l, s.env.unit = l → l < 32 →
    let y := s.layer l
    let lv := fun (r : GovReq) => ({ id := s.fresh, part := r.part, charge := r.charge, until_ := some (s.now + 256 * r.dur) } : Leave)
    (∀ r rest c k t, y.asks = r :: rest → (∀ d, s.engineCore l = some d → r.core ≤ d) → r.who = .leave c k t.tid → s.thread c k = some t → t.asking = .asked →
      (s.reason l r = 0 → Happens .governorRequest s fun s' => s'.layer l = { y with asks := rest, leaves := y.leaves ++ [lv r] } ∧
        s'.thread c k = some { t with asking := .answered 1, from_ := Nat.max t.from_ (s.now + 1) }) ∧
      (s.reason l r ≠ 0 → Happens .governorRequest s fun s' => (s'.layer l).asks = rest ∧ (s'.layer l).queue = y.queue ++ [r] ∧
        (s'.layer l).leaves = y.leaves ∧ (s'.layer l).lastr = BitVec.ofNat 3 (s.reason l r) ∧
        (s'.layer l).lvdef = (if y.lvdef = 0xFFFF then 0xFFFF else y.lvdef + 1) ∧ (s'.layer l).impdef = y.impdef ∧
        ∃ w : Word, s'.thread c k = some { t with asking := .answered w, from_ := Nat.max t.from_ (s.now + 1) } ∧
          w.toNat % 16 = 2 * s.reason l r)) ∧
    (∀ c p w rest, s.engineCore l = some c → (∀ r, y.asks.head? = some r → c < r.core) → (s.core c).govIn = (p, w) :: rest →
      (s.core c).govHeld = [] → (s.core c).govQ.length < 8 →
      let r : GovReq := { who := .engine c, core := c, part := p, charge := w.toNat / 2 ^ 16 % 2 ^ 12, dur := w.toNat % 2 ^ 12 }
      s.reason l r = 0 → Happens .governorRequest s fun s' => s'.layer l = { y with leaves := y.leaves ++ [lv r] } ∧
        s'.core c = { s.core c with govIn := rest, govQ := (s.core c).govQ ++ [1] }) ∧
    (∀ r c, y.queue.find? (fun r => s.reason l r == 0) = some r → r.who = .engine c → (s.core c).govHeld = [] → (s.core c).govQ.length < 8 →
      Happens .deferredGrant s fun s' => s'.layer l = { y with queue := y.queue.erase r, leaves := y.leaves ++ [lv r] } ∧
        s'.core c = { s.core c with govQ := (s.core c).govQ ++ [1] }) ∧
    (Happens .leaveExpiry s fun s' => LayerOnly s s' l ∧ ∃ lv', s'.layer l = { y with leaves := lv' } ∧
      ∀ v, v ∈ lv' ↔ v ∈ y.leaves ∧ ∀ u, v.until_ = some u → s.now < u) ∧
    (let c := s.env.val.toNat % 4096;
      (c ≤ 2400 → s.ceilSum - y.ceil.toNat + c ≤ 60000 → Happens .pwrceilWrite s fun s' =>
        LayerOnly s s' l ∧ s'.layer l = { y with ceil := BitVec.ofNat 12 c }) ∧
      (2400 < c ∨ 60000 < s.ceilSum - y.ceil.toNat + c → exec .pwrceilWrite s = .next s)) ∧
    (Happens .thermalLimit s fun s' => LayerOnly s s' l ∧ s'.layer l = { y with hotDie := true }) ∧
    (Happens .thermalLimitCleared s fun s' => LayerOnly s s' l ∧ s'.layer l = { y with hotDie := false }) ∧
    ∃ s', exec .thermalShutdown s = .next s' ∧ s'.md = { s.md with shutdown := true } ∧ s'.ext = .fatal ∧ s'.msix = s.msix ++ [0] ∧
      s'.cores = [] ∧ s'.parts = [] ∧ s'.mem = []

/-- R26, R27, R29-R32: a KMAP write is pending and reads back; a pending write is judged at a frame boundary; the oldest waiting store has
an entry of a queue with room kept for it, and its thread issues it from the next cycle on (DESIGN CHOICE, log entry 100); a kerf broadcasts the head of the queue of the pair that owns it; once a kerf has passed
no die has still to take a write of 4 kerfs before it; a die applies the write, or logs it asleep; a die
under reload applies it, asleep too, and keeps its line (DEDUCED, log entry 67). -/
def Obligations.TheColCarriesWrites : Prop :=
  ∀ s tw, s.env.unit = tw → tw < 4 →
    let y := s.tower tw
    (s.env.sub < 64 → Happens .kmapWrite s fun s' => TowerOnly s s' tw ∧ (s'.tower tw).readKmap s.env.sub = (s.env.val.setWidth 10).setWidth 64 ∧
      s'.tower tw = { y with pending := (s'.tower tw).pending }) ∧
    (∀ k e, y.pending = [(k, e)] → y.kerf % 64 = 0 →
      (kmapValid (y.entry k) = false → Happens .kmapApply s fun s' => TowerOnly s s' tw ∧ (s'.tower tw).entry k = e ∧
        (∀ j, j ≠ k → (s'.tower tw).entry j = y.entry j) ∧ s'.tower tw = { y with kmap := (s'.tower tw).kmap, pending := [] }) ∧
      (kmapValid (y.entry k) = true → y.queue (kmapPair (y.entry k)) ≠ [] → kmapValid e = false →
        mapHolds (applyMap y.kmap y.pending) (kmapPair (y.entry k)) = false →
        Happens .kmapApply s fun s' => TowerOnly s s' tw ∧ s'.tower tw = { y with pending := [], kbusy := true })) ∧
    (∀ w r, y.waiting = w :: r → w.ok = false → w ∉ r → (∀ x ∈ r, x.before w = false) →
      let q := 8 * w.w.part + w.w.layer
      ((y.queue q).length + (r.filter fun x => x.ok && x.w.pair == q).length < 16 → Happens .colWriteAccept s fun s' =>
        TowerOnly s s' tw ∧ s'.tower tw = { y with waiting := { w with ok := true } :: r }) ∧
      (r = [] → 16 ≤ (y.queue q).length → exec .colWriteAccept s = .next s)) ∧
    (y.kerf % 64 ≠ 0 → y.order = [] → y.replay = 0 → let e := y.entry (y.kerf % 64)
      (kmapValid e = false → Happens .kerfTransmit s fun s' => TowerOnly s s' tw ∧ s'.tower tw = { y with kerf := y.kerf + 1 }) ∧
      (∀ w r, kmapValid e = true → y.queue (kmapPair e) = w :: r → Happens .kerfTransmit s fun s' =>
        (s'.tower tw).order = [{ w with kerf := y.kerf }] ∧ (s'.tower tw).queue (kmapPair e) = r ∧ (s'.tower tw).kerf = y.kerf + 1)) ∧
    (∃ s', exec .kerfTransmit s = .next s' ∧ ∀ d < 9, ∀ w, (s'.tower tw).order[(s'.tower tw).taken d]? = some w → y.kerf < w.kerf + 4) ∧
    (∀ d w, s.env.sub = d → y.order[y.taken d]? = some w →
      (d = 8 → ∃ s', exec .colApply s = .next s' ∧ CopyHolds s s' tw d w) ∧
      (d < 8 → y.awake.getLsbD d = true → y.reload.getLsbD d = false → y.stale.getLsbD d = false → y.replay.getLsbD d = false →
        ∃ s', exec .colApply s = .next s' ∧ CopyHolds s s' tw d w) ∧
      (d < 8 → y.reload.getLsbD d = true → ∃ s', exec .colApply s = .next s' ∧ CopyHolds s s' tw d w ∧
        w.off / 64 ∈ Sparse.get [] (s'.tower tw).fresh d) ∧
      (d < 8 → y.reload.getLsbD d = false → y.awake.getLsbD d = false → y.stale.getLsbD d = false → Sparse.get 0 y.logged d < 1024 → Happens .colApply s fun s' =>
        Sparse.get [] (s'.tower tw).catchup d = Sparse.get [] y.catchup d ++ [w] ∧ (s'.tower tw).stale = y.stale))

/-- R36-R40, R420: LSLEEP bits are set and cleared by their writes; an idle layer sleeps, but not one of a slice whose pass is due or in progress (log entry 99,
DEDUCED), and one whose bit is cleared or for which something
waits wakes, at a frame boundary; a replay writes the logged writes in order, two in a kerf, and ends when none is left; COLRLD starts reloads of
stale awake dies alone (one under way goes on: log entry 67, DEDUCED), and a reload, once the Carcass copy and the
die have taken what was transmitted, leaves the Carcass copy's bytes in every line that is not fresh. -/
def Obligations.LayersSleepReplayAndReload : Prop :=
  (∀ s tw, s.env.unit = tw → tw < 4 →
    let y := s.tower tw
    let v : BitVec 8 := s.env.val.setWidth 8
    (Happens .lsleepSleep s fun s' => TowerOnly s s' tw ∧ s'.tower tw = { y with sleep := y.sleep ||| v }) ∧
    (Happens .lsleepWake s fun s' => TowerOnly s s' tw ∧ s'.tower tw = { y with sleep := y.sleep &&& ~~~v }) ∧
    (Happens .colrldWrite s fun s' => TowerOnly s s' tw ∧ (∀ d < 8, (s'.tower tw).reload.getLsbD d =
        (y.reload.getLsbD d || (v.getLsbD d && y.stale.getLsbD d && y.awake.getLsbD d))) ∧
      s'.tower tw = { y with reload := (s'.tower tw).reload, fresh := (s'.tower tw).fresh }) ∧
    (∀ d w x r, d < 8 → y.replay = 1#8 <<< d → Sparse.get [] y.catchup d = w :: x :: r → y.kerf % 64 ≠ 0 → y.order = [] →
      kmapValid (y.entry (y.kerf % 64)) = false → ∃ s1 s', exec .kerfTransmit s = .next s' ∧ CopyHolds s s1 tw d w ∧ CopyHolds s1 s' tw d x ∧
        Sparse.get [] (s'.tower tw).catchup d = r ∧ (s'.tower tw).replay = y.replay)) ∧
  ∀ s l, s.env.unit = l → l < 32 →
    let tw := l / 8
    let i := l % 8
    let y := s.tower tw
    (y.kerf % 64 = 0 → y.sleep.getLsbD i = true → s.layerLive l = true → s.layerIdle l = true →
      (∃ s', exec .layerSleep s = .next s' ∧ (s'.tower tw).awake = y.awake &&& ~~~(1#8 <<< i)) ∧
      (y.order = [] → Happens .layerSleep s fun s' => TowerOnly s s' tw ∧ (s'.tower tw).awake = y.awake &&& ~~~(1#8 <<< i))) ∧
    (∀ e ∈ s.auxs, ∀ x ∈ e.2.slices, s.passing e.1 x.1 = true → ((s.sliceClusters e.1)[x.1]?.any fun cl => cl / 128 == l) = true →
      exec .layerSleep s = .next s) ∧
    (y.kerf % 64 ≠ 0 → exec .layerSleep s = .next s ∧ exec .layerWake s = .next s) ∧
    (y.kerf % 64 = 0 → y.awake.getLsbD i = false → y.sleep.getLsbD i = false ∨ s.itemsFor l = true → y.stale.getLsbD i = false →
      y.order = [] → Happens .layerWake s fun s' => TowerOnly s s' tw ∧ (s'.tower tw).awake = y.awake ||| (1#8 <<< i) ∧
        (s'.tower tw).sleep = y.sleep &&& ~~~(1#8 <<< i) ∧ (s'.tower tw).replay.getLsbD i = decide (Sparse.get [] y.catchup i ≠ [])) ∧
    (Happens .colReplayDone s fun s' => TowerOnly s s' tw ∧
      s'.tower tw = if Sparse.get [] y.catchup i = [] then { y with replay := y.replay &&& ~~~(1#8 <<< i) } else y) ∧
    (y.reload.getLsbD i = true → s.Inv →
      let u := (s.dieFlush tw 8).dieFlush tw i
      (y.order = [] → u = s) ∧ ∃ s', exec .colReloadDone s = .next s' ∧
      (∀ o < 2 ^ 20, s'.raw (colLoc tw i o) =
        if (Sparse.get [] (u.tower tw).fresh i).contains (o / 64) then u.raw (colLoc tw i o) else u.raw (colLoc tw 8 o)) ∧
      (∀ a, ¬(colLoc tw i 0 ≤ a ∧ a < colLoc tw i (2 ^ 20)) → s'.raw a = u.raw a) ∧
      (s'.tower tw).stale = y.stale &&& ~~~(1#8 <<< i) ∧ (s'.tower tw).reload = y.reload &&& ~~~(1#8 <<< i))


/-- R50, R53, R64, R67, R71, R72, R74, R75: retransmissions and refusals count at their port; an admitted message or N-form goes to its core
and an admitted request enters the network with its expiry, its members and its mark, each noted with its source; a packet of no partition is
refused, with a BYREFUSE reply, and counts, whatever it is (log entry 95, DEDUCED), also past its lease (log entry 121, DESIGN CHOICE), and an admitted one past its
lease is rejected; a switch puts the headers of a cycle in the order of their ports, then queues,
combines and passes them on, and splits a combined reply; a request or
message past its time is lost and counts, and what hardware has sent for itself has that as its reply; a link that falls loses what has left on it; and BYID is set once. Which partition admits a packet where several
could, and what admits an N-form, are the model's choice (log entries 72 to 74, DESIGN CHOICE), as is that the LTC counts the timeout (log
entry 104) and that a loss counts at the port by which the packet left (log entry 105). -/
def Obligations.ByandCarriesAndCounts : Prop :=
  ∀ s q, s.env.unit = q →
    let sat := fun v : BitVec 16 => if v = 0xFFFF then v else v + 1
    let k := s.env.pkt
    let fresh := ∀ x, k.expiry = some x → s.md.ltc.toNat < x
    let note := fun (s' : State) (p n : Nat) =>
      s'.by_.inside = s.by_.inside ++ [{ id := s.fresh, src := k.src.toNat, part := p, bytes := n }]
    (q < 64 →
      (Happens .flitRetransmit s fun s' => PortOnly s s' q fun x => { x with retry := sat x.retry }) ∧
      (s.admits k = none → Happens .byandIngress s fun s' =>
        let u : State := { s with by_ := { s.by_ with sentOut := s.by_.sentOut ++ [(k.src.toNat, .byrefuse, 0)] } }
        PortOnly u s' q fun x => { x with refuse := sat x.refuse }) ∧
      (∀ p x, s.admits k = some p → k.expiry = some x → x ≤ s.md.ltc.toNat → Happens .byandIngress s fun s' =>
        s' = { s with by_ := { s.by_ with sentOut := s.by_.sentOut ++ [(k.src.toNat, .expired, 0)] } }) ∧
      (∀ p c ty g v, s.admits k = some p → k.body = .msg c ty g v → fresh → Happens .byandIngress s fun s' =>
        Tells s s' (.byand q) p c (.table ty g v) ∧ note s' p 0 ∧ s'.cores = s.cores) ∧
      (∀ p c slot tid kind reg v, s.admits k = some p → k.body = .fill c slot tid kind reg v → fresh → Happens .byandIngress s fun s' =>
        Tells s s' (.byand q) p c (.fill slot tid kind reg v) ∧ note s' p 0 ∧ s'.cores = s.cores) ∧
      (∀ p addr o w v ch, s.admits k = some p → k.body = .mem addr (.upd o w v) → homeOf addr = some (.hbm ch) → fresh →
        Happens .byandIngress s fun s' => Tells s s' (.byand q) p (chanCore ch) (.update addr o w v k.expiry 0) ∧ note s' p 0 ∧ s'.cores = s.cores) ∧
      (∀ p addr op h, s.admits k = some p → k.body = .mem addr op → opUpd op = false → homeOf addr = some h → fresh →
        Happens .byandIngress s fun s' => note s' p (opReplies op * (k.extra + 1)) ∧ ∃ x, s'.net.packets = s.net.packets ++ [x] ∧
          x.net = 32 + q / 16 ∧ x.pos = 4208 + q % 16 ∧ x.stage = 0 ∧
          x.hdr = { id := s.fresh, part := p, op := op, loc := addr, home := h, dest := 0, expiry := k.expiry,
                    uncmb := (s.part p).cmboff || k.noCombine, mems := [s.fresh], extra := k.extra, src := .cluster }) ∧
      ((s.port q).up = true → Happens .linkDown s fun s' => (s'.port q).up = false ∧ (∀ j, j ≠ q → s'.port j = s.port j) ∧
        s'.by_.out = s.by_.out.map (fun o => if o.port = q then { o with lost := true } else o) ∧
        s'.net.msgs = s.net.msgs.map (fun m => if m.away.any (fun w => w.1 == q && w.2.2.isSome) then { m with lost := true } else m) ∧
        s' = { s with by_ := { s.by_ with ports := s'.by_.ports, out := s'.by_.out }, net := { s.net with msgs := s'.net.msgs },
                      msix := s'.msix, aplic := s'.aplic } ∧ s'.msix = s.msix ++ [0] ∧ s'.aplic = s.aplic ++ [257]) ∧
      ((s.port q).up = false → exec .linkDown s = .next s) ∧
      (Happens .linkReturn s fun s' => PortOnly s s' q (fun x => { x with up := true }) ∧ s'.msix = s.msix)) ∧
    (let h := s.env.hdr
     let l := Sparse.get [] s.by_.queues q
     let come := s.byArrived q
     (s.env.write = false → come.1 = s.now → Happens .byandSwitchHeader s fun s' =>
       s' = { s with by_ := { s.by_ with arrived := s'.by_.arrived } } ∧ ∃ a b, come.2 = a ++ b ∧ s'.byArrived q = (s.now, a ++ h :: b) ∧
         (∀ x ∈ a, x.ingress ≤ h.ingress) ∧ ∀ x ∈ b.head?, h.ingress < x.ingress) ∧
     (s.env.write = false → come.1 ≠ s.now →
       ((∀ g ∈ come.2, ∀ x ∈ l, mayCombineBy x.2 g = false) → come.2.Pairwise (fun x g => mayCombineBy x g = false) →
         Happens .byandSwitchHeader s fun s' => s'.byArrived q = (s.now, [h]) ∧
           Sparse.get [] s'.by_.queues q = l ++ come.2.map (fun g => (come.1, g)) ∧ s'.by_.waits = s.by_.waits) ∧
       (∀ x g, l = [x] → come.2 = [g] → mayCombineBy x.2 g = true → (∀ w ∈ s.by_.waits, w.1 ≠ q) → Happens .byandSwitchHeader s fun s' =>
         s'.byArrived q = (s.now, [h]) ∧
           (∃ y, Sparse.get [] s'.by_.queues q = [(x.1, y)] ∧ y.value = amoApply x.2.op x.2.width x.2.value g.value ∧ y.request = s.fresh ∧
             y.count = x.2.count + g.count) ∧
           s'.by_.waits = s.by_.waits ++ [(q, s.fresh, x.2, g)])) ∧
     (s.env.write = true → come.1 = s.now ∨ come.2 = [] → ∀ x r, l = x :: r → Happens .byandSwitchHeader s fun s' =>
       Sparse.get [] s'.by_.queues q = r ∧ s'.by_.passed = s.by_.passed ++ [(q, x.2)]) ∧
     (s.env.write = true → ∀ w, s.by_.waits.find? (·.2.1 == q) = some w → Happens .replySplit s fun s' =>
       s'.by_.waits = s.by_.waits.filter (·.2.1 != q) ∧ ∃ second : Vec, s'.by_.split = s.by_.split ++
         [(w.2.2.1.request, s.env.remote.status, s.env.remote.value), (w.2.2.2.request, s.env.remote.status, second)] ∧
         (w.2.2.1.op = .add → second.toNat = (s.env.remote.value.toNat + w.2.2.1.value.toNat) % 2 ^ Nat.min 64 (8 * w.2.2.1.width)))) ∧
    (∀ o, s.by_.out.find? (·.req == q) = some o →
      (o.sent + 2 ^ s.by_.tmo.toNat * 1000 ≤ s.md.ltc.toNat → Happens .byandTimeout s fun s' =>
        s'.by_.out = s.by_.out.filter (·.req != q) ∧ (s'.port o.port).lost = sat (s.port o.port).lost ∧
        (o.hdr.src ≠ .direct → s'.net.replies = s.net.replies ++ [{ id := q, status := .bylost, val := 0 }]) ∧
        (o.hdr.src = .direct → ∀ k, s.net.tickets = [k] → k.id = q → k.key ≠ .over →
          s'.net.tickets = [{ k with st := .done, got := some (.bylost, 0) }])) ∧
      (s.md.ltc.toNat < o.sent + 2 ^ s.by_.tmo.toNat * 1000 → exec .byandTimeout s = .next s) ∧
      (o.lost = true → s.net.hostOut = [] → s.net.replies = [] → exec .accessReply s = .next s)) ∧
    (∀ m e dest sent, s.by_.out.find? (·.req == q) = none → s.net.msgs.find? (·.id == q) = some m → m.away = some (e, dest, some sent) →
      sent + 2 ^ s.by_.tmo.toNat * 1000 ≤ s.md.ltc.toNat → Fresh s → Happens .byandTimeout s fun s' => Gone s' m ∧
        (s'.port e).lost = sat (s.port e).lost) ∧
    (s.by_.set = false → exec .byidWrite s = .next { s with by_ := { s.by_ with mod_ := s.env.val.setWidth 22, set := true } }) ∧
    (s.by_.set = true → exec .byidWrite s = .next s)

/-- R73, R216, R218, R418: a beacon within bound steers the LTC, forward in one step or by holding it (the pace of steering is the model's
choice: log entry 90, DESIGN CHOICE), which ends as it is reached; one beyond the bound sets SKEW, which the second good one clears, and sets an
LTC that is behind forward (after the first beacon since reset the model's choice, log entry 90); 64 µs without a beacon set SKEW, counted once
the module has its number (log entry 75, DESIGN CHOICE); only the master sends. A
pulse of a layer whose copy is off empties its buffer and sets its TSTAT bit with the module interrupt. An entry whose lease has expired goes, and
its counter is added into its shadow word, at once (log entry 116, DESIGN CHOICE). -/
def Obligations.TimeIsKept : Prop :=
  ∀ s : State, let d := s.env.offset
    (s.by_.isMaster = true → exec .timeBeacon s = .next s ∧ exec .beaconLoss s = .next s ∧
      exec .beaconSend s = .next { s with by_ := { s.by_ with beacons := s.by_.beacons + 1 } }) ∧
    (s.by_.isMaster = false → exec .beaconSend s = .next s ∧
      (s.by_.set = true → 64 ≤ s.by_.missed →
        exec .beaconLoss s = .next { s with by_ := { s.by_ with skew := true, goodBeacons := 0, missed := 0 } }) ∧
      (s.by_.set = false ∨ s.by_.missed < 64 → exec .beaconLoss s = .next s) ∧
      (d.natAbs ≤ 128 → Happens .timeBeacon s fun s' =>
        (s.by_.skew = false → s'.by_ = { s.by_ with beacons := s.by_.beacons + 1, missed := 0 }) ∧
        (s.by_.skew = true → s'.by_ = if 1 ≤ s.by_.goodBeacons
          then { s.by_ with beacons := s.by_.beacons + 1, missed := 0, skew := false, goodBeacons := 0 }
          else { s.by_ with beacons := s.by_.beacons + 1, missed := 0, goodBeacons := s.by_.goodBeacons + 1 }) ∧
        s'.md = if d < 0 then { s.md with hold := d.natAbs } else { s.md with ltc := s.md.ltc + BitVec.ofNat 64 d.natAbs, hold := 0 }) ∧
      (128 < d.natAbs → Happens .timeBeacon s fun s' =>
        s'.by_ = { s.by_ with beacons := s.by_.beacons + 1, missed := 0, skew := true, goodBeacons := 0 } ∧
        s'.md = if d < 0 then { s.md with hold := d.natAbs } else { s.md with ltc := s.md.ltc + BitVec.ofNat 64 d.natAbs, hold := 0 })) ∧
    ∀ l, s.env.unit = l → l < 32 →
      (16 < d.natAbs ∨ s.by_.skew = true → ∃ s', exec .translationPulse s = .next s' ∧ (s'.layer l).llt = [] ∧ (s'.layer l).skewed = 2 ∧
        s'.md = { s.md with tstat := s.md.tstat ||| (1#32 <<< l), benchLr := s'.md.benchLr } ∧ s'.msix = s.msix ++ [0] ∧
        s'.aplic = s.aplic ++ [257]) ∧
      (d.natAbs ≤ 16 → s.by_.skew = false → Happens .translationPulse s fun s' =>
        LayerOnly s s' l ∧ s'.layer l = { s.layer l with skewed := (s.layer l).skewed - 1 }) ∧
      (∀ x, (s.layer l).llt[s.env.sub]? = some x →
        (x.expiry ≤ s.md.ltc.toNat → ∃ s', exec .hotnessFlush s = .next s' ∧ (s'.layer l).llt = (s.layer l).llt.eraseIdx s.env.sub ∧
          let off := 8 * ((s.aux x.part).ptshad.toNat / 8 % 2 ^ 39)
          let a := (x.leafAt + off) % 2 ^ 42
          if off ≠ 0 ∧ x.hot ≠ 0 ∧ isHbm (a + 7) = true then BytesAt s s' a 8 (BitVec.ofNat 512 ((s.readLE 0 a 8 + x.hot) % 2 ^ 64))
          else ∀ b, s'.raw b = s.raw b) ∧
        (s.md.ltc.toNat < x.expiry → exec .hotnessFlush s = .next s))

/-- R49, R53, R208, R220, R223, R227, R235: a lone header passes a switch toward its destination, and a crossbar output then has served its
partition; a combined reply splits; the oldest entry of a near buffer enters the loop-back port, and reaches the banks in its turn; refresh
windows turn; a reservation lapses 1,024 cycles after its LR; a fault that waits enters the fault queue. That a drained entry joins the end
of its home's queue is the model's reading (DEDUCED, log entry 89). -/
def Obligations.NetworkAndStorageEvents : Prop :=
  (∀ s net stage sw (p : Packet), s.env.unit = net → s.env.sub = stage → s.env.third = sw → net < 36 → sw < (if net < 32 then 1024 else 4096) →
    stage + 1 < (if net < 32 then 11 else 13) → s.net.packets = [p] → p.net = net → p.stage = stage → p.queued = false →
    (rotlPort (stagesOf net) p.pos) / 2 = sw → Happens .switchHeaderArrival s fun s' =>
      s'.net.packets = [{ p with stage := stage + 1, pos := 2 * sw + p.dst / 2 ^ (stagesOf net - 1 - stage) % 2, queued := false }] ∧
      (32 ≤ net → let out := (net, stage, 2 * sw + p.dst / 2 ^ (stagesOf net - 1 - stage) % 2)
        s'.net.turns.find? (·.1 == out) = some (out, p.hdr.part))) ∧
  (∀ s (e : WaitEntry) r, s.env.write = false → s.net.waits = [e] → s.env.unit = e.id → s.net.replies = [r] → r.id = e.comb → Happens .replySplit s fun s' =>
    s'.net.waits = [] ∧ ∃ x y, s'.net.replies = [x, y] ∧ x.id = e.first ∧ x.val = r.val ∧ y.id = e.second ∧
      (e.op = .add → y.val.toNat = (r.val.toNat + e.v0.toNat) % 2 ^ Nat.min 64 (8 * e.w)) ∧
      (e.op = .swap → y.val.toNat = e.v0.toNat % 2 ^ (8 * e.w))) ∧
  (∀ s c (e : NearEntry) r, s.env.unit = c → isCore c = true → (s.core c).near = e :: r → s.net.accs = [] →
    Happens .nearBufferDrain s fun s' => (s'.core c).near = r ∧
      s'.net.homeQ = s.net.homeQ ++ [e.header c ((s.partOf c).getD 0)]) ∧
  (∀ s c p (e : NearEntry), s.env.home = .spad c → s.homeLive (.spad c) = true → s.nextAt (.spad c) = some (e.header c p) →
    ∃ s', exec .homeQueuePerform s = .next s' ∧ BytesAt s s' (spadLoc c e.off) e.n e.val ∧
      s'.net.homeQ = s.net.homeQ.filter (·.id != e.id)) ∧
  (∀ s l, s.env.unit = l → l < 32 → s.md.edRdy = true →
    ((s.layer l).winEnd ≤ s.now → Happens .edramRefreshWindow s fun s' => LayerOnly s s' l ∧
      s'.layer l = { s.layer l with group := ((s.layer l).group + 1) % 64, winEnd := s.now + 1024 }) ∧
    (s.now < (s.layer l).winEnd → exec .edramRefreshWindow s = .next s)) ∧
  (∀ s c k t a at_, s.env.unit = c → isCore c = true → s.env.sub = k → k < 16 → s.thread c k = some t → t.resv = some (a, at_) →
    Happens .reservationExpiry s fun s' => s'.thread c k = some { t with resv := if at_ + 1024 ≤ s.now then none else some (a, at_) }) ∧
  ∀ s p r rest, s.env.unit = p → p < 64 → (s.aux p).fqWait = r :: rest → (s.aux p).fq.length < 64 → Happens .faultRecordEnqueue s fun s' =>
    (s'.aux p).fqWait = rest ∧ (s'.aux p).fq = (s.aux p).fq ++ [r] ∧ s'.cores = s.cores


/-- R86, R87, R100-R102, R207, R220: a PART write that enables an idle partition over free cores starts its next epoch with zero meters, a
new key and cleared cores, and one to an enabled partition sets PERR; PCMD's commands reset or tear down an enabled partition, and finish.
That a write which leaves PART as it is sets no PERR, also while a command is in progress, is the model's reading (log entry 46, DEDUCED);
that a reset takes effect in one step is its choice (log entry 32, DESIGN CHOICE). -/
def Obligations.PartitionsAreEnabledAndReset : Prop :=
  ∀ s p, s.env.unit = p → p < 64 →
    let x := s.part p
    let v := s.env.val
    let base := v.toNat % 2 ^ 15
    let len := v.toNat / 2 ^ 16 % 2 ^ 16
    (v.getLsbD 32 = true → x.en = false → x.busy = false → 0 < len → base + len ≤ 32768 → s.overlapsPart base len = false →
      Happens .partWrite s fun s' => (∃ k, s'.part p =
          { x with base := base, len := len, en := true, det := v.getLsbD 33, hostirq := v.getLsbD 34, epoch := x.epoch + 1, meters := [],
                   frozen := false, closing := none, key := some k }) ∧
        (∀ c, base ≤ c → c < base + len → (s'.core c).c = [] ∧ (s'.core c).cEmpty = 0 ∧ (s'.core c).vec = [] ∧ (s'.core c).ibuf = []) ∧
        ∀ q, q ≠ p → s'.part q = s.part q) ∧
    (x.en = true ∨ x.busy = true → base ≠ x.base ∨ len ≠ x.len ∨ v.getLsbD 32 ≠ x.en ∨ v.getLsbD 33 ≠ x.det →
      Happens .partWrite s fun s' => PartWritten s s' p { x with perr := true }) ∧
    (base = x.base → len = x.len → v.getLsbD 32 = x.en → v.getLsbD 33 = x.det → Happens .partWrite s fun s' => PartWritten s s' p x) ∧
    (x.en = true → x.busy = false →
      (∃ s', exec .partitionReset s = .next s' ∧ PartReset s s' p ∧ (s'.part p).en = true ∧ (s'.part p).key = x.key) ∧
      ∃ s', exec .partitionTeardown s = .next s' ∧ PartReset s s' p ∧ (s'.part p).en = false ∧ (s'.part p).key = none ∧
        (s'.part p).frozen = true ∧ (s'.part p).closing ≠ none) ∧
    (x.en = false ∨ x.busy = true → ∀ i ∈ [Instr.partitionReset, .partitionTeardown], Happens i s fun s' =>
      PartOnly s s' p ∧ s'.part p = { x with perr := true }) ∧
    (x.busy = true → Happens .partitionResetDone s fun s' => s'.part p = { x with busy := false, done := true, tearing := false }) ∧
    (x.busy = false → exec .partitionResetDone s = .next s) ∧
    (∀ r rest, (s.aux p).fq = r :: rest → Happens .fq1Read s fun s' => s'.ext = .data 8 r.word1 ∧ (s'.aux p).fq = rest ∧ s'.parts = s.parts) ∧
    (x.launches = [] → Happens .edctlLoad s fun s' => (s'.aux p).loadSt = true ∧ s'.parts = s.parts) ∧
    (x.launches ≠ [] → Happens .edctlLoad s fun s' => PartOnly s s' p ∧ s'.part p = { x with perr := true })

/-- R45, R75, R76, R82, R83, R92, R306, R416: a host request through BAR0 reads a device control register, or writes it where it is 8 bytes
wide and aligned, and has no effect where no register is; one past the 16 MiB of BAR0 is an Unsupported Request; firmware's write of the egress table redirects a port (log entry 83, DESIGN
CHOICE). A bench access to memory crosses the crossbar and is performed at its home under its tag's key; one to a register of DA space 0xE
reads or writes it; an atomic on host memory, and what its tag or address does not reach, end in an access fault. That a bench access is one
request to the home of its first byte, and what an address without a register does, are the model's (log entries 85 and 58, DESIGN CHOICE
and DEDUCED), as is that an AMO, LR or SC to a register is the plain read or write (log entry 109, DESIGN CHOICE). What a read gives that is not naturally aligned, and that the host pops after the bench cores of the cycle, are its choice (log
entries 81 and 82, DESIGN CHOICE). -/
def Obligations.RegistersAndBenchAccesses : Prop :=
  (∀ s : State, let o := s.env.addr.toNat
    let n := s.env.size
    ((∀ q, s.env.home ≠ .egress q) → 2 ^ 24 ≤ o ∨ 2 ^ 24 < o + n → Answers .registerWrite s .unsupported) ∧
    ((∀ q, s.env.home ≠ .egress q) → o < 2 ^ 24 → o + n ≤ 2 ^ 24 →
      (s.env.write = true → (∀ r, n = 8 → o % 8 = 0 → regAt o = some r → exec .registerWrite s = .next (s.writeWord 16 s.env.val r)) ∧
        (n ≠ 8 ∨ o % 8 ≠ 0 ∨ regAt o = none → exec .registerWrite s = .next s) ∧
        (n = 8 → o = 0x200 → exec .registerWrite s = .next { s with md := { s.md with apbase := s.env.val &&& 0x3FFFFFF0000 } }) ∧
        (n = 8 → o = 0x73000 → exec .registerWrite s = .next { s with md := { s.md with tstat := s.md.tstat &&& ~~~(s.env.val.setWidth 32) } }) ∧
        (o = 0x100 → exec .registerWrite s = .next s)) ∧
      (s.env.write = false →
        (∀ r, regAt (o / 8 * 8) = some r → (∀ p, r ≠ .cqpop p ∧ r ≠ .fq1 p) → o % 8 + n ≤ 8 → exec .registerWrite s =
          .next { s with ext := .data n (BitVec.ofNat 64 ((s.regWord r).toNat / 2 ^ (8 * (o % 8)) % 2 ^ (8 * n))) }) ∧
        (∀ p, regAt (o / 8 * 8) = some (.cqpop p) → n < 8 → exec .registerWrite s = .next { s with ext := .data n 0 }) ∧
        (∀ p old w r, regAt (o / 8 * 8) = some (.cqpop p) → n = 8 → (s.part p).cq = old ++ w :: r → old.length = s.cqPlace p 16 →
          Happens .registerWrite s fun s' => s'.ext = .data 8 w ∧ s'.part p = { s.part p with cq := old ++ r }) ∧
        (regAt (o / 8 * 8) = none → exec .registerWrite s = .next { s with ext := .data n 0 }))) ∧
    ∀ q, s.env.home = .egress q → Happens .registerWrite s fun s' => s'.egressPort q = s.env.val.toNat % 64 ∧
      (∀ k, k ≠ q → s'.egressPort k = s.egressPort k) ∧ s' = { s with by_ := { s.by_ with egress := s'.by_.egress } }) ∧
  (∀ s i n, s.env.unit = i → i < 16 → s.env.size = n → n = 1 ∨ n = 2 ∨ n = 4 ∨ n = 8 →
    let a := s.env.addr.toNat
    let tag := s.benchTag i
    let p := tag.toNat % 64
    let op := s.env.op.getD (if s.env.write then .write n (s.env.val.setWidth 512) else .read n)
    (isHbm (a + n - 1) = true → Happens .benchAccess s fun s' => ∃ k, s'.net.packets = s.net.packets ++ [k] ∧ k.net = 32 + i / 4 ∧
      k.pos = 4192 + i % 4 ∧ k.stage = 0 ∧ k.hdr.op = op ∧ k.hdr.loc = a ∧ homeOf a = some k.hdr.home ∧ k.hdr.part = p ∧
      k.hdr.src = .bench i (tag.getLsbD 6) ∧ k.hdr.expiry = none ∧ s' = { s with fresh := s.fresh + 1, net := { s.net with packets := s'.net.packets } }) ∧
    (isHostMem a = true → s.env.op.isSome = true ∨ s.md.bme = false → exec .benchAccess s = .next { s with ext := .accessFault }) ∧
    (2 ^ 42 ≤ a → a / 2 ^ 48 ≠ 128 → exec .benchAccess s = .next { s with ext := .accessFault }) ∧
    (a / 2 ^ 48 = 128 → tag.getLsbD 6 = false → pagePart (a % 2 ^ 48) ≠ some p → exec .benchAccess s = .next { s with ext := .accessFault }) ∧
    (a / 2 ^ 48 = 128 → tag.getLsbD 6 = true ∨ pagePart (a % 2 ^ 48) = some p → ∀ r, regAt (a % 2 ^ 48) = some r → a % 8 = 0 → n = 8 →
      s.env.write = true → exec .benchAccess s = .next { s.writeWord i s.env.val r with ext := .ack }) ∧
    (∀ p old w r, a = 2 ^ 55 + 0x300000 + 0x1000 * p → p < 64 → n = 8 → s.env.write = false → tag.getLsbD 6 = true ∨ tag.toNat % 64 = p →
      (s.part p).cq = old ++ w :: r → old.length = s.cqPlace p i → Happens .benchAccess s fun s' =>
        s'.ext = .data 8 w ∧ s'.part p = { s.part p with cq := old ++ r }) ∧
    (a = 2 ^ 55 + 0x100 → n = 8 → tag.getLsbD 6 = true → s.env.write = false →
      exec .benchAccess s = .next { s with ext := .data 8 s.md.mstat })) ∧
  ∀ s h i sys c, s.env.home = .hbm c → s.nextAt (.hbm c) = some h → h.src = .bench i sys → h.expiry = none → s.env.bad = false →
    let key := if sys then s.md.sysKey else s.keyOf h.part
    (∀ n, h.op = .read n → 0 < n → n ≤ 8 → isHbm (h.loc + n - 1) = true → Happens .homeQueuePerform s fun s' =>
      s'.ext = .data n (BitVec.ofNat 64 (s.readLE key h.loc n)) ∧ s'.net.homeQ = s.net.homeQ.filter (·.id != h.id) ∧
      (sys = true → s'.parts = s.parts)) ∧
    (∀ n v, h.op = .write n v → 0 < n → isHbm (h.loc + n - 1) = true → ∃ s', exec .homeQueuePerform s = .next s' ∧ s'.ext = .ack ∧
      BytesAt s s' h.loc n v ∧ s'.net.homeQ = s.net.homeQ.filter (·.id != h.id) ∧ (sys = true → s'.parts = s.parts)) ∧
    ∀ f w v, h.op = .amo f w v → w = 4 ∨ w = 8 → isHbm (h.loc + w - 1) = true → ∃ s', exec .homeQueuePerform s = .next s' ∧
      s'.ext = .data w (BitVec.ofNat 64 (s.readLE key h.loc w)) ∧
      at_ s' key h.loc w = (atomicNew (8 * w) (BitVec.ofNat (8 * w) (at_ s key h.loc w)) h.op).toNat ∧
      ∀ b, ¬(h.loc ≤ b ∧ b < h.loc + w) → s'.raw b = s.raw b

/-- R103-R120: a bench push enters the launch queue, among the pushes of its cycle by bench number, and the last in that order is dropped where
the queue is full; LAUNCH_TAKE makes the oldest entry that was there before the cycle active or completes it, once what the launch engine reads
for it has had its turns, and after the cycle's writes of the group table; work packets are made in order, each with its header's address and its gang's number; a launch whose units have all
ended completes with its record, which is read once, the host's read after those of the cycle's bench cores; group-table writes are checked. That a push of the host or of a thread follows those of the
bench cores, that the engine leaves the pushes of a cycle for the next, and that an uncorrectable error gives the launch engine nothing, are the model's choice (log entries 82 and 77, DESIGN CHOICE),
as is that the engine asks for each 64-byte line from T0's service port and reads the bytes once all have had their turns (log entry 18, DESIGN CHOICE); that it
translates by walks of its own is its reading (log entry 29, DEDUCED). -/
def Obligations.LaunchesRunAndComplete : Prop :=
  ∀ s p, s.env.unit = p → p < 64 →
    let x := s.part p
    (x.en = true → x.busy = false → Happens .lqpushWrite s fun s' =>
      let k := (x.lqNew.filter (· ≤ s.env.sub)).length
      let n := x.lq.length - x.lqNew.length + k
      PartOnly s s' p ∧ s'.part p = { x with lq := (x.lq.take n ++ [s.env.val] ++ x.lq.drop n).take 64,
                                             lqNew := (x.lqNew.take k ++ [s.env.sub] ++ x.lqNew.drop k).take (64 - (x.lq.length - x.lqNew.length)),
                                             lqdrop := x.lqdrop || decide (64 ≤ x.lq.length) }) ∧
    (x.en = true → x.busy = false → x.lq.length = 64 → x.lqNew = [] → Happens .lqpushWrite s fun s' =>
      PartOnly s s' p ∧ s'.part p = { x with lqdrop := true }) ∧
    (s.eventsRun = false → exec .launchTake s = .next s) ∧
    (s.eventsRun = true → s.gtabComes p = true → exec .launchTake s = .next { s with agenda := s.agenda ++ [.event .launchTake s.env] }) ∧
    (∀ w r, s.eventsRun = true → s.gtabComes p = false → x.en = true → x.busy = false → x.cqHeld = [] → x.launches.length < 16 → (s.aux p).loadSt = false → x.lq = w :: r →
      x.lqNew.length ≤ r.length →
      let blocks := s.launchBlocks p w
      let taken := ((s.dropTicket (.launch p)).modPart p fun x => { x with lq := r }).takeLaunch p w s.env.bad s.env.bytes (s.gotBy (.launch p))
      (s.served (.launch p) 32768 p .read blocks = false → exec .launchTake s = .next (s.askFor (.launch p) 32768 p .read blocks)) ∧
      (∀ l s1, s.served (.launch p) 32768 p .read blocks = true → taken = (.active l, s1) → ∃ s', exec .launchTake s = .next s' ∧ (s'.part p).launches = (s1.part p).launches ++ [l] ∧
        s' = { s1 with parts := s'.parts, fresh := s1.fresh + 1 }) ∧
      (2 ^ 52 ≤ w.toNat ∨ w.toNat % 128 ≠ 0 → x.cq.length < 64 → Happens .launchTake s fun s' => (s'.part p).lq = r ∧
        (s'.part p).launches = x.launches ∧ (s'.part p).cq = x.cq ++ [5])) ∧
    (∀ l, x.en = true → x.busy = false → x.tasks.length + (if x.gang.isSome then 1 else 0) < 256 → x.launches = [l] → l.placed < l.count →
      let n := Nat.min (Nat.max 1 l.gang) (l.count - l.placed)
      let t : Task := { launch := l.id, khdr := l.khdr, gang := l.placed / Nat.max 1 l.gang, first := l.placed, n := n, prio := l.prio, since := s.now, lvl := 0 }
      Happens .workPacketPlace s fun s' => PartOnly s s' p ∧
        s'.part p = { x with launches := [{ l with placed := l.placed + n }], tasks := x.tasks ++ [t] }) ∧
    (∀ l, x.launches = [l] → l.count ≤ l.ended.length → l.cdest = 0 → x.cqHeld = [] → x.cq.length < 64 → Happens .launchComplete s fun s' =>
      (s'.part p).launches = [] ∧ ∃ w : Word, (s'.part p).cq = x.cq ++ [w] ∧ w.toNat / 2 ^ 32 = l.tag.toNat ∧
        w.toNat % 256 = (if l.bad = 0 then 0 else 10) ∧ w.toNat / 256 % 2 ^ 24 = Nat.min l.bad (2 ^ 24 - 1)) ∧
    (∀ w r, x.cqHeld = w :: r → x.cq.length < 64 → Happens .completionPlace s fun s' =>
      s'.part p = { x with cqHeld := r, cq := x.cq ++ [w] }) ∧
    (∀ old w r, x.cq = old ++ w :: r → old.length = s.cqPlace p 16 → Happens .cqpopRead s fun s' =>
      s'.ext = .data 8 w ∧ s'.part p = { x with cq := old ++ r }) ∧
    (x.cq.length ≤ s.cqPlace p 16 → exec .cqpopRead s = .next { s with ext := .data 8 0xFF }) ∧
    ∀ g < 256, s.env.sub = g →
      let v := s.env.val &&& ~~~(12 : Word)
      (∀ l ∈ x.launches, l.glist.contains g = true → Happens .gtabWrite s fun s' => PartOnly s s' p ∧ s'.part p = { x with gerr := true }) ∧
      (gtabV v = true → gtabLast v < gtabFirst v → Happens .gtabWrite s fun s' => PartOnly s s' p ∧ s'.part p = { x with gerr := true }) ∧
      ((∀ l ∈ x.launches, l.glist.contains g = false) → v.getLsbD 1 = false → (x.gtab.filter fun e => gtabFuzzy e.2).length ≤ 16 →
        gtabV v = false ∨ (gtabStride v ≠ 0 ∧ gtabFirst v ≤ gtabLast v) → Happens .gtabWrite s fun s' =>
          PartOnly s s' p ∧ (s'.part p).group g = v ∧ (∀ k, k ≠ g → (s'.part p).group k = x.group k) ∧ (s'.part p).gerr = x.gerr)

/-- R122, R124-R130: the best task goes to the chosen core's ready queue; waiting work ages; gangs are placed whole or put back after 4,096 cycles;
the head of a ready queue starts in a free slot of its class as a new thread; a check starts the hand-over of the context that it finds. That a
parked partition still starts what has been placed, and restores nothing, is the model's reading (log entry 26, DEDUCED). -/
def Obligations.WorkIsPlacedAndStarted : Prop :=
  (∀ s p, s.env.unit = p → p < 64 →
    let x := s.part p
    (∀ t l y c, s.places p = true → x.gang = none → bestTask x.tasks = some t → l.gang ≤ 1 → x.launches.find? (·.id == t.launch) = some l →
      (offerOrder x.lastLayer (s.layersOf p)).findSome? (fun y => (s.leastLoaded (s.openCores p y)).map fun c => (y, c)) = some (y, c) →
      Happens .taskQueueOffer s fun s' => s'.part p = { x with tasks := x.tasks.erase t, lastLayer := y + 1 } ∧
        (s'.core c).ready = (s.core c).ready ++
          [{ kind := .start (l.startOf p t.first), prio := t.prio, since := t.since, lvl := t.lvl, unit := t.first }] ∧ s' = { s with parts := s'.parts, cores := s'.cores }) ∧
    (∀ t l rs s1, s.places p = true → x.gang = none → bestTask x.tasks = some t → 1 < l.gang → x.launches.find? (·.id == t.launch) = some l →
      s.reserveFrom l.hdr l.id (s.allSlots p) t.n [] = (rs, s1) → rs ≠ [] →
      Happens .taskQueueOffer s fun s' => (s'.part p).gang = some (t, s.now, rs) ∧ (s'.part p).tasks = x.tasks.erase t ∧ rs.length ≤ t.n ∧
        ∀ y ∈ rs, slotClass l.hdr.supv y.2 = true ∧ s.slotFree y.1 y.2 = true ∧ Sparse.find? (s'.core y.1).reserved y.2 = some l.id) ∧
    (∀ t at_ rs l, x.gang = some (t, at_, rs) → rs.length = t.n → x.launches.find? (·.id == t.launch) = some l → s.places p = true →
      Happens .gangPlace s fun s' => (s'.part p).gang = none ∧ ∀ y ∈ rs, ∃ u w, s'.thread y.1 y.2 = some u ∧ u.part = p ∧ u.pc = l.hdr.entry ∧
        (s'.life u.tid).launch = some l.id ∧ (s'.life u.tid).unit = some w ∧ t.first ≤ w ∧ w < t.first + t.n) ∧
    (∀ t at_ rs, x.gang = some (t, at_, rs) →
      (at_ + 4096 ≤ s.now → Happens .gangTimeout s fun s' =>
        s'.part p = { x with gang := none, tasks := { t with lvl := aged s p t.prio t.since t.lvl } :: x.tasks }) ∧
      (s.now < at_ + 4096 → exec .gangTimeout s = .next s)) ∧
    ∀ i t, s.env.site = .task p i → x.tasks[i]? = some t → Happens .agePeriod s fun s' => PartOnly s s' p ∧
      (s'.part p).tasks.length = x.tasks.length ∧ (s'.part p).tasks[i]? = some { t with lvl := aged s p t.prio t.since t.lvl } ∧
      ∀ j, j ≠ i → (s'.part p).tasks[j]? = x.tasks[j]?) ∧
  (∀ s c i e, s.env.site = .ready c i → (s.core c).ready[i]? = some e → Happens .agePeriod s fun s' => (s'.core c).ready.length =
      (s.core c).ready.length ∧ (s'.core c).ready[i]? = some { e with lvl := aged s e.kind.part e.prio e.since e.lvl }) ∧
  ∀ s c, s.env.unit = c → isCore c = true →
    (∀ k e st, s.env.sub = k → k < 16 → (s.core c).head (isChan c) = some e → e.kind = .start st → (s.core c).readyHo = [] →
      s.now % 16 = k → s.slotFree c k = true → s.coreLive c = true → (s.part st.part).takes = true → s.canStart c k e = true →
      Happens .readyQueueStart s fun s' => (s'.core c).ready = (s.core c).ready.erase e ∧ ∃ t, s'.thread c k = some t ∧ t.pc = st.entry ∧
        t.mode = st.supv ∧ t.prio = st.prio ∧ t.part = st.part ∧ t.g = st.g ∧ t.v = st.v ∧ t.m = [] ∧ t.sg = st.sg ∧ t.gEmpty = 0 ∧
        t.vEmpty = 0 ∧ t.gDue = 0 ∧ t.gcnt = 0 ∧ t.region = none ∧ t.chain = none ∧ t.cnt = [] ∧ t.avail = .rotation ∧
        t.tid.toNat = (s.core c).starts % 2 ^ 28 + c * 2 ^ 28 ∧ t.from_ = s.now + 16 ∧ s'.life t.tid = st.life) ∧
    (∀ k e p q off sl, s.env.sub = k → k < 16 → (s.core c).head (isChan c) = some e → e.kind = .restore p q off sl → (s.aux p).park = true →
      exec .readyQueueStart s = .next s) ∧
    (∀ e y since, isChan c = false → s.now % 1024 = 0 → (s.core c).handOver = none → s.coreLive c = true → (s.core c).head false = some e →
      s.stuck c e = true → s.starts e = true → ((s.partOf c).any fun p => (s.aux p).park) = false → s.outgoing c (effPrio e.prio e.lvl) (s.core c).resident = some (y, since) →
      Happens .handoverCheck s fun s' => (∃ h, s'.core c = { s.core c with handOver := some h } ∧ h.part = y / 4 ∧ h.park = false ∧
        h.gone = []) ∧ s' = { s with cores := s'.cores })

/-- R123, R131-R140: a slot that may leave is written out and freed, and read back into its slot with the fills that waited for it; a park and its
end change the partition; PSCHED's SHIFT and CTXBASE change only where they may; a balance check carries the last movable thread; `loadq` gives
each core's LOAD. A read of a record that meets a page fault is held, and what was read before it is kept. What a record gives back, and when PARKED reads 1, are
the model's reading (log entries 31 and 25, DEDUCED); that a record is written or read in one step once its lines have had their turns, and what
becomes of a LEAVE or an implicit request of a thread that goes, are its choice (log entries 18 and 98, DESIGN CHOICE). -/
def Obligations.ThreadsLeaveAndReturn : Prop :=
  (∀ s c k, s.env.unit = c → isCore c = true → s.env.sub = k → k < 16 →
    (∀ h t, (s.core c).handOver = some h → s.thread c k = some t → s.now % 16 = k → h.slots.contains (k, t.tid) = true →
      s.mayLeave c k t = true → Happens .slotLeave s fun s' => ∃ u y, s'.thread c k = some u ∧
        u = ({ t with avail := .spilling, resv := none, asking := .no, fence := none } : Thread).count 7 1 ∧
        s'.net.spills = s.net.spills ++ [y] ∧ y.t = u ∧ y.tid = t.tid ∧ y.part = t.part ∧ y.prio = t.prio ∧ y.core = c ∧ y.slot = k ∧
        y.off = c - (s.part t.part).base ∧ y.phase = 0 ∧ y.ltc = s.md.ltc ∧ y.held = none ∧ y.fills = [] ∧ y.seen = 0 ∧ y.buf = [] ∧ Sparse.find? (s'.core c).fetching k = none) ∧
    (∀ y s1 bs, s.net.spills = [y] → y.core = c → y.slot = k → y.phase = 0 → y.held = none →
      let base := s.recordAt y.part y.prio.toNat y.off k
      let blocks := (s.record y.t y.ltc).map fun b => (base + b.1, b.2)
      s.servedWrite (.record c k) c y.part blocks = true →
      (s.dropTicket (.record c k)).directWrite c y.part blocks (s.gotBy (.record c k)) = (.ok bs, s1) →
      ∃ s', exec .spillDone s = .next s' ∧ s'.thread c k = none ∧ s'.net.spills = [{ y with phase := 1 }] ∧
        ∀ i a, s'.readByte i a = s1.readByte i a) ∧
    (∀ y z s1 s2 bs bs', s.net.spills = [y] → y.core = c → y.slot = k → y.phase = 2 → y.held = none →
      let base := s.recordAt y.part y.prio.toNat y.off k
      s.served (.record c k) c y.part .read (s.restoreBlocks y) = true →
      (s.dropTicket (.record c k)).readRecord y (s.gotBy (.record c k)) = (.ok bs, z, s1) →
      let clear := [(base + 24, [BitVec.ofNat 8 (bufNat z.buf 24 1) &&& ~~~(1 : Byte)])]
      s.servedWrite (.record c k) c y.part clear = true →
      s1.directWrite c y.part clear (s.gotBy (.record c k)) = (.ok bs', s2) →
      ∃ s' t, exec .restoreDone s = .next s' ∧ s'.thread c k = some t ∧ s'.net.spills = [] ∧ s.now < t.from_ ∧ t.from_ % 16 = k ∧
        t = { recThread (y.t.allocOf (bufWord z.buf 24)) z.buf y.fills (s.life y.tid).kids with from_ := t.from_, last := 0 }) ∧
    (∀ y z s1 da st, s.net.spills = [y] → y.core = c → y.slot = k → y.phase = 2 → y.held = none →
      s.served (.record c k) c y.part .read (s.restoreBlocks y) = true →
      (s.dropTicket (.record c k)).readRecord y (s.gotBy (.record c k)) = (.page da st, z, s1) →
      ∃ s' token, exec .restoreDone s = .next s' ∧ s'.net.spills = [{ y with seen := z.seen, buf := z.buf, held := some token }])) ∧
  (∀ s p, s.env.unit = p → p < 64 →
    let a := s.aux p
    let sh := BitVec.ofNat 16 (s.env.val.toNat / 2 ^ 16)
    (a.park = false → (Happens .pschedPark s fun s' => (s'.aux p).park = true ∧ s'.parts = s.parts ∧ ∀ c k, s'.thread c k = s.thread c k) ∧
      exec .pschedRestore s = .next s) ∧
    (a.park = true → exec .pschedPark s = .next s ∧ Happens .pschedRestore s fun s' => (s'.aux p).park = false ∧ (s'.aux p).parked = [] ∧
      s'.parts = s.parts ∧ ∀ c k, s'.thread c k = s.thread c k) ∧
    (s.parked p = true → sh.toNat < (s.part p).len → s.env.val.getLsbD 0 = true → Happens .pschedShift s fun s' =>
      s'.aux p = { a with shift := sh, bal := s.env.val.getLsbD 2 } ∧ s'.parts = s.parts) ∧
    (sh ≠ a.shift → s.parked p = false ∨ (s.part p).len ≤ sh.toNat → Happens .pschedShift s fun s' =>
      PartOnly s s' p ∧ s'.part p = { s.part p with perr := true }) ∧
    ∀ q < 4, s.env.sub = q →
      (s.ctxBusy p q = false → Happens .ctxbaseWrite s fun s' => s'.ctxWord p q = s.env.val &&& 0xFFFFFFFFF0001 ∧
        ∀ r, r ≠ q → s'.ctxWord p r = s.ctxWord p r) ∧
      (s.ctxBusy p q = true → exec .ctxbaseWrite s = .next s)) ∧
  (∀ s c p slot t, s.env.unit = c → isCore c = true → isChan c = false → s.partOf c = some p → s.now % 1024 = 0 → (s.aux p).bal = true →
    s.places p = true → s.coreLive c = true →
    let w := (s.core c).loadq
    loadField w (idleField w) ≠ 31 → loadField w (idleField w) + 4 ≤ loadField w (c % 8) →
    ((s.core c).slots.filter fun e => s.movable e.1 e.2 && !(s.core c).leaving e.1 e.2).getLast? = some (slot, t) → s.thread c slot = some t →
    Happens .balanceCheck s fun s' => s'.thread c slot = none ∧ ∃ m ∈ s'.net.msgs, m.target = 8 * (c / 8) + idleField w ∧
      ∃ u, m.body = .thread u ∧ u = { t with resv := none, asking := .no, fence := none, cnt := u.cnt }) ∧
  ∀ s cl, s.env.unit = cl → cl < 4096 → Happens .loadqUpdate s fun s' => (∀ k j, s'.thread k j = s.thread k j) ∧
    ∀ i < 8, ∀ p, s.partOf (8 * cl + i) = some p → ∀ j < 8, loadField (s'.core (8 * cl + i)).loadq j =
      if s.partOf (8 * cl + j) = some p then Nat.min 30 ((s.core (8 * cl + j)).slots.length + (s.core (8 * cl + j)).ready.length) else 31


/-- R17-R21, R67, R73, R75, R86, R228, R418: right after reset no core, partition, engine or message holds anything, no layer is in service, the
clocks read zero, Byand has no identity and every port is down; memory lists nothing and has its canonical form. -/
def Obligations.ResetLeavesTheMachineEmpty : Prop :=
  let s := State.reset
  s.Inv ∧ s.mem = [] ∧ (∀ c k, s.thread c k = none) ∧ (∀ c, (s.core c).ready = [] ∧ (s.core c).vec = [] ∧ (s.core c).cEmpty = 0) ∧
    (∀ p, (s.part p).en = false ∧ (s.part p).epoch = 0 ∧ (s.part p).lq = [] ∧ (s.part p).cq = [] ∧ (s.aux p).run.st = .idle) ∧
    s.net.msgs = [] ∧ s.net.accs = [] ∧ s.md.mstat = 0 ∧ s.md.layerUp = 0 ∧ s.md.cyc = 0 ∧ s.md.ltc = 0 ∧ s.md.shutdown = false ∧
    s.by_.set = false ∧ s.by_.tmo = 0xA ∧ (∀ q, (s.port q).up = false) ∧ (∀ i, s.benchTag i = 0x40) ∧ s.agenda = []

/-- R175, R176, R177, R266: where an attempt is due, the step runs the instruction that the word at the thread's PC decodes to, or takes the
reserved-encoding trap; an annulled one only retires. An event that is due is performed. -/
def Obligations.StepRunsTheDecodedInstruction : Prop :=
  (∀ s c j t w, s.agenda = [] → s.md.shutdown = false → s.nextTry s.rotor.core s.rotor.tried s.cores = some (c, j) →
    let k := (s.now + j) % 16
    s.thread c k = some t → t.reports = [] → Fetches s c t w →
    let s1 : State := { s.unfixed with rotor := { core := c, tried := j + 1 }, cur := { core := c, slot := k, word := w, used := false } }
    (∀ i, decodeWord w = .ok i →
      (t.gcnt = 0 ∨ t.gcond = true → step s = afterTry c (exec i s1)) ∧
      (t.gcnt ≠ 0 → t.gcond = false → t.avail = .rotation → isCore c = true → ∃ s' t', step s = .next s' ∧ s'.thread c k = some t' ∧
        t' = { t with pc := t.pc + 4, gcnt := t.gcnt - 1 } ∧ ∀ k a, s'.readByte k a = s.readByte k a)) ∧
    ∀ r, decodeWord w = .error r → step s = afterTry c (exec .reservedEncoding s1)) ∧
  ∀ s i e rest, s.agenda = .event i e :: rest → s.md.shutdown = false → i.isEvent = true → i ≠ .annulledRetire → i ≠ .reservedEncoding →
    step s = exec i { s with agenda := rest, env := e }

/-- R255-R265, R281-R292: words of the spec's examples and encoding tables decode to the instructions that they stand for. -/
def Obligations.WrittenWordsDecode : Prop :=
  decodeWord 0x20642810 = .ok (.sub 3 4 5) ∧ decodeWord 0x24A63840 = .ok (.mad 5 6 7) ∧ decodeWord 0x28640071 = .ok (.sext 3 4 1) ∧
    decodeWord 0x3CE0CDEF = .ok (.lih 7 0 0xCDEF) ∧ decodeWord 0x57832010 = .ok (.cmpw 3 4 3 4) ∧
    decodeWord 0x60000002 = .ok (.j 2) ∧ decodeWord 0x641F0000 = .ok (.jr 31 0) ∧ decodeWord 0xFC000000 = .error .reservedOpcode

/-- R255-R266: the word of every well-formed instruction decodes to it, with every operand as it was; and a word that decodes is the word of the
instruction that it decodes to, which is well formed. -/
def Obligations.DecodingInvertsEncoding : Prop :=
  (∀ i w, i.wellFormed = true → encode i = some w → decodeWord w = .ok i) ∧
    ∀ w i, decodeWord w = .ok i → i.wellFormed = true ∧ encode i = some w

/-- Every step keeps memory in its canonical form. -/
def Obligations.StepsKeepMemoryCanonical : Prop := ∀ s s' : State, s.Inv → step s = .next s' → s'.Inv

/-- R357: no instruction of a thread in general mode leaves that thread in system mode. -/
def Obligations.GeneralModeStaysGeneral : Prop :=
  ∀ i s s' t t', i.isEvent = false → s.mine = some t → t.mode = false → exec i s = .next s' → s'.mine = some t' → t'.tid = t.tid →
    t'.mode = false
end

