-- ==== Sys2Proof/Laws/Sparse.lean ====
section
/-! SUPPORT. Laws of the sparse tables: what a key reads as after a write, and that every operation keeps the canonical form. -/

namespace Sys2Proof.Machine

variable {α : Type}

/-! ### Reading after writing -/

@[simp] theorem Sparse.find?_nil (i : Nat) : Sparse.find? ([] : Sparse α) i = none := rfl

theorem Sparse.find?_insert (t : Sparse α) (i j : Nat) (a : α) :
    Sparse.find? (Sparse.insert t i a) j = if j = i then some a else Sparse.find? t j := by
  induction t with
  | nil => simp [Sparse.insert, Sparse.find?]
  | cons e r ih =>
    obtain ⟨k, b⟩ := e
    simp only [Sparse.insert]
    split
    · simp only [Sparse.find?]
    · split
      · simp only [Sparse.find?]; subst_vars; split <;> simp_all
      · simp only [Sparse.find?, ih]
        split
        · split <;> simp_all
        · rfl

@[simp] theorem Sparse.find?_insert_same (t : Sparse α) (i : Nat) (a : α) : Sparse.find? (Sparse.insert t i a) i = some a := by
  simp [Sparse.find?_insert]

theorem Sparse.find?_erase (t : Sparse α) (i j : Nat) :
    Sparse.find? (Sparse.erase t i) j = if j = i then none else Sparse.find? t j := by
  induction t with
  | nil => simp [Sparse.erase, Sparse.find?]
  | cons e r ih =>
    obtain ⟨k, b⟩ := e
    simp only [Sparse.erase] at ih ⊢
    by_cases h : k = i
    · subst h; simp only [bne_self_eq_false, Bool.false_eq_true, not_false_eq_true, List.filter_cons_of_neg, ih, Sparse.find?]
      split <;> simp_all
    · rw [List.filter_cons_of_pos (by simpa using h)]
      simp only [Sparse.find?, ih]
      by_cases h2 : j = k
      · subst h2; simp [h]
      · simp [h2]

@[simp] theorem Sparse.get_nil (d : α) (i : Nat) : Sparse.get d ([] : Sparse α) i = d := rfl

theorem Sparse.get_insert (d : α) (t : Sparse α) (i j : Nat) (a : α) :
    Sparse.get d (Sparse.insert t i a) j = if j = i then a else Sparse.get d t j := by
  simp only [Sparse.get, Sparse.find?_insert]; split <;> rfl

theorem Sparse.get_put [DecidableEq α] (d : α) (t : Sparse α) (i j : Nat) (a : α) :
    Sparse.get d (Sparse.put d t i a) j = if j = i then a else Sparse.get d t j := by
  simp only [Sparse.put]
  split
  · simp only [Sparse.get, Sparse.find?_erase]; split <;> simp_all
  · exact Sparse.get_insert ..

@[simp] theorem Sparse.get_put_same [DecidableEq α] (d : α) (t : Sparse α) (i : Nat) (a : α) :
    Sparse.get d (Sparse.put d t i a) i = a := by simp [Sparse.get_put]

theorem Sparse.get_put_other [DecidableEq α] (d : α) (t : Sparse α) {i j : Nat} (a : α) (h : j ≠ i) :
    Sparse.get d (Sparse.put d t i a) j = Sparse.get d t j := by simp [Sparse.get_put, h]

/-! ### The canonical form -/

section
variable [DecidableEq α] {d : α}

theorem Sparse.wfFrom_mono {b c : Option Nat} {t : Sparse α} (h : Sparse.wfFrom d c t = true) (hb : ∀ x ∈ b, ∃ y ∈ c, x ≤ y) :
    Sparse.wfFrom d b t = true := by
  cases t with
  | nil => rfl
  | cons e r =>
    obtain ⟨k, a⟩ := e
    simp only [Sparse.wfFrom, Bool.and_eq_true, decide_eq_true_eq] at h ⊢
    refine ⟨⟨?_, h.1.2⟩, h.2⟩
    cases b with
    | none => rfl
    | some x =>
      obtain ⟨y, hy, hxy⟩ := hb x rfl
      simp only [Option.mem_def] at hy; subst hy
      have := h.1.1; simp only [Option.all_some, decide_eq_true_eq] at this ⊢; omega

theorem Sparse.wfFrom_filter (p : Nat × α → Bool) {b : Option Nat} {t : Sparse α} (h : Sparse.wfFrom d b t = true) :
    Sparse.wfFrom d b (t.filter p) = true := by
  induction t generalizing b with
  | nil => rfl
  | cons e r ih =>
    obtain ⟨k, a⟩ := e
    simp only [Sparse.wfFrom, Bool.and_eq_true, decide_eq_true_eq] at h
    rw [List.filter_cons]
    split
    · simp only [Sparse.wfFrom, Bool.and_eq_true, decide_eq_true_eq]; exact ⟨h.1, ih h.2⟩
    · refine Sparse.wfFrom_mono (ih h.2) fun x hx => ⟨k, rfl, ?_⟩
      simp only [Option.mem_def] at hx; subst hx
      have := h.1.1; simp only [Option.all_some, decide_eq_true_eq] at this; omega

theorem Sparse.wfFrom_insert {a : α} (ha : a ≠ d) (i : Nat) {b : Option Nat} {t : Sparse α} (hi : ∀ x ∈ b, x < i)
    (h : Sparse.wfFrom d b t = true) : Sparse.wfFrom d b (Sparse.insert t i a) = true := by
  have hb : b.all (· < i) = true := by
    cases b with
    | none => rfl
    | some x => simpa using hi x rfl
  induction t generalizing b with
  | nil => simp [Sparse.insert, Sparse.wfFrom, hb, ha]
  | cons e r ih =>
    obtain ⟨k, c⟩ := e
    simp only [Sparse.wfFrom, Bool.and_eq_true, decide_eq_true_eq] at h
    simp only [Sparse.insert]
    split
    · rename_i hk
      simp only [Sparse.wfFrom, Bool.and_eq_true, decide_eq_true_eq]
      exact ⟨⟨hb, ha⟩, ⟨by simpa using hk, h.1.2⟩, h.2⟩
    · split
      · rename_i hk; subst hk
        simp only [Sparse.wfFrom, Bool.and_eq_true, decide_eq_true_eq]
        exact ⟨⟨hb, ha⟩, h.2⟩
      · simp only [Sparse.wfFrom, Bool.and_eq_true, decide_eq_true_eq]
        refine ⟨h.1, ih (fun x hx => ?_) h.2 ?_⟩
        · simp only [Option.mem_def, Option.some.injEq] at hx; omega
        · simp; omega

theorem Sparse.wf_filter (p : Nat × α → Bool) {t : Sparse α} (h : Sparse.wf d t = true) : Sparse.wf d (t.filter p) = true :=
  Sparse.wfFrom_filter p h

theorem Sparse.wf_erase {t : Sparse α} (h : Sparse.wf d t = true) (i : Nat) : Sparse.wf d (Sparse.erase t i) = true :=
  Sparse.wf_filter _ h

theorem Sparse.wf_clear {t : Sparse α} (h : Sparse.wf d t = true) (lo hi : Nat) : Sparse.wf d (Sparse.clear t lo hi) = true :=
  Sparse.wf_filter _ h

theorem Sparse.wf_put {t : Sparse α} (h : Sparse.wf d t = true) (i : Nat) (a : α) : Sparse.wf d (Sparse.put d t i a) = true := by
  simp only [Sparse.put]
  split
  · exact Sparse.wf_erase h i
  · rename_i ha; exact Sparse.wfFrom_insert ha i (by simp) h

end

/-! ### Memory -/

theorem Memory.wf_nil : Memory.wf [] = true := rfl
theorem Memory.wf_put {m : List Host.Cell} (h : Memory.wf m = true) (a : Nat) (b : BitVec 8) : Memory.wf (Sparse.put 0 m a b) = true :=
  Sparse.wf_put h a b
theorem Memory.wf_clear {m : List Host.Cell} (h : Memory.wf m = true) (lo hi : Nat) : Memory.wf (Sparse.clear m lo hi) = true :=
  Sparse.wf_clear h lo hi
theorem Memory.wf_filter {m : List Host.Cell} (h : Memory.wf m = true) (p : Host.Cell → Bool) : Memory.wf (m.filter p) = true :=
  Sparse.wf_filter p h

end Sys2Proof.Machine
end

