-- ==== Sys2Proof/Laws/State.lean ====
section
/-! SUPPORT. One law for each field of the state under each of the named updates, and one for each accessor of a unit's record
that the update does not touch; then what the touched record reads as. -/

namespace Sys2Proof.Machine

/-! ### `State.setCore` -/

@[simp] theorem State.setCore_cur (s : State) (c : Nat) (k : Core) : (s.setCore c k).cur = s.cur := rfl
@[simp] theorem State.setCore_env (s : State) (c : Nat) (k : Core) : (s.setCore c k).env = s.env := rfl
@[simp] theorem State.setCore_rotor (s : State) (c : Nat) (k : Core) : (s.setCore c k).rotor = s.rotor := rfl
@[simp] theorem State.setCore_agenda (s : State) (c : Nat) (k : Core) : (s.setCore c k).agenda = s.agenda := rfl
@[simp] theorem State.setCore_md (s : State) (c : Nat) (k : Core) : (s.setCore c k).md = s.md := rfl
@[simp] theorem State.setCore_vmus (s : State) (c : Nat) (k : Core) : (s.setCore c k).vmus = s.vmus := rfl
@[simp] theorem State.setCore_clusters (s : State) (c : Nat) (k : Core) : (s.setCore c k).clusters = s.clusters := rfl
@[simp] theorem State.setCore_layers (s : State) (c : Nat) (k : Core) : (s.setCore c k).layers = s.layers := rfl
@[simp] theorem State.setCore_towers (s : State) (c : Nat) (k : Core) : (s.setCore c k).towers = s.towers := rfl
@[simp] theorem State.setCore_parts (s : State) (c : Nat) (k : Core) : (s.setCore c k).parts = s.parts := rfl
@[simp] theorem State.setCore_auxs (s : State) (c : Nat) (k : Core) : (s.setCore c k).auxs = s.auxs := rfl
@[simp] theorem State.setCore_lives (s : State) (c : Nat) (k : Core) : (s.setCore c k).lives = s.lives := rfl
@[simp] theorem State.setCore_mem (s : State) (c : Nat) (k : Core) : (s.setCore c k).mem = s.mem := rfl
@[simp] theorem State.setCore_keyed (s : State) (c : Nat) (k : Core) : (s.setCore c k).keyed = s.keyed := rfl
@[simp] theorem State.setCore_net (s : State) (c : Nat) (k : Core) : (s.setCore c k).net = s.net := rfl
@[simp] theorem State.setCore_by_ (s : State) (c : Nat) (k : Core) : (s.setCore c k).by_ = s.by_ := rfl
@[simp] theorem State.setCore_msix (s : State) (c : Nat) (k : Core) : (s.setCore c k).msix = s.msix := rfl
@[simp] theorem State.setCore_aplic (s : State) (c : Nat) (k : Core) : (s.setCore c k).aplic = s.aplic := rfl
@[simp] theorem State.setCore_ext (s : State) (c : Nat) (k : Core) : (s.setCore c k).ext = s.ext := rfl
@[simp] theorem State.setCore_fresh (s : State) (c : Nat) (k : Core) : (s.setCore c k).fresh = s.fresh := rfl
@[simp] theorem State.setCore_drawn (s : State) (c : Nat) (k : Core) : (s.setCore c k).drawn = s.drawn := rfl
@[simp] theorem State.setCore_vmu_of (s : State) (c : Nat) (k : Core) (i₁ : Nat) : (s.setCore c k).vmu i₁ = s.vmu i₁ := rfl
@[simp] theorem State.setCore_cluster_of (s : State) (c : Nat) (k : Core) (i₁ : Nat) : (s.setCore c k).cluster i₁ = s.cluster i₁ := rfl
@[simp] theorem State.setCore_layer_of (s : State) (c : Nat) (k : Core) (i₁ : Nat) : (s.setCore c k).layer i₁ = s.layer i₁ := rfl
@[simp] theorem State.setCore_tower_of (s : State) (c : Nat) (k : Core) (i₁ : Nat) : (s.setCore c k).tower i₁ = s.tower i₁ := rfl
@[simp] theorem State.setCore_part_of (s : State) (c : Nat) (k : Core) (i₁ : Nat) : (s.setCore c k).part i₁ = s.part i₁ := rfl
@[simp] theorem State.setCore_aux_of (s : State) (c : Nat) (k : Core) (i₁ : Nat) : (s.setCore c k).aux i₁ = s.aux i₁ := rfl
@[simp] theorem State.setCore_life_of (s : State) (c : Nat) (k : Core) (w₁ : Word) : (s.setCore c k).life w₁ = s.life w₁ := rfl
@[simp] theorem State.setCore_now_of (s : State) (c : Nat) (k : Core)  : (s.setCore c k).now  = s.now  := rfl
@[simp] theorem State.setCore_raw_of (s : State) (c : Nat) (k : Core) (a₁ : Nat) : (s.setCore c k).raw a₁ = s.raw a₁ := rfl

/-! ### `State.modCore` -/

@[simp] theorem State.modCore_cur (s : State) (c : Nat) (f : Core → Core) : (s.modCore c f).cur = s.cur := rfl
@[simp] theorem State.modCore_env (s : State) (c : Nat) (f : Core → Core) : (s.modCore c f).env = s.env := rfl
@[simp] theorem State.modCore_rotor (s : State) (c : Nat) (f : Core → Core) : (s.modCore c f).rotor = s.rotor := rfl
@[simp] theorem State.modCore_agenda (s : State) (c : Nat) (f : Core → Core) : (s.modCore c f).agenda = s.agenda := rfl
@[simp] theorem State.modCore_md (s : State) (c : Nat) (f : Core → Core) : (s.modCore c f).md = s.md := rfl
@[simp] theorem State.modCore_vmus (s : State) (c : Nat) (f : Core → Core) : (s.modCore c f).vmus = s.vmus := rfl
@[simp] theorem State.modCore_clusters (s : State) (c : Nat) (f : Core → Core) : (s.modCore c f).clusters = s.clusters := rfl
@[simp] theorem State.modCore_layers (s : State) (c : Nat) (f : Core → Core) : (s.modCore c f).layers = s.layers := rfl
@[simp] theorem State.modCore_towers (s : State) (c : Nat) (f : Core → Core) : (s.modCore c f).towers = s.towers := rfl
@[simp] theorem State.modCore_parts (s : State) (c : Nat) (f : Core → Core) : (s.modCore c f).parts = s.parts := rfl
@[simp] theorem State.modCore_auxs (s : State) (c : Nat) (f : Core → Core) : (s.modCore c f).auxs = s.auxs := rfl
@[simp] theorem State.modCore_lives (s : State) (c : Nat) (f : Core → Core) : (s.modCore c f).lives = s.lives := rfl
@[simp] theorem State.modCore_mem (s : State) (c : Nat) (f : Core → Core) : (s.modCore c f).mem = s.mem := rfl
@[simp] theorem State.modCore_keyed (s : State) (c : Nat) (f : Core → Core) : (s.modCore c f).keyed = s.keyed := rfl
@[simp] theorem State.modCore_net (s : State) (c : Nat) (f : Core → Core) : (s.modCore c f).net = s.net := rfl
@[simp] theorem State.modCore_by_ (s : State) (c : Nat) (f : Core → Core) : (s.modCore c f).by_ = s.by_ := rfl
@[simp] theorem State.modCore_msix (s : State) (c : Nat) (f : Core → Core) : (s.modCore c f).msix = s.msix := rfl
@[simp] theorem State.modCore_aplic (s : State) (c : Nat) (f : Core → Core) : (s.modCore c f).aplic = s.aplic := rfl
@[simp] theorem State.modCore_ext (s : State) (c : Nat) (f : Core → Core) : (s.modCore c f).ext = s.ext := rfl
@[simp] theorem State.modCore_fresh (s : State) (c : Nat) (f : Core → Core) : (s.modCore c f).fresh = s.fresh := rfl
@[simp] theorem State.modCore_drawn (s : State) (c : Nat) (f : Core → Core) : (s.modCore c f).drawn = s.drawn := rfl
@[simp] theorem State.modCore_vmu_of (s : State) (c : Nat) (f : Core → Core) (i₁ : Nat) : (s.modCore c f).vmu i₁ = s.vmu i₁ := rfl
@[simp] theorem State.modCore_cluster_of (s : State) (c : Nat) (f : Core → Core) (i₁ : Nat) : (s.modCore c f).cluster i₁ = s.cluster i₁ := rfl
@[simp] theorem State.modCore_layer_of (s : State) (c : Nat) (f : Core → Core) (i₁ : Nat) : (s.modCore c f).layer i₁ = s.layer i₁ := rfl
@[simp] theorem State.modCore_tower_of (s : State) (c : Nat) (f : Core → Core) (i₁ : Nat) : (s.modCore c f).tower i₁ = s.tower i₁ := rfl
@[simp] theorem State.modCore_part_of (s : State) (c : Nat) (f : Core → Core) (i₁ : Nat) : (s.modCore c f).part i₁ = s.part i₁ := rfl
@[simp] theorem State.modCore_aux_of (s : State) (c : Nat) (f : Core → Core) (i₁ : Nat) : (s.modCore c f).aux i₁ = s.aux i₁ := rfl
@[simp] theorem State.modCore_life_of (s : State) (c : Nat) (f : Core → Core) (w₁ : Word) : (s.modCore c f).life w₁ = s.life w₁ := rfl
@[simp] theorem State.modCore_now_of (s : State) (c : Nat) (f : Core → Core)  : (s.modCore c f).now  = s.now  := rfl
@[simp] theorem State.modCore_raw_of (s : State) (c : Nat) (f : Core → Core) (a₁ : Nat) : (s.modCore c f).raw a₁ = s.raw a₁ := rfl

/-! ### `State.setThread` -/

@[simp] theorem State.setThread_cur (s : State) (c k : Nat) (t : Thread) : (s.setThread c k t).cur = s.cur := rfl
@[simp] theorem State.setThread_env (s : State) (c k : Nat) (t : Thread) : (s.setThread c k t).env = s.env := rfl
@[simp] theorem State.setThread_rotor (s : State) (c k : Nat) (t : Thread) : (s.setThread c k t).rotor = s.rotor := rfl
@[simp] theorem State.setThread_agenda (s : State) (c k : Nat) (t : Thread) : (s.setThread c k t).agenda = s.agenda := rfl
@[simp] theorem State.setThread_md (s : State) (c k : Nat) (t : Thread) : (s.setThread c k t).md = s.md := rfl
@[simp] theorem State.setThread_vmus (s : State) (c k : Nat) (t : Thread) : (s.setThread c k t).vmus = s.vmus := rfl
@[simp] theorem State.setThread_clusters (s : State) (c k : Nat) (t : Thread) : (s.setThread c k t).clusters = s.clusters := rfl
@[simp] theorem State.setThread_layers (s : State) (c k : Nat) (t : Thread) : (s.setThread c k t).layers = s.layers := rfl
@[simp] theorem State.setThread_towers (s : State) (c k : Nat) (t : Thread) : (s.setThread c k t).towers = s.towers := rfl
@[simp] theorem State.setThread_parts (s : State) (c k : Nat) (t : Thread) : (s.setThread c k t).parts = s.parts := rfl
@[simp] theorem State.setThread_auxs (s : State) (c k : Nat) (t : Thread) : (s.setThread c k t).auxs = s.auxs := rfl
@[simp] theorem State.setThread_lives (s : State) (c k : Nat) (t : Thread) : (s.setThread c k t).lives = s.lives := rfl
@[simp] theorem State.setThread_mem (s : State) (c k : Nat) (t : Thread) : (s.setThread c k t).mem = s.mem := rfl
@[simp] theorem State.setThread_keyed (s : State) (c k : Nat) (t : Thread) : (s.setThread c k t).keyed = s.keyed := rfl
@[simp] theorem State.setThread_net (s : State) (c k : Nat) (t : Thread) : (s.setThread c k t).net = s.net := rfl
@[simp] theorem State.setThread_by_ (s : State) (c k : Nat) (t : Thread) : (s.setThread c k t).by_ = s.by_ := rfl
@[simp] theorem State.setThread_msix (s : State) (c k : Nat) (t : Thread) : (s.setThread c k t).msix = s.msix := rfl
@[simp] theorem State.setThread_aplic (s : State) (c k : Nat) (t : Thread) : (s.setThread c k t).aplic = s.aplic := rfl
@[simp] theorem State.setThread_ext (s : State) (c k : Nat) (t : Thread) : (s.setThread c k t).ext = s.ext := rfl
@[simp] theorem State.setThread_fresh (s : State) (c k : Nat) (t : Thread) : (s.setThread c k t).fresh = s.fresh := rfl
@[simp] theorem State.setThread_drawn (s : State) (c k : Nat) (t : Thread) : (s.setThread c k t).drawn = s.drawn := rfl
@[simp] theorem State.setThread_vmu_of (s : State) (c k : Nat) (t : Thread) (i₁ : Nat) : (s.setThread c k t).vmu i₁ = s.vmu i₁ := rfl
@[simp] theorem State.setThread_cluster_of (s : State) (c k : Nat) (t : Thread) (i₁ : Nat) : (s.setThread c k t).cluster i₁ = s.cluster i₁ := rfl
@[simp] theorem State.setThread_layer_of (s : State) (c k : Nat) (t : Thread) (i₁ : Nat) : (s.setThread c k t).layer i₁ = s.layer i₁ := rfl
@[simp] theorem State.setThread_tower_of (s : State) (c k : Nat) (t : Thread) (i₁ : Nat) : (s.setThread c k t).tower i₁ = s.tower i₁ := rfl
@[simp] theorem State.setThread_part_of (s : State) (c k : Nat) (t : Thread) (i₁ : Nat) : (s.setThread c k t).part i₁ = s.part i₁ := rfl
@[simp] theorem State.setThread_aux_of (s : State) (c k : Nat) (t : Thread) (i₁ : Nat) : (s.setThread c k t).aux i₁ = s.aux i₁ := rfl
@[simp] theorem State.setThread_life_of (s : State) (c k : Nat) (t : Thread) (w₁ : Word) : (s.setThread c k t).life w₁ = s.life w₁ := rfl
@[simp] theorem State.setThread_now_of (s : State) (c k : Nat) (t : Thread)  : (s.setThread c k t).now  = s.now  := rfl
@[simp] theorem State.setThread_raw_of (s : State) (c k : Nat) (t : Thread) (a₁ : Nat) : (s.setThread c k t).raw a₁ = s.raw a₁ := rfl

/-! ### `State.dropThread` -/

@[simp] theorem State.dropThread_cur (s : State) (c k : Nat) : (s.dropThread c k).cur = s.cur := rfl
@[simp] theorem State.dropThread_env (s : State) (c k : Nat) : (s.dropThread c k).env = s.env := rfl
@[simp] theorem State.dropThread_rotor (s : State) (c k : Nat) : (s.dropThread c k).rotor = s.rotor := rfl
@[simp] theorem State.dropThread_agenda (s : State) (c k : Nat) : (s.dropThread c k).agenda = s.agenda := rfl
@[simp] theorem State.dropThread_md (s : State) (c k : Nat) : (s.dropThread c k).md = s.md := rfl
@[simp] theorem State.dropThread_vmus (s : State) (c k : Nat) : (s.dropThread c k).vmus = s.vmus := rfl
@[simp] theorem State.dropThread_clusters (s : State) (c k : Nat) : (s.dropThread c k).clusters = s.clusters := rfl
@[simp] theorem State.dropThread_layers (s : State) (c k : Nat) : (s.dropThread c k).layers = s.layers := rfl
@[simp] theorem State.dropThread_towers (s : State) (c k : Nat) : (s.dropThread c k).towers = s.towers := rfl
@[simp] theorem State.dropThread_parts (s : State) (c k : Nat) : (s.dropThread c k).parts = s.parts := rfl
@[simp] theorem State.dropThread_auxs (s : State) (c k : Nat) : (s.dropThread c k).auxs = s.auxs := rfl
@[simp] theorem State.dropThread_lives (s : State) (c k : Nat) : (s.dropThread c k).lives = s.lives := rfl
@[simp] theorem State.dropThread_mem (s : State) (c k : Nat) : (s.dropThread c k).mem = s.mem := rfl
@[simp] theorem State.dropThread_keyed (s : State) (c k : Nat) : (s.dropThread c k).keyed = s.keyed := rfl
@[simp] theorem State.dropThread_net (s : State) (c k : Nat) : (s.dropThread c k).net = s.net := rfl
@[simp] theorem State.dropThread_by_ (s : State) (c k : Nat) : (s.dropThread c k).by_ = s.by_ := rfl
@[simp] theorem State.dropThread_msix (s : State) (c k : Nat) : (s.dropThread c k).msix = s.msix := rfl
@[simp] theorem State.dropThread_aplic (s : State) (c k : Nat) : (s.dropThread c k).aplic = s.aplic := rfl
@[simp] theorem State.dropThread_ext (s : State) (c k : Nat) : (s.dropThread c k).ext = s.ext := rfl
@[simp] theorem State.dropThread_fresh (s : State) (c k : Nat) : (s.dropThread c k).fresh = s.fresh := rfl
@[simp] theorem State.dropThread_drawn (s : State) (c k : Nat) : (s.dropThread c k).drawn = s.drawn := rfl
@[simp] theorem State.dropThread_vmu_of (s : State) (c k : Nat) (i₁ : Nat) : (s.dropThread c k).vmu i₁ = s.vmu i₁ := rfl
@[simp] theorem State.dropThread_cluster_of (s : State) (c k : Nat) (i₁ : Nat) : (s.dropThread c k).cluster i₁ = s.cluster i₁ := rfl
@[simp] theorem State.dropThread_layer_of (s : State) (c k : Nat) (i₁ : Nat) : (s.dropThread c k).layer i₁ = s.layer i₁ := rfl
@[simp] theorem State.dropThread_tower_of (s : State) (c k : Nat) (i₁ : Nat) : (s.dropThread c k).tower i₁ = s.tower i₁ := rfl
@[simp] theorem State.dropThread_part_of (s : State) (c k : Nat) (i₁ : Nat) : (s.dropThread c k).part i₁ = s.part i₁ := rfl
@[simp] theorem State.dropThread_aux_of (s : State) (c k : Nat) (i₁ : Nat) : (s.dropThread c k).aux i₁ = s.aux i₁ := rfl
@[simp] theorem State.dropThread_life_of (s : State) (c k : Nat) (w₁ : Word) : (s.dropThread c k).life w₁ = s.life w₁ := rfl
@[simp] theorem State.dropThread_now_of (s : State) (c k : Nat)  : (s.dropThread c k).now  = s.now  := rfl
@[simp] theorem State.dropThread_raw_of (s : State) (c k : Nat) (a₁ : Nat) : (s.dropThread c k).raw a₁ = s.raw a₁ := rfl

/-! ### `State.modThread` -/

@[simp] theorem State.modThread_cur (s : State) (c k : Nat) (f : Thread → Thread) : (s.modThread c k f).cur = s.cur := by unfold State.modThread; split <;> rfl
@[simp] theorem State.modThread_env (s : State) (c k : Nat) (f : Thread → Thread) : (s.modThread c k f).env = s.env := by unfold State.modThread; split <;> rfl
@[simp] theorem State.modThread_rotor (s : State) (c k : Nat) (f : Thread → Thread) : (s.modThread c k f).rotor = s.rotor := by unfold State.modThread; split <;> rfl
@[simp] theorem State.modThread_agenda (s : State) (c k : Nat) (f : Thread → Thread) : (s.modThread c k f).agenda = s.agenda := by unfold State.modThread; split <;> rfl
@[simp] theorem State.modThread_md (s : State) (c k : Nat) (f : Thread → Thread) : (s.modThread c k f).md = s.md := by unfold State.modThread; split <;> rfl
@[simp] theorem State.modThread_vmus (s : State) (c k : Nat) (f : Thread → Thread) : (s.modThread c k f).vmus = s.vmus := by unfold State.modThread; split <;> rfl
@[simp] theorem State.modThread_clusters (s : State) (c k : Nat) (f : Thread → Thread) : (s.modThread c k f).clusters = s.clusters := by unfold State.modThread; split <;> rfl
@[simp] theorem State.modThread_layers (s : State) (c k : Nat) (f : Thread → Thread) : (s.modThread c k f).layers = s.layers := by unfold State.modThread; split <;> rfl
@[simp] theorem State.modThread_towers (s : State) (c k : Nat) (f : Thread → Thread) : (s.modThread c k f).towers = s.towers := by unfold State.modThread; split <;> rfl
@[simp] theorem State.modThread_parts (s : State) (c k : Nat) (f : Thread → Thread) : (s.modThread c k f).parts = s.parts := by unfold State.modThread; split <;> rfl
@[simp] theorem State.modThread_auxs (s : State) (c k : Nat) (f : Thread → Thread) : (s.modThread c k f).auxs = s.auxs := by unfold State.modThread; split <;> rfl
@[simp] theorem State.modThread_lives (s : State) (c k : Nat) (f : Thread → Thread) : (s.modThread c k f).lives = s.lives := by unfold State.modThread; split <;> rfl
@[simp] theorem State.modThread_mem (s : State) (c k : Nat) (f : Thread → Thread) : (s.modThread c k f).mem = s.mem := by unfold State.modThread; split <;> rfl
@[simp] theorem State.modThread_keyed (s : State) (c k : Nat) (f : Thread → Thread) : (s.modThread c k f).keyed = s.keyed := by unfold State.modThread; split <;> rfl
@[simp] theorem State.modThread_net (s : State) (c k : Nat) (f : Thread → Thread) : (s.modThread c k f).net = s.net := by unfold State.modThread; split <;> rfl
@[simp] theorem State.modThread_by_ (s : State) (c k : Nat) (f : Thread → Thread) : (s.modThread c k f).by_ = s.by_ := by unfold State.modThread; split <;> rfl
@[simp] theorem State.modThread_msix (s : State) (c k : Nat) (f : Thread → Thread) : (s.modThread c k f).msix = s.msix := by unfold State.modThread; split <;> rfl
@[simp] theorem State.modThread_aplic (s : State) (c k : Nat) (f : Thread → Thread) : (s.modThread c k f).aplic = s.aplic := by unfold State.modThread; split <;> rfl
@[simp] theorem State.modThread_ext (s : State) (c k : Nat) (f : Thread → Thread) : (s.modThread c k f).ext = s.ext := by unfold State.modThread; split <;> rfl
@[simp] theorem State.modThread_fresh (s : State) (c k : Nat) (f : Thread → Thread) : (s.modThread c k f).fresh = s.fresh := by unfold State.modThread; split <;> rfl
@[simp] theorem State.modThread_drawn (s : State) (c k : Nat) (f : Thread → Thread) : (s.modThread c k f).drawn = s.drawn := by unfold State.modThread; split <;> rfl
@[simp] theorem State.modThread_vmu_of (s : State) (c k : Nat) (f : Thread → Thread) (i₁ : Nat) : (s.modThread c k f).vmu i₁ = s.vmu i₁ := by simp [State.vmu]
@[simp] theorem State.modThread_cluster_of (s : State) (c k : Nat) (f : Thread → Thread) (i₁ : Nat) : (s.modThread c k f).cluster i₁ = s.cluster i₁ := by simp [State.cluster]
@[simp] theorem State.modThread_layer_of (s : State) (c k : Nat) (f : Thread → Thread) (i₁ : Nat) : (s.modThread c k f).layer i₁ = s.layer i₁ := by simp [State.layer]
@[simp] theorem State.modThread_tower_of (s : State) (c k : Nat) (f : Thread → Thread) (i₁ : Nat) : (s.modThread c k f).tower i₁ = s.tower i₁ := by simp [State.tower]
@[simp] theorem State.modThread_part_of (s : State) (c k : Nat) (f : Thread → Thread) (i₁ : Nat) : (s.modThread c k f).part i₁ = s.part i₁ := by simp [State.part]
@[simp] theorem State.modThread_aux_of (s : State) (c k : Nat) (f : Thread → Thread) (i₁ : Nat) : (s.modThread c k f).aux i₁ = s.aux i₁ := by simp [State.aux]
@[simp] theorem State.modThread_life_of (s : State) (c k : Nat) (f : Thread → Thread) (w₁ : Word) : (s.modThread c k f).life w₁ = s.life w₁ := by simp [State.life]
@[simp] theorem State.modThread_now_of (s : State) (c k : Nat) (f : Thread → Thread)  : (s.modThread c k f).now  = s.now  := by simp [State.now]
@[simp] theorem State.modThread_raw_of (s : State) (c k : Nat) (f : Thread → Thread) (a₁ : Nat) : (s.modThread c k f).raw a₁ = s.raw a₁ := by simp [State.raw]

/-! ### `State.here` -/

@[simp] theorem State.here_cur (s : State) (f : Thread → Thread) : (s.here f).cur = s.cur := by simp [State.here]
@[simp] theorem State.here_env (s : State) (f : Thread → Thread) : (s.here f).env = s.env := by simp [State.here]
@[simp] theorem State.here_rotor (s : State) (f : Thread → Thread) : (s.here f).rotor = s.rotor := by simp [State.here]
@[simp] theorem State.here_agenda (s : State) (f : Thread → Thread) : (s.here f).agenda = s.agenda := by simp [State.here]
@[simp] theorem State.here_md (s : State) (f : Thread → Thread) : (s.here f).md = s.md := by simp [State.here]
@[simp] theorem State.here_vmus (s : State) (f : Thread → Thread) : (s.here f).vmus = s.vmus := by simp [State.here]
@[simp] theorem State.here_clusters (s : State) (f : Thread → Thread) : (s.here f).clusters = s.clusters := by simp [State.here]
@[simp] theorem State.here_layers (s : State) (f : Thread → Thread) : (s.here f).layers = s.layers := by simp [State.here]
@[simp] theorem State.here_towers (s : State) (f : Thread → Thread) : (s.here f).towers = s.towers := by simp [State.here]
@[simp] theorem State.here_parts (s : State) (f : Thread → Thread) : (s.here f).parts = s.parts := by simp [State.here]
@[simp] theorem State.here_auxs (s : State) (f : Thread → Thread) : (s.here f).auxs = s.auxs := by simp [State.here]
@[simp] theorem State.here_lives (s : State) (f : Thread → Thread) : (s.here f).lives = s.lives := by simp [State.here]
@[simp] theorem State.here_mem (s : State) (f : Thread → Thread) : (s.here f).mem = s.mem := by simp [State.here]
@[simp] theorem State.here_keyed (s : State) (f : Thread → Thread) : (s.here f).keyed = s.keyed := by simp [State.here]
@[simp] theorem State.here_net (s : State) (f : Thread → Thread) : (s.here f).net = s.net := by simp [State.here]
@[simp] theorem State.here_by_ (s : State) (f : Thread → Thread) : (s.here f).by_ = s.by_ := by simp [State.here]
@[simp] theorem State.here_msix (s : State) (f : Thread → Thread) : (s.here f).msix = s.msix := by simp [State.here]
@[simp] theorem State.here_aplic (s : State) (f : Thread → Thread) : (s.here f).aplic = s.aplic := by simp [State.here]
@[simp] theorem State.here_ext (s : State) (f : Thread → Thread) : (s.here f).ext = s.ext := by simp [State.here]
@[simp] theorem State.here_fresh (s : State) (f : Thread → Thread) : (s.here f).fresh = s.fresh := by simp [State.here]
@[simp] theorem State.here_drawn (s : State) (f : Thread → Thread) : (s.here f).drawn = s.drawn := by simp [State.here]
@[simp] theorem State.here_vmu_of (s : State) (f : Thread → Thread) (i₁ : Nat) : (s.here f).vmu i₁ = s.vmu i₁ := by simp [State.vmu]
@[simp] theorem State.here_cluster_of (s : State) (f : Thread → Thread) (i₁ : Nat) : (s.here f).cluster i₁ = s.cluster i₁ := by simp [State.cluster]
@[simp] theorem State.here_layer_of (s : State) (f : Thread → Thread) (i₁ : Nat) : (s.here f).layer i₁ = s.layer i₁ := by simp [State.layer]
@[simp] theorem State.here_tower_of (s : State) (f : Thread → Thread) (i₁ : Nat) : (s.here f).tower i₁ = s.tower i₁ := by simp [State.tower]
@[simp] theorem State.here_part_of (s : State) (f : Thread → Thread) (i₁ : Nat) : (s.here f).part i₁ = s.part i₁ := by simp [State.part]
@[simp] theorem State.here_aux_of (s : State) (f : Thread → Thread) (i₁ : Nat) : (s.here f).aux i₁ = s.aux i₁ := by simp [State.aux]
@[simp] theorem State.here_life_of (s : State) (f : Thread → Thread) (w₁ : Word) : (s.here f).life w₁ = s.life w₁ := by simp [State.life]
@[simp] theorem State.here_now_of (s : State) (f : Thread → Thread)  : (s.here f).now  = s.now  := by simp [State.now]
@[simp] theorem State.here_raw_of (s : State) (f : Thread → Thread) (a₁ : Nat) : (s.here f).raw a₁ = s.raw a₁ := by simp [State.raw]

/-! ### `State.modVmu` -/

@[simp] theorem State.modVmu_cur (s : State) (q : Nat) (f : Vmu → Vmu) : (s.modVmu q f).cur = s.cur := rfl
@[simp] theorem State.modVmu_env (s : State) (q : Nat) (f : Vmu → Vmu) : (s.modVmu q f).env = s.env := rfl
@[simp] theorem State.modVmu_rotor (s : State) (q : Nat) (f : Vmu → Vmu) : (s.modVmu q f).rotor = s.rotor := rfl
@[simp] theorem State.modVmu_agenda (s : State) (q : Nat) (f : Vmu → Vmu) : (s.modVmu q f).agenda = s.agenda := rfl
@[simp] theorem State.modVmu_md (s : State) (q : Nat) (f : Vmu → Vmu) : (s.modVmu q f).md = s.md := rfl
@[simp] theorem State.modVmu_cores (s : State) (q : Nat) (f : Vmu → Vmu) : (s.modVmu q f).cores = s.cores := rfl
@[simp] theorem State.modVmu_clusters (s : State) (q : Nat) (f : Vmu → Vmu) : (s.modVmu q f).clusters = s.clusters := rfl
@[simp] theorem State.modVmu_layers (s : State) (q : Nat) (f : Vmu → Vmu) : (s.modVmu q f).layers = s.layers := rfl
@[simp] theorem State.modVmu_towers (s : State) (q : Nat) (f : Vmu → Vmu) : (s.modVmu q f).towers = s.towers := rfl
@[simp] theorem State.modVmu_parts (s : State) (q : Nat) (f : Vmu → Vmu) : (s.modVmu q f).parts = s.parts := rfl
@[simp] theorem State.modVmu_auxs (s : State) (q : Nat) (f : Vmu → Vmu) : (s.modVmu q f).auxs = s.auxs := rfl
@[simp] theorem State.modVmu_lives (s : State) (q : Nat) (f : Vmu → Vmu) : (s.modVmu q f).lives = s.lives := rfl
@[simp] theorem State.modVmu_mem (s : State) (q : Nat) (f : Vmu → Vmu) : (s.modVmu q f).mem = s.mem := rfl
@[simp] theorem State.modVmu_keyed (s : State) (q : Nat) (f : Vmu → Vmu) : (s.modVmu q f).keyed = s.keyed := rfl
@[simp] theorem State.modVmu_net (s : State) (q : Nat) (f : Vmu → Vmu) : (s.modVmu q f).net = s.net := rfl
@[simp] theorem State.modVmu_by_ (s : State) (q : Nat) (f : Vmu → Vmu) : (s.modVmu q f).by_ = s.by_ := rfl
@[simp] theorem State.modVmu_msix (s : State) (q : Nat) (f : Vmu → Vmu) : (s.modVmu q f).msix = s.msix := rfl
@[simp] theorem State.modVmu_aplic (s : State) (q : Nat) (f : Vmu → Vmu) : (s.modVmu q f).aplic = s.aplic := rfl
@[simp] theorem State.modVmu_ext (s : State) (q : Nat) (f : Vmu → Vmu) : (s.modVmu q f).ext = s.ext := rfl
@[simp] theorem State.modVmu_fresh (s : State) (q : Nat) (f : Vmu → Vmu) : (s.modVmu q f).fresh = s.fresh := rfl
@[simp] theorem State.modVmu_drawn (s : State) (q : Nat) (f : Vmu → Vmu) : (s.modVmu q f).drawn = s.drawn := rfl
@[simp] theorem State.modVmu_core_of (s : State) (q : Nat) (f : Vmu → Vmu) (i₁ : Nat) : (s.modVmu q f).core i₁ = s.core i₁ := rfl
@[simp] theorem State.modVmu_cluster_of (s : State) (q : Nat) (f : Vmu → Vmu) (i₁ : Nat) : (s.modVmu q f).cluster i₁ = s.cluster i₁ := rfl
@[simp] theorem State.modVmu_layer_of (s : State) (q : Nat) (f : Vmu → Vmu) (i₁ : Nat) : (s.modVmu q f).layer i₁ = s.layer i₁ := rfl
@[simp] theorem State.modVmu_tower_of (s : State) (q : Nat) (f : Vmu → Vmu) (i₁ : Nat) : (s.modVmu q f).tower i₁ = s.tower i₁ := rfl
@[simp] theorem State.modVmu_part_of (s : State) (q : Nat) (f : Vmu → Vmu) (i₁ : Nat) : (s.modVmu q f).part i₁ = s.part i₁ := rfl
@[simp] theorem State.modVmu_aux_of (s : State) (q : Nat) (f : Vmu → Vmu) (i₁ : Nat) : (s.modVmu q f).aux i₁ = s.aux i₁ := rfl
@[simp] theorem State.modVmu_life_of (s : State) (q : Nat) (f : Vmu → Vmu) (w₁ : Word) : (s.modVmu q f).life w₁ = s.life w₁ := rfl
@[simp] theorem State.modVmu_thread_of (s : State) (q : Nat) (f : Vmu → Vmu) (i₁ j₁ : Nat) : (s.modVmu q f).thread i₁ j₁ = s.thread i₁ j₁ := rfl
@[simp] theorem State.modVmu_now_of (s : State) (q : Nat) (f : Vmu → Vmu)  : (s.modVmu q f).now  = s.now  := rfl
@[simp] theorem State.modVmu_raw_of (s : State) (q : Nat) (f : Vmu → Vmu) (a₁ : Nat) : (s.modVmu q f).raw a₁ = s.raw a₁ := rfl

/-! ### `State.modCluster` -/

@[simp] theorem State.modCluster_cur (s : State) (c : Nat) (f : Cluster → Cluster) : (s.modCluster c f).cur = s.cur := rfl
@[simp] theorem State.modCluster_env (s : State) (c : Nat) (f : Cluster → Cluster) : (s.modCluster c f).env = s.env := rfl
@[simp] theorem State.modCluster_rotor (s : State) (c : Nat) (f : Cluster → Cluster) : (s.modCluster c f).rotor = s.rotor := rfl
@[simp] theorem State.modCluster_agenda (s : State) (c : Nat) (f : Cluster → Cluster) : (s.modCluster c f).agenda = s.agenda := rfl
@[simp] theorem State.modCluster_md (s : State) (c : Nat) (f : Cluster → Cluster) : (s.modCluster c f).md = s.md := rfl
@[simp] theorem State.modCluster_cores (s : State) (c : Nat) (f : Cluster → Cluster) : (s.modCluster c f).cores = s.cores := rfl
@[simp] theorem State.modCluster_vmus (s : State) (c : Nat) (f : Cluster → Cluster) : (s.modCluster c f).vmus = s.vmus := rfl
@[simp] theorem State.modCluster_layers (s : State) (c : Nat) (f : Cluster → Cluster) : (s.modCluster c f).layers = s.layers := rfl
@[simp] theorem State.modCluster_towers (s : State) (c : Nat) (f : Cluster → Cluster) : (s.modCluster c f).towers = s.towers := rfl
@[simp] theorem State.modCluster_parts (s : State) (c : Nat) (f : Cluster → Cluster) : (s.modCluster c f).parts = s.parts := rfl
@[simp] theorem State.modCluster_auxs (s : State) (c : Nat) (f : Cluster → Cluster) : (s.modCluster c f).auxs = s.auxs := rfl
@[simp] theorem State.modCluster_lives (s : State) (c : Nat) (f : Cluster → Cluster) : (s.modCluster c f).lives = s.lives := rfl
@[simp] theorem State.modCluster_mem (s : State) (c : Nat) (f : Cluster → Cluster) : (s.modCluster c f).mem = s.mem := rfl
@[simp] theorem State.modCluster_keyed (s : State) (c : Nat) (f : Cluster → Cluster) : (s.modCluster c f).keyed = s.keyed := rfl
@[simp] theorem State.modCluster_net (s : State) (c : Nat) (f : Cluster → Cluster) : (s.modCluster c f).net = s.net := rfl
@[simp] theorem State.modCluster_by_ (s : State) (c : Nat) (f : Cluster → Cluster) : (s.modCluster c f).by_ = s.by_ := rfl
@[simp] theorem State.modCluster_msix (s : State) (c : Nat) (f : Cluster → Cluster) : (s.modCluster c f).msix = s.msix := rfl
@[simp] theorem State.modCluster_aplic (s : State) (c : Nat) (f : Cluster → Cluster) : (s.modCluster c f).aplic = s.aplic := rfl
@[simp] theorem State.modCluster_ext (s : State) (c : Nat) (f : Cluster → Cluster) : (s.modCluster c f).ext = s.ext := rfl
@[simp] theorem State.modCluster_fresh (s : State) (c : Nat) (f : Cluster → Cluster) : (s.modCluster c f).fresh = s.fresh := rfl
@[simp] theorem State.modCluster_drawn (s : State) (c : Nat) (f : Cluster → Cluster) : (s.modCluster c f).drawn = s.drawn := rfl
@[simp] theorem State.modCluster_core_of (s : State) (c : Nat) (f : Cluster → Cluster) (i₁ : Nat) : (s.modCluster c f).core i₁ = s.core i₁ := rfl
@[simp] theorem State.modCluster_vmu_of (s : State) (c : Nat) (f : Cluster → Cluster) (i₁ : Nat) : (s.modCluster c f).vmu i₁ = s.vmu i₁ := rfl
@[simp] theorem State.modCluster_layer_of (s : State) (c : Nat) (f : Cluster → Cluster) (i₁ : Nat) : (s.modCluster c f).layer i₁ = s.layer i₁ := rfl
@[simp] theorem State.modCluster_tower_of (s : State) (c : Nat) (f : Cluster → Cluster) (i₁ : Nat) : (s.modCluster c f).tower i₁ = s.tower i₁ := rfl
@[simp] theorem State.modCluster_part_of (s : State) (c : Nat) (f : Cluster → Cluster) (i₁ : Nat) : (s.modCluster c f).part i₁ = s.part i₁ := rfl
@[simp] theorem State.modCluster_aux_of (s : State) (c : Nat) (f : Cluster → Cluster) (i₁ : Nat) : (s.modCluster c f).aux i₁ = s.aux i₁ := rfl
@[simp] theorem State.modCluster_life_of (s : State) (c : Nat) (f : Cluster → Cluster) (w₁ : Word) : (s.modCluster c f).life w₁ = s.life w₁ := rfl
@[simp] theorem State.modCluster_thread_of (s : State) (c : Nat) (f : Cluster → Cluster) (i₁ j₁ : Nat) : (s.modCluster c f).thread i₁ j₁ = s.thread i₁ j₁ := rfl
@[simp] theorem State.modCluster_now_of (s : State) (c : Nat) (f : Cluster → Cluster)  : (s.modCluster c f).now  = s.now  := rfl
@[simp] theorem State.modCluster_raw_of (s : State) (c : Nat) (f : Cluster → Cluster) (a₁ : Nat) : (s.modCluster c f).raw a₁ = s.raw a₁ := rfl

/-! ### `State.modLayer` -/

@[simp] theorem State.modLayer_cur (s : State) (l : Nat) (f : Layer → Layer) : (s.modLayer l f).cur = s.cur := rfl
@[simp] theorem State.modLayer_env (s : State) (l : Nat) (f : Layer → Layer) : (s.modLayer l f).env = s.env := rfl
@[simp] theorem State.modLayer_rotor (s : State) (l : Nat) (f : Layer → Layer) : (s.modLayer l f).rotor = s.rotor := rfl
@[simp] theorem State.modLayer_agenda (s : State) (l : Nat) (f : Layer → Layer) : (s.modLayer l f).agenda = s.agenda := rfl
@[simp] theorem State.modLayer_md (s : State) (l : Nat) (f : Layer → Layer) : (s.modLayer l f).md = s.md := rfl
@[simp] theorem State.modLayer_cores (s : State) (l : Nat) (f : Layer → Layer) : (s.modLayer l f).cores = s.cores := rfl
@[simp] theorem State.modLayer_vmus (s : State) (l : Nat) (f : Layer → Layer) : (s.modLayer l f).vmus = s.vmus := rfl
@[simp] theorem State.modLayer_clusters (s : State) (l : Nat) (f : Layer → Layer) : (s.modLayer l f).clusters = s.clusters := rfl
@[simp] theorem State.modLayer_towers (s : State) (l : Nat) (f : Layer → Layer) : (s.modLayer l f).towers = s.towers := rfl
@[simp] theorem State.modLayer_parts (s : State) (l : Nat) (f : Layer → Layer) : (s.modLayer l f).parts = s.parts := rfl
@[simp] theorem State.modLayer_auxs (s : State) (l : Nat) (f : Layer → Layer) : (s.modLayer l f).auxs = s.auxs := rfl
@[simp] theorem State.modLayer_lives (s : State) (l : Nat) (f : Layer → Layer) : (s.modLayer l f).lives = s.lives := rfl
@[simp] theorem State.modLayer_mem (s : State) (l : Nat) (f : Layer → Layer) : (s.modLayer l f).mem = s.mem := rfl
@[simp] theorem State.modLayer_keyed (s : State) (l : Nat) (f : Layer → Layer) : (s.modLayer l f).keyed = s.keyed := rfl
@[simp] theorem State.modLayer_net (s : State) (l : Nat) (f : Layer → Layer) : (s.modLayer l f).net = s.net := rfl
@[simp] theorem State.modLayer_by_ (s : State) (l : Nat) (f : Layer → Layer) : (s.modLayer l f).by_ = s.by_ := rfl
@[simp] theorem State.modLayer_msix (s : State) (l : Nat) (f : Layer → Layer) : (s.modLayer l f).msix = s.msix := rfl
@[simp] theorem State.modLayer_aplic (s : State) (l : Nat) (f : Layer → Layer) : (s.modLayer l f).aplic = s.aplic := rfl
@[simp] theorem State.modLayer_ext (s : State) (l : Nat) (f : Layer → Layer) : (s.modLayer l f).ext = s.ext := rfl
@[simp] theorem State.modLayer_fresh (s : State) (l : Nat) (f : Layer → Layer) : (s.modLayer l f).fresh = s.fresh := rfl
@[simp] theorem State.modLayer_drawn (s : State) (l : Nat) (f : Layer → Layer) : (s.modLayer l f).drawn = s.drawn := rfl
@[simp] theorem State.modLayer_core_of (s : State) (l : Nat) (f : Layer → Layer) (i₁ : Nat) : (s.modLayer l f).core i₁ = s.core i₁ := rfl
@[simp] theorem State.modLayer_vmu_of (s : State) (l : Nat) (f : Layer → Layer) (i₁ : Nat) : (s.modLayer l f).vmu i₁ = s.vmu i₁ := rfl
@[simp] theorem State.modLayer_cluster_of (s : State) (l : Nat) (f : Layer → Layer) (i₁ : Nat) : (s.modLayer l f).cluster i₁ = s.cluster i₁ := rfl
@[simp] theorem State.modLayer_tower_of (s : State) (l : Nat) (f : Layer → Layer) (i₁ : Nat) : (s.modLayer l f).tower i₁ = s.tower i₁ := rfl
@[simp] theorem State.modLayer_part_of (s : State) (l : Nat) (f : Layer → Layer) (i₁ : Nat) : (s.modLayer l f).part i₁ = s.part i₁ := rfl
@[simp] theorem State.modLayer_aux_of (s : State) (l : Nat) (f : Layer → Layer) (i₁ : Nat) : (s.modLayer l f).aux i₁ = s.aux i₁ := rfl
@[simp] theorem State.modLayer_life_of (s : State) (l : Nat) (f : Layer → Layer) (w₁ : Word) : (s.modLayer l f).life w₁ = s.life w₁ := rfl
@[simp] theorem State.modLayer_thread_of (s : State) (l : Nat) (f : Layer → Layer) (i₁ j₁ : Nat) : (s.modLayer l f).thread i₁ j₁ = s.thread i₁ j₁ := rfl
@[simp] theorem State.modLayer_now_of (s : State) (l : Nat) (f : Layer → Layer)  : (s.modLayer l f).now  = s.now  := rfl
@[simp] theorem State.modLayer_raw_of (s : State) (l : Nat) (f : Layer → Layer) (a₁ : Nat) : (s.modLayer l f).raw a₁ = s.raw a₁ := rfl

/-! ### `State.modTower` -/

@[simp] theorem State.modTower_cur (s : State) (t : Nat) (f : Tower → Tower) : (s.modTower t f).cur = s.cur := rfl
@[simp] theorem State.modTower_env (s : State) (t : Nat) (f : Tower → Tower) : (s.modTower t f).env = s.env := rfl
@[simp] theorem State.modTower_rotor (s : State) (t : Nat) (f : Tower → Tower) : (s.modTower t f).rotor = s.rotor := rfl
@[simp] theorem State.modTower_agenda (s : State) (t : Nat) (f : Tower → Tower) : (s.modTower t f).agenda = s.agenda := rfl
@[simp] theorem State.modTower_md (s : State) (t : Nat) (f : Tower → Tower) : (s.modTower t f).md = s.md := rfl
@[simp] theorem State.modTower_cores (s : State) (t : Nat) (f : Tower → Tower) : (s.modTower t f).cores = s.cores := rfl
@[simp] theorem State.modTower_vmus (s : State) (t : Nat) (f : Tower → Tower) : (s.modTower t f).vmus = s.vmus := rfl
@[simp] theorem State.modTower_clusters (s : State) (t : Nat) (f : Tower → Tower) : (s.modTower t f).clusters = s.clusters := rfl
@[simp] theorem State.modTower_layers (s : State) (t : Nat) (f : Tower → Tower) : (s.modTower t f).layers = s.layers := rfl
@[simp] theorem State.modTower_parts (s : State) (t : Nat) (f : Tower → Tower) : (s.modTower t f).parts = s.parts := rfl
@[simp] theorem State.modTower_auxs (s : State) (t : Nat) (f : Tower → Tower) : (s.modTower t f).auxs = s.auxs := rfl
@[simp] theorem State.modTower_lives (s : State) (t : Nat) (f : Tower → Tower) : (s.modTower t f).lives = s.lives := rfl
@[simp] theorem State.modTower_mem (s : State) (t : Nat) (f : Tower → Tower) : (s.modTower t f).mem = s.mem := rfl
@[simp] theorem State.modTower_keyed (s : State) (t : Nat) (f : Tower → Tower) : (s.modTower t f).keyed = s.keyed := rfl
@[simp] theorem State.modTower_net (s : State) (t : Nat) (f : Tower → Tower) : (s.modTower t f).net = s.net := rfl
@[simp] theorem State.modTower_by_ (s : State) (t : Nat) (f : Tower → Tower) : (s.modTower t f).by_ = s.by_ := rfl
@[simp] theorem State.modTower_msix (s : State) (t : Nat) (f : Tower → Tower) : (s.modTower t f).msix = s.msix := rfl
@[simp] theorem State.modTower_aplic (s : State) (t : Nat) (f : Tower → Tower) : (s.modTower t f).aplic = s.aplic := rfl
@[simp] theorem State.modTower_ext (s : State) (t : Nat) (f : Tower → Tower) : (s.modTower t f).ext = s.ext := rfl
@[simp] theorem State.modTower_fresh (s : State) (t : Nat) (f : Tower → Tower) : (s.modTower t f).fresh = s.fresh := rfl
@[simp] theorem State.modTower_drawn (s : State) (t : Nat) (f : Tower → Tower) : (s.modTower t f).drawn = s.drawn := rfl
@[simp] theorem State.modTower_core_of (s : State) (t : Nat) (f : Tower → Tower) (i₁ : Nat) : (s.modTower t f).core i₁ = s.core i₁ := rfl
@[simp] theorem State.modTower_vmu_of (s : State) (t : Nat) (f : Tower → Tower) (i₁ : Nat) : (s.modTower t f).vmu i₁ = s.vmu i₁ := rfl
@[simp] theorem State.modTower_cluster_of (s : State) (t : Nat) (f : Tower → Tower) (i₁ : Nat) : (s.modTower t f).cluster i₁ = s.cluster i₁ := rfl
@[simp] theorem State.modTower_layer_of (s : State) (t : Nat) (f : Tower → Tower) (i₁ : Nat) : (s.modTower t f).layer i₁ = s.layer i₁ := rfl
@[simp] theorem State.modTower_part_of (s : State) (t : Nat) (f : Tower → Tower) (i₁ : Nat) : (s.modTower t f).part i₁ = s.part i₁ := rfl
@[simp] theorem State.modTower_aux_of (s : State) (t : Nat) (f : Tower → Tower) (i₁ : Nat) : (s.modTower t f).aux i₁ = s.aux i₁ := rfl
@[simp] theorem State.modTower_life_of (s : State) (t : Nat) (f : Tower → Tower) (w₁ : Word) : (s.modTower t f).life w₁ = s.life w₁ := rfl
@[simp] theorem State.modTower_thread_of (s : State) (t : Nat) (f : Tower → Tower) (i₁ j₁ : Nat) : (s.modTower t f).thread i₁ j₁ = s.thread i₁ j₁ := rfl
@[simp] theorem State.modTower_now_of (s : State) (t : Nat) (f : Tower → Tower)  : (s.modTower t f).now  = s.now  := rfl
@[simp] theorem State.modTower_raw_of (s : State) (t : Nat) (f : Tower → Tower) (a₁ : Nat) : (s.modTower t f).raw a₁ = s.raw a₁ := rfl

/-! ### `State.modPart` -/

@[simp] theorem State.modPart_cur (s : State) (p : Nat) (f : Part → Part) : (s.modPart p f).cur = s.cur := rfl
@[simp] theorem State.modPart_env (s : State) (p : Nat) (f : Part → Part) : (s.modPart p f).env = s.env := rfl
@[simp] theorem State.modPart_rotor (s : State) (p : Nat) (f : Part → Part) : (s.modPart p f).rotor = s.rotor := rfl
@[simp] theorem State.modPart_agenda (s : State) (p : Nat) (f : Part → Part) : (s.modPart p f).agenda = s.agenda := rfl
@[simp] theorem State.modPart_md (s : State) (p : Nat) (f : Part → Part) : (s.modPart p f).md = s.md := rfl
@[simp] theorem State.modPart_cores (s : State) (p : Nat) (f : Part → Part) : (s.modPart p f).cores = s.cores := rfl
@[simp] theorem State.modPart_vmus (s : State) (p : Nat) (f : Part → Part) : (s.modPart p f).vmus = s.vmus := rfl
@[simp] theorem State.modPart_clusters (s : State) (p : Nat) (f : Part → Part) : (s.modPart p f).clusters = s.clusters := rfl
@[simp] theorem State.modPart_layers (s : State) (p : Nat) (f : Part → Part) : (s.modPart p f).layers = s.layers := rfl
@[simp] theorem State.modPart_towers (s : State) (p : Nat) (f : Part → Part) : (s.modPart p f).towers = s.towers := rfl
@[simp] theorem State.modPart_auxs (s : State) (p : Nat) (f : Part → Part) : (s.modPart p f).auxs = s.auxs := rfl
@[simp] theorem State.modPart_lives (s : State) (p : Nat) (f : Part → Part) : (s.modPart p f).lives = s.lives := rfl
@[simp] theorem State.modPart_mem (s : State) (p : Nat) (f : Part → Part) : (s.modPart p f).mem = s.mem := rfl
@[simp] theorem State.modPart_keyed (s : State) (p : Nat) (f : Part → Part) : (s.modPart p f).keyed = s.keyed := rfl
@[simp] theorem State.modPart_net (s : State) (p : Nat) (f : Part → Part) : (s.modPart p f).net = s.net := rfl
@[simp] theorem State.modPart_by_ (s : State) (p : Nat) (f : Part → Part) : (s.modPart p f).by_ = s.by_ := rfl
@[simp] theorem State.modPart_msix (s : State) (p : Nat) (f : Part → Part) : (s.modPart p f).msix = s.msix := rfl
@[simp] theorem State.modPart_aplic (s : State) (p : Nat) (f : Part → Part) : (s.modPart p f).aplic = s.aplic := rfl
@[simp] theorem State.modPart_ext (s : State) (p : Nat) (f : Part → Part) : (s.modPart p f).ext = s.ext := rfl
@[simp] theorem State.modPart_fresh (s : State) (p : Nat) (f : Part → Part) : (s.modPart p f).fresh = s.fresh := rfl
@[simp] theorem State.modPart_drawn (s : State) (p : Nat) (f : Part → Part) : (s.modPart p f).drawn = s.drawn := rfl
@[simp] theorem State.modPart_core_of (s : State) (p : Nat) (f : Part → Part) (i₁ : Nat) : (s.modPart p f).core i₁ = s.core i₁ := rfl
@[simp] theorem State.modPart_vmu_of (s : State) (p : Nat) (f : Part → Part) (i₁ : Nat) : (s.modPart p f).vmu i₁ = s.vmu i₁ := rfl
@[simp] theorem State.modPart_cluster_of (s : State) (p : Nat) (f : Part → Part) (i₁ : Nat) : (s.modPart p f).cluster i₁ = s.cluster i₁ := rfl
@[simp] theorem State.modPart_layer_of (s : State) (p : Nat) (f : Part → Part) (i₁ : Nat) : (s.modPart p f).layer i₁ = s.layer i₁ := rfl
@[simp] theorem State.modPart_tower_of (s : State) (p : Nat) (f : Part → Part) (i₁ : Nat) : (s.modPart p f).tower i₁ = s.tower i₁ := rfl
@[simp] theorem State.modPart_aux_of (s : State) (p : Nat) (f : Part → Part) (i₁ : Nat) : (s.modPart p f).aux i₁ = s.aux i₁ := rfl
@[simp] theorem State.modPart_life_of (s : State) (p : Nat) (f : Part → Part) (w₁ : Word) : (s.modPart p f).life w₁ = s.life w₁ := rfl
@[simp] theorem State.modPart_thread_of (s : State) (p : Nat) (f : Part → Part) (i₁ j₁ : Nat) : (s.modPart p f).thread i₁ j₁ = s.thread i₁ j₁ := rfl
@[simp] theorem State.modPart_now_of (s : State) (p : Nat) (f : Part → Part)  : (s.modPart p f).now  = s.now  := rfl
@[simp] theorem State.modPart_raw_of (s : State) (p : Nat) (f : Part → Part) (a₁ : Nat) : (s.modPart p f).raw a₁ = s.raw a₁ := rfl

/-! ### `State.modAux` -/

@[simp] theorem State.modAux_cur (s : State) (p : Nat) (f : PartAux → PartAux) : (s.modAux p f).cur = s.cur := rfl
@[simp] theorem State.modAux_env (s : State) (p : Nat) (f : PartAux → PartAux) : (s.modAux p f).env = s.env := rfl
@[simp] theorem State.modAux_rotor (s : State) (p : Nat) (f : PartAux → PartAux) : (s.modAux p f).rotor = s.rotor := rfl
@[simp] theorem State.modAux_agenda (s : State) (p : Nat) (f : PartAux → PartAux) : (s.modAux p f).agenda = s.agenda := rfl
@[simp] theorem State.modAux_md (s : State) (p : Nat) (f : PartAux → PartAux) : (s.modAux p f).md = s.md := rfl
@[simp] theorem State.modAux_cores (s : State) (p : Nat) (f : PartAux → PartAux) : (s.modAux p f).cores = s.cores := rfl
@[simp] theorem State.modAux_vmus (s : State) (p : Nat) (f : PartAux → PartAux) : (s.modAux p f).vmus = s.vmus := rfl
@[simp] theorem State.modAux_clusters (s : State) (p : Nat) (f : PartAux → PartAux) : (s.modAux p f).clusters = s.clusters := rfl
@[simp] theorem State.modAux_layers (s : State) (p : Nat) (f : PartAux → PartAux) : (s.modAux p f).layers = s.layers := rfl
@[simp] theorem State.modAux_towers (s : State) (p : Nat) (f : PartAux → PartAux) : (s.modAux p f).towers = s.towers := rfl
@[simp] theorem State.modAux_parts (s : State) (p : Nat) (f : PartAux → PartAux) : (s.modAux p f).parts = s.parts := rfl
@[simp] theorem State.modAux_lives (s : State) (p : Nat) (f : PartAux → PartAux) : (s.modAux p f).lives = s.lives := rfl
@[simp] theorem State.modAux_mem (s : State) (p : Nat) (f : PartAux → PartAux) : (s.modAux p f).mem = s.mem := rfl
@[simp] theorem State.modAux_keyed (s : State) (p : Nat) (f : PartAux → PartAux) : (s.modAux p f).keyed = s.keyed := rfl
@[simp] theorem State.modAux_net (s : State) (p : Nat) (f : PartAux → PartAux) : (s.modAux p f).net = s.net := rfl
@[simp] theorem State.modAux_by_ (s : State) (p : Nat) (f : PartAux → PartAux) : (s.modAux p f).by_ = s.by_ := rfl
@[simp] theorem State.modAux_msix (s : State) (p : Nat) (f : PartAux → PartAux) : (s.modAux p f).msix = s.msix := rfl
@[simp] theorem State.modAux_aplic (s : State) (p : Nat) (f : PartAux → PartAux) : (s.modAux p f).aplic = s.aplic := rfl
@[simp] theorem State.modAux_ext (s : State) (p : Nat) (f : PartAux → PartAux) : (s.modAux p f).ext = s.ext := rfl
@[simp] theorem State.modAux_fresh (s : State) (p : Nat) (f : PartAux → PartAux) : (s.modAux p f).fresh = s.fresh := rfl
@[simp] theorem State.modAux_drawn (s : State) (p : Nat) (f : PartAux → PartAux) : (s.modAux p f).drawn = s.drawn := rfl
@[simp] theorem State.modAux_core_of (s : State) (p : Nat) (f : PartAux → PartAux) (i₁ : Nat) : (s.modAux p f).core i₁ = s.core i₁ := rfl
@[simp] theorem State.modAux_vmu_of (s : State) (p : Nat) (f : PartAux → PartAux) (i₁ : Nat) : (s.modAux p f).vmu i₁ = s.vmu i₁ := rfl
@[simp] theorem State.modAux_cluster_of (s : State) (p : Nat) (f : PartAux → PartAux) (i₁ : Nat) : (s.modAux p f).cluster i₁ = s.cluster i₁ := rfl
@[simp] theorem State.modAux_layer_of (s : State) (p : Nat) (f : PartAux → PartAux) (i₁ : Nat) : (s.modAux p f).layer i₁ = s.layer i₁ := rfl
@[simp] theorem State.modAux_tower_of (s : State) (p : Nat) (f : PartAux → PartAux) (i₁ : Nat) : (s.modAux p f).tower i₁ = s.tower i₁ := rfl
@[simp] theorem State.modAux_part_of (s : State) (p : Nat) (f : PartAux → PartAux) (i₁ : Nat) : (s.modAux p f).part i₁ = s.part i₁ := rfl
@[simp] theorem State.modAux_life_of (s : State) (p : Nat) (f : PartAux → PartAux) (w₁ : Word) : (s.modAux p f).life w₁ = s.life w₁ := rfl
@[simp] theorem State.modAux_thread_of (s : State) (p : Nat) (f : PartAux → PartAux) (i₁ j₁ : Nat) : (s.modAux p f).thread i₁ j₁ = s.thread i₁ j₁ := rfl
@[simp] theorem State.modAux_now_of (s : State) (p : Nat) (f : PartAux → PartAux)  : (s.modAux p f).now  = s.now  := rfl
@[simp] theorem State.modAux_raw_of (s : State) (p : Nat) (f : PartAux → PartAux) (a₁ : Nat) : (s.modAux p f).raw a₁ = s.raw a₁ := rfl

/-! ### `State.modSlice` -/

@[simp] theorem State.modSlice_cur (s : State) (p i : Nat) (f : Slice → Slice) : (s.modSlice p i f).cur = s.cur := rfl
@[simp] theorem State.modSlice_env (s : State) (p i : Nat) (f : Slice → Slice) : (s.modSlice p i f).env = s.env := rfl
@[simp] theorem State.modSlice_rotor (s : State) (p i : Nat) (f : Slice → Slice) : (s.modSlice p i f).rotor = s.rotor := rfl
@[simp] theorem State.modSlice_agenda (s : State) (p i : Nat) (f : Slice → Slice) : (s.modSlice p i f).agenda = s.agenda := rfl
@[simp] theorem State.modSlice_md (s : State) (p i : Nat) (f : Slice → Slice) : (s.modSlice p i f).md = s.md := rfl
@[simp] theorem State.modSlice_cores (s : State) (p i : Nat) (f : Slice → Slice) : (s.modSlice p i f).cores = s.cores := rfl
@[simp] theorem State.modSlice_vmus (s : State) (p i : Nat) (f : Slice → Slice) : (s.modSlice p i f).vmus = s.vmus := rfl
@[simp] theorem State.modSlice_clusters (s : State) (p i : Nat) (f : Slice → Slice) : (s.modSlice p i f).clusters = s.clusters := rfl
@[simp] theorem State.modSlice_layers (s : State) (p i : Nat) (f : Slice → Slice) : (s.modSlice p i f).layers = s.layers := rfl
@[simp] theorem State.modSlice_towers (s : State) (p i : Nat) (f : Slice → Slice) : (s.modSlice p i f).towers = s.towers := rfl
@[simp] theorem State.modSlice_parts (s : State) (p i : Nat) (f : Slice → Slice) : (s.modSlice p i f).parts = s.parts := rfl
@[simp] theorem State.modSlice_lives (s : State) (p i : Nat) (f : Slice → Slice) : (s.modSlice p i f).lives = s.lives := rfl
@[simp] theorem State.modSlice_mem (s : State) (p i : Nat) (f : Slice → Slice) : (s.modSlice p i f).mem = s.mem := rfl
@[simp] theorem State.modSlice_keyed (s : State) (p i : Nat) (f : Slice → Slice) : (s.modSlice p i f).keyed = s.keyed := rfl
@[simp] theorem State.modSlice_net (s : State) (p i : Nat) (f : Slice → Slice) : (s.modSlice p i f).net = s.net := rfl
@[simp] theorem State.modSlice_by_ (s : State) (p i : Nat) (f : Slice → Slice) : (s.modSlice p i f).by_ = s.by_ := rfl
@[simp] theorem State.modSlice_msix (s : State) (p i : Nat) (f : Slice → Slice) : (s.modSlice p i f).msix = s.msix := rfl
@[simp] theorem State.modSlice_aplic (s : State) (p i : Nat) (f : Slice → Slice) : (s.modSlice p i f).aplic = s.aplic := rfl
@[simp] theorem State.modSlice_ext (s : State) (p i : Nat) (f : Slice → Slice) : (s.modSlice p i f).ext = s.ext := rfl
@[simp] theorem State.modSlice_fresh (s : State) (p i : Nat) (f : Slice → Slice) : (s.modSlice p i f).fresh = s.fresh := rfl
@[simp] theorem State.modSlice_drawn (s : State) (p i : Nat) (f : Slice → Slice) : (s.modSlice p i f).drawn = s.drawn := rfl
@[simp] theorem State.modSlice_core_of (s : State) (p i : Nat) (f : Slice → Slice) (i₁ : Nat) : (s.modSlice p i f).core i₁ = s.core i₁ := rfl
@[simp] theorem State.modSlice_vmu_of (s : State) (p i : Nat) (f : Slice → Slice) (i₁ : Nat) : (s.modSlice p i f).vmu i₁ = s.vmu i₁ := rfl
@[simp] theorem State.modSlice_cluster_of (s : State) (p i : Nat) (f : Slice → Slice) (i₁ : Nat) : (s.modSlice p i f).cluster i₁ = s.cluster i₁ := rfl
@[simp] theorem State.modSlice_layer_of (s : State) (p i : Nat) (f : Slice → Slice) (i₁ : Nat) : (s.modSlice p i f).layer i₁ = s.layer i₁ := rfl
@[simp] theorem State.modSlice_tower_of (s : State) (p i : Nat) (f : Slice → Slice) (i₁ : Nat) : (s.modSlice p i f).tower i₁ = s.tower i₁ := rfl
@[simp] theorem State.modSlice_part_of (s : State) (p i : Nat) (f : Slice → Slice) (i₁ : Nat) : (s.modSlice p i f).part i₁ = s.part i₁ := rfl
@[simp] theorem State.modSlice_life_of (s : State) (p i : Nat) (f : Slice → Slice) (w₁ : Word) : (s.modSlice p i f).life w₁ = s.life w₁ := rfl
@[simp] theorem State.modSlice_thread_of (s : State) (p i : Nat) (f : Slice → Slice) (i₁ j₁ : Nat) : (s.modSlice p i f).thread i₁ j₁ = s.thread i₁ j₁ := rfl
@[simp] theorem State.modSlice_now_of (s : State) (p i : Nat) (f : Slice → Slice)  : (s.modSlice p i f).now  = s.now  := rfl
@[simp] theorem State.modSlice_raw_of (s : State) (p i : Nat) (f : Slice → Slice) (a₁ : Nat) : (s.modSlice p i f).raw a₁ = s.raw a₁ := rfl

/-! ### `State.modLife` -/

@[simp] theorem State.modLife_cur (s : State) (w : Word) (f : Life → Life) : (s.modLife w f).cur = s.cur := rfl
@[simp] theorem State.modLife_env (s : State) (w : Word) (f : Life → Life) : (s.modLife w f).env = s.env := rfl
@[simp] theorem State.modLife_rotor (s : State) (w : Word) (f : Life → Life) : (s.modLife w f).rotor = s.rotor := rfl
@[simp] theorem State.modLife_agenda (s : State) (w : Word) (f : Life → Life) : (s.modLife w f).agenda = s.agenda := rfl
@[simp] theorem State.modLife_md (s : State) (w : Word) (f : Life → Life) : (s.modLife w f).md = s.md := rfl
@[simp] theorem State.modLife_cores (s : State) (w : Word) (f : Life → Life) : (s.modLife w f).cores = s.cores := rfl
@[simp] theorem State.modLife_vmus (s : State) (w : Word) (f : Life → Life) : (s.modLife w f).vmus = s.vmus := rfl
@[simp] theorem State.modLife_clusters (s : State) (w : Word) (f : Life → Life) : (s.modLife w f).clusters = s.clusters := rfl
@[simp] theorem State.modLife_layers (s : State) (w : Word) (f : Life → Life) : (s.modLife w f).layers = s.layers := rfl
@[simp] theorem State.modLife_towers (s : State) (w : Word) (f : Life → Life) : (s.modLife w f).towers = s.towers := rfl
@[simp] theorem State.modLife_parts (s : State) (w : Word) (f : Life → Life) : (s.modLife w f).parts = s.parts := rfl
@[simp] theorem State.modLife_auxs (s : State) (w : Word) (f : Life → Life) : (s.modLife w f).auxs = s.auxs := rfl
@[simp] theorem State.modLife_mem (s : State) (w : Word) (f : Life → Life) : (s.modLife w f).mem = s.mem := rfl
@[simp] theorem State.modLife_keyed (s : State) (w : Word) (f : Life → Life) : (s.modLife w f).keyed = s.keyed := rfl
@[simp] theorem State.modLife_net (s : State) (w : Word) (f : Life → Life) : (s.modLife w f).net = s.net := rfl
@[simp] theorem State.modLife_by_ (s : State) (w : Word) (f : Life → Life) : (s.modLife w f).by_ = s.by_ := rfl
@[simp] theorem State.modLife_msix (s : State) (w : Word) (f : Life → Life) : (s.modLife w f).msix = s.msix := rfl
@[simp] theorem State.modLife_aplic (s : State) (w : Word) (f : Life → Life) : (s.modLife w f).aplic = s.aplic := rfl
@[simp] theorem State.modLife_ext (s : State) (w : Word) (f : Life → Life) : (s.modLife w f).ext = s.ext := rfl
@[simp] theorem State.modLife_fresh (s : State) (w : Word) (f : Life → Life) : (s.modLife w f).fresh = s.fresh := rfl
@[simp] theorem State.modLife_drawn (s : State) (w : Word) (f : Life → Life) : (s.modLife w f).drawn = s.drawn := rfl
@[simp] theorem State.modLife_core_of (s : State) (w : Word) (f : Life → Life) (i₁ : Nat) : (s.modLife w f).core i₁ = s.core i₁ := rfl
@[simp] theorem State.modLife_vmu_of (s : State) (w : Word) (f : Life → Life) (i₁ : Nat) : (s.modLife w f).vmu i₁ = s.vmu i₁ := rfl
@[simp] theorem State.modLife_cluster_of (s : State) (w : Word) (f : Life → Life) (i₁ : Nat) : (s.modLife w f).cluster i₁ = s.cluster i₁ := rfl
@[simp] theorem State.modLife_layer_of (s : State) (w : Word) (f : Life → Life) (i₁ : Nat) : (s.modLife w f).layer i₁ = s.layer i₁ := rfl
@[simp] theorem State.modLife_tower_of (s : State) (w : Word) (f : Life → Life) (i₁ : Nat) : (s.modLife w f).tower i₁ = s.tower i₁ := rfl
@[simp] theorem State.modLife_part_of (s : State) (w : Word) (f : Life → Life) (i₁ : Nat) : (s.modLife w f).part i₁ = s.part i₁ := rfl
@[simp] theorem State.modLife_aux_of (s : State) (w : Word) (f : Life → Life) (i₁ : Nat) : (s.modLife w f).aux i₁ = s.aux i₁ := rfl
@[simp] theorem State.modLife_thread_of (s : State) (w : Word) (f : Life → Life) (i₁ j₁ : Nat) : (s.modLife w f).thread i₁ j₁ = s.thread i₁ j₁ := rfl
@[simp] theorem State.modLife_now_of (s : State) (w : Word) (f : Life → Life)  : (s.modLife w f).now  = s.now  := rfl
@[simp] theorem State.modLife_raw_of (s : State) (w : Word) (f : Life → Life) (a₁ : Nat) : (s.modLife w f).raw a₁ = s.raw a₁ := rfl

/-! ### `State.modNet` -/

@[simp] theorem State.modNet_cur (s : State) (f : Net → Net) : (s.modNet f).cur = s.cur := rfl
@[simp] theorem State.modNet_env (s : State) (f : Net → Net) : (s.modNet f).env = s.env := rfl
@[simp] theorem State.modNet_rotor (s : State) (f : Net → Net) : (s.modNet f).rotor = s.rotor := rfl
@[simp] theorem State.modNet_agenda (s : State) (f : Net → Net) : (s.modNet f).agenda = s.agenda := rfl
@[simp] theorem State.modNet_md (s : State) (f : Net → Net) : (s.modNet f).md = s.md := rfl
@[simp] theorem State.modNet_cores (s : State) (f : Net → Net) : (s.modNet f).cores = s.cores := rfl
@[simp] theorem State.modNet_vmus (s : State) (f : Net → Net) : (s.modNet f).vmus = s.vmus := rfl
@[simp] theorem State.modNet_clusters (s : State) (f : Net → Net) : (s.modNet f).clusters = s.clusters := rfl
@[simp] theorem State.modNet_layers (s : State) (f : Net → Net) : (s.modNet f).layers = s.layers := rfl
@[simp] theorem State.modNet_towers (s : State) (f : Net → Net) : (s.modNet f).towers = s.towers := rfl
@[simp] theorem State.modNet_parts (s : State) (f : Net → Net) : (s.modNet f).parts = s.parts := rfl
@[simp] theorem State.modNet_auxs (s : State) (f : Net → Net) : (s.modNet f).auxs = s.auxs := rfl
@[simp] theorem State.modNet_lives (s : State) (f : Net → Net) : (s.modNet f).lives = s.lives := rfl
@[simp] theorem State.modNet_mem (s : State) (f : Net → Net) : (s.modNet f).mem = s.mem := rfl
@[simp] theorem State.modNet_keyed (s : State) (f : Net → Net) : (s.modNet f).keyed = s.keyed := rfl
@[simp] theorem State.modNet_by_ (s : State) (f : Net → Net) : (s.modNet f).by_ = s.by_ := rfl
@[simp] theorem State.modNet_msix (s : State) (f : Net → Net) : (s.modNet f).msix = s.msix := rfl
@[simp] theorem State.modNet_aplic (s : State) (f : Net → Net) : (s.modNet f).aplic = s.aplic := rfl
@[simp] theorem State.modNet_ext (s : State) (f : Net → Net) : (s.modNet f).ext = s.ext := rfl
@[simp] theorem State.modNet_fresh (s : State) (f : Net → Net) : (s.modNet f).fresh = s.fresh := rfl
@[simp] theorem State.modNet_drawn (s : State) (f : Net → Net) : (s.modNet f).drawn = s.drawn := rfl
@[simp] theorem State.modNet_core_of (s : State) (f : Net → Net) (i₁ : Nat) : (s.modNet f).core i₁ = s.core i₁ := rfl
@[simp] theorem State.modNet_vmu_of (s : State) (f : Net → Net) (i₁ : Nat) : (s.modNet f).vmu i₁ = s.vmu i₁ := rfl
@[simp] theorem State.modNet_cluster_of (s : State) (f : Net → Net) (i₁ : Nat) : (s.modNet f).cluster i₁ = s.cluster i₁ := rfl
@[simp] theorem State.modNet_layer_of (s : State) (f : Net → Net) (i₁ : Nat) : (s.modNet f).layer i₁ = s.layer i₁ := rfl
@[simp] theorem State.modNet_tower_of (s : State) (f : Net → Net) (i₁ : Nat) : (s.modNet f).tower i₁ = s.tower i₁ := rfl
@[simp] theorem State.modNet_part_of (s : State) (f : Net → Net) (i₁ : Nat) : (s.modNet f).part i₁ = s.part i₁ := rfl
@[simp] theorem State.modNet_aux_of (s : State) (f : Net → Net) (i₁ : Nat) : (s.modNet f).aux i₁ = s.aux i₁ := rfl
@[simp] theorem State.modNet_life_of (s : State) (f : Net → Net) (w₁ : Word) : (s.modNet f).life w₁ = s.life w₁ := rfl
@[simp] theorem State.modNet_thread_of (s : State) (f : Net → Net) (i₁ j₁ : Nat) : (s.modNet f).thread i₁ j₁ = s.thread i₁ j₁ := rfl
@[simp] theorem State.modNet_now_of (s : State) (f : Net → Net)  : (s.modNet f).now  = s.now  := rfl
@[simp] theorem State.modNet_raw_of (s : State) (f : Net → Net) (a₁ : Nat) : (s.modNet f).raw a₁ = s.raw a₁ := rfl

/-! ### `State.modMod` -/

@[simp] theorem State.modMod_cur (s : State) (f : Mod → Mod) : (s.modMod f).cur = s.cur := rfl
@[simp] theorem State.modMod_env (s : State) (f : Mod → Mod) : (s.modMod f).env = s.env := rfl
@[simp] theorem State.modMod_rotor (s : State) (f : Mod → Mod) : (s.modMod f).rotor = s.rotor := rfl
@[simp] theorem State.modMod_agenda (s : State) (f : Mod → Mod) : (s.modMod f).agenda = s.agenda := rfl
@[simp] theorem State.modMod_cores (s : State) (f : Mod → Mod) : (s.modMod f).cores = s.cores := rfl
@[simp] theorem State.modMod_vmus (s : State) (f : Mod → Mod) : (s.modMod f).vmus = s.vmus := rfl
@[simp] theorem State.modMod_clusters (s : State) (f : Mod → Mod) : (s.modMod f).clusters = s.clusters := rfl
@[simp] theorem State.modMod_layers (s : State) (f : Mod → Mod) : (s.modMod f).layers = s.layers := rfl
@[simp] theorem State.modMod_towers (s : State) (f : Mod → Mod) : (s.modMod f).towers = s.towers := rfl
@[simp] theorem State.modMod_parts (s : State) (f : Mod → Mod) : (s.modMod f).parts = s.parts := rfl
@[simp] theorem State.modMod_auxs (s : State) (f : Mod → Mod) : (s.modMod f).auxs = s.auxs := rfl
@[simp] theorem State.modMod_lives (s : State) (f : Mod → Mod) : (s.modMod f).lives = s.lives := rfl
@[simp] theorem State.modMod_mem (s : State) (f : Mod → Mod) : (s.modMod f).mem = s.mem := rfl
@[simp] theorem State.modMod_keyed (s : State) (f : Mod → Mod) : (s.modMod f).keyed = s.keyed := rfl
@[simp] theorem State.modMod_net (s : State) (f : Mod → Mod) : (s.modMod f).net = s.net := rfl
@[simp] theorem State.modMod_by_ (s : State) (f : Mod → Mod) : (s.modMod f).by_ = s.by_ := rfl
@[simp] theorem State.modMod_msix (s : State) (f : Mod → Mod) : (s.modMod f).msix = s.msix := rfl
@[simp] theorem State.modMod_aplic (s : State) (f : Mod → Mod) : (s.modMod f).aplic = s.aplic := rfl
@[simp] theorem State.modMod_ext (s : State) (f : Mod → Mod) : (s.modMod f).ext = s.ext := rfl
@[simp] theorem State.modMod_fresh (s : State) (f : Mod → Mod) : (s.modMod f).fresh = s.fresh := rfl
@[simp] theorem State.modMod_drawn (s : State) (f : Mod → Mod) : (s.modMod f).drawn = s.drawn := rfl
@[simp] theorem State.modMod_core_of (s : State) (f : Mod → Mod) (i₁ : Nat) : (s.modMod f).core i₁ = s.core i₁ := rfl
@[simp] theorem State.modMod_vmu_of (s : State) (f : Mod → Mod) (i₁ : Nat) : (s.modMod f).vmu i₁ = s.vmu i₁ := rfl
@[simp] theorem State.modMod_cluster_of (s : State) (f : Mod → Mod) (i₁ : Nat) : (s.modMod f).cluster i₁ = s.cluster i₁ := rfl
@[simp] theorem State.modMod_layer_of (s : State) (f : Mod → Mod) (i₁ : Nat) : (s.modMod f).layer i₁ = s.layer i₁ := rfl
@[simp] theorem State.modMod_tower_of (s : State) (f : Mod → Mod) (i₁ : Nat) : (s.modMod f).tower i₁ = s.tower i₁ := rfl
@[simp] theorem State.modMod_part_of (s : State) (f : Mod → Mod) (i₁ : Nat) : (s.modMod f).part i₁ = s.part i₁ := rfl
@[simp] theorem State.modMod_aux_of (s : State) (f : Mod → Mod) (i₁ : Nat) : (s.modMod f).aux i₁ = s.aux i₁ := rfl
@[simp] theorem State.modMod_life_of (s : State) (f : Mod → Mod) (w₁ : Word) : (s.modMod f).life w₁ = s.life w₁ := rfl
@[simp] theorem State.modMod_thread_of (s : State) (f : Mod → Mod) (i₁ j₁ : Nat) : (s.modMod f).thread i₁ j₁ = s.thread i₁ j₁ := rfl
@[simp] theorem State.modMod_raw_of (s : State) (f : Mod → Mod) (a₁ : Nat) : (s.modMod f).raw a₁ = s.raw a₁ := rfl

/-! ### `State.modByand` -/

@[simp] theorem State.modByand_cur (s : State) (f : Byand → Byand) : (s.modByand f).cur = s.cur := rfl
@[simp] theorem State.modByand_env (s : State) (f : Byand → Byand) : (s.modByand f).env = s.env := rfl
@[simp] theorem State.modByand_rotor (s : State) (f : Byand → Byand) : (s.modByand f).rotor = s.rotor := rfl
@[simp] theorem State.modByand_agenda (s : State) (f : Byand → Byand) : (s.modByand f).agenda = s.agenda := rfl
@[simp] theorem State.modByand_md (s : State) (f : Byand → Byand) : (s.modByand f).md = s.md := rfl
@[simp] theorem State.modByand_cores (s : State) (f : Byand → Byand) : (s.modByand f).cores = s.cores := rfl
@[simp] theorem State.modByand_vmus (s : State) (f : Byand → Byand) : (s.modByand f).vmus = s.vmus := rfl
@[simp] theorem State.modByand_clusters (s : State) (f : Byand → Byand) : (s.modByand f).clusters = s.clusters := rfl
@[simp] theorem State.modByand_layers (s : State) (f : Byand → Byand) : (s.modByand f).layers = s.layers := rfl
@[simp] theorem State.modByand_towers (s : State) (f : Byand → Byand) : (s.modByand f).towers = s.towers := rfl
@[simp] theorem State.modByand_parts (s : State) (f : Byand → Byand) : (s.modByand f).parts = s.parts := rfl
@[simp] theorem State.modByand_auxs (s : State) (f : Byand → Byand) : (s.modByand f).auxs = s.auxs := rfl
@[simp] theorem State.modByand_lives (s : State) (f : Byand → Byand) : (s.modByand f).lives = s.lives := rfl
@[simp] theorem State.modByand_mem (s : State) (f : Byand → Byand) : (s.modByand f).mem = s.mem := rfl
@[simp] theorem State.modByand_keyed (s : State) (f : Byand → Byand) : (s.modByand f).keyed = s.keyed := rfl
@[simp] theorem State.modByand_net (s : State) (f : Byand → Byand) : (s.modByand f).net = s.net := rfl
@[simp] theorem State.modByand_msix (s : State) (f : Byand → Byand) : (s.modByand f).msix = s.msix := rfl
@[simp] theorem State.modByand_aplic (s : State) (f : Byand → Byand) : (s.modByand f).aplic = s.aplic := rfl
@[simp] theorem State.modByand_ext (s : State) (f : Byand → Byand) : (s.modByand f).ext = s.ext := rfl
@[simp] theorem State.modByand_fresh (s : State) (f : Byand → Byand) : (s.modByand f).fresh = s.fresh := rfl
@[simp] theorem State.modByand_drawn (s : State) (f : Byand → Byand) : (s.modByand f).drawn = s.drawn := rfl
@[simp] theorem State.modByand_core_of (s : State) (f : Byand → Byand) (i₁ : Nat) : (s.modByand f).core i₁ = s.core i₁ := rfl
@[simp] theorem State.modByand_vmu_of (s : State) (f : Byand → Byand) (i₁ : Nat) : (s.modByand f).vmu i₁ = s.vmu i₁ := rfl
@[simp] theorem State.modByand_cluster_of (s : State) (f : Byand → Byand) (i₁ : Nat) : (s.modByand f).cluster i₁ = s.cluster i₁ := rfl
@[simp] theorem State.modByand_layer_of (s : State) (f : Byand → Byand) (i₁ : Nat) : (s.modByand f).layer i₁ = s.layer i₁ := rfl
@[simp] theorem State.modByand_tower_of (s : State) (f : Byand → Byand) (i₁ : Nat) : (s.modByand f).tower i₁ = s.tower i₁ := rfl
@[simp] theorem State.modByand_part_of (s : State) (f : Byand → Byand) (i₁ : Nat) : (s.modByand f).part i₁ = s.part i₁ := rfl
@[simp] theorem State.modByand_aux_of (s : State) (f : Byand → Byand) (i₁ : Nat) : (s.modByand f).aux i₁ = s.aux i₁ := rfl
@[simp] theorem State.modByand_life_of (s : State) (f : Byand → Byand) (w₁ : Word) : (s.modByand f).life w₁ = s.life w₁ := rfl
@[simp] theorem State.modByand_thread_of (s : State) (f : Byand → Byand) (i₁ j₁ : Nat) : (s.modByand f).thread i₁ j₁ = s.thread i₁ j₁ := rfl
@[simp] theorem State.modByand_now_of (s : State) (f : Byand → Byand)  : (s.modByand f).now  = s.now  := rfl
@[simp] theorem State.modByand_raw_of (s : State) (f : Byand → Byand) (a₁ : Nat) : (s.modByand f).raw a₁ = s.raw a₁ := rfl

/-! ### `State.putByte` -/

@[simp] theorem State.putByte_cur (s : State) (a : Nat) (b : Byte) : (s.putByte a b).cur = s.cur := rfl
@[simp] theorem State.putByte_env (s : State) (a : Nat) (b : Byte) : (s.putByte a b).env = s.env := rfl
@[simp] theorem State.putByte_rotor (s : State) (a : Nat) (b : Byte) : (s.putByte a b).rotor = s.rotor := rfl
@[simp] theorem State.putByte_agenda (s : State) (a : Nat) (b : Byte) : (s.putByte a b).agenda = s.agenda := rfl
@[simp] theorem State.putByte_md (s : State) (a : Nat) (b : Byte) : (s.putByte a b).md = s.md := rfl
@[simp] theorem State.putByte_cores (s : State) (a : Nat) (b : Byte) : (s.putByte a b).cores = s.cores := rfl
@[simp] theorem State.putByte_vmus (s : State) (a : Nat) (b : Byte) : (s.putByte a b).vmus = s.vmus := rfl
@[simp] theorem State.putByte_clusters (s : State) (a : Nat) (b : Byte) : (s.putByte a b).clusters = s.clusters := rfl
@[simp] theorem State.putByte_layers (s : State) (a : Nat) (b : Byte) : (s.putByte a b).layers = s.layers := rfl
@[simp] theorem State.putByte_towers (s : State) (a : Nat) (b : Byte) : (s.putByte a b).towers = s.towers := rfl
@[simp] theorem State.putByte_parts (s : State) (a : Nat) (b : Byte) : (s.putByte a b).parts = s.parts := rfl
@[simp] theorem State.putByte_auxs (s : State) (a : Nat) (b : Byte) : (s.putByte a b).auxs = s.auxs := rfl
@[simp] theorem State.putByte_lives (s : State) (a : Nat) (b : Byte) : (s.putByte a b).lives = s.lives := rfl
@[simp] theorem State.putByte_keyed (s : State) (a : Nat) (b : Byte) : (s.putByte a b).keyed = s.keyed := rfl
@[simp] theorem State.putByte_net (s : State) (a : Nat) (b : Byte) : (s.putByte a b).net = s.net := rfl
@[simp] theorem State.putByte_by_ (s : State) (a : Nat) (b : Byte) : (s.putByte a b).by_ = s.by_ := rfl
@[simp] theorem State.putByte_msix (s : State) (a : Nat) (b : Byte) : (s.putByte a b).msix = s.msix := rfl
@[simp] theorem State.putByte_aplic (s : State) (a : Nat) (b : Byte) : (s.putByte a b).aplic = s.aplic := rfl
@[simp] theorem State.putByte_ext (s : State) (a : Nat) (b : Byte) : (s.putByte a b).ext = s.ext := rfl
@[simp] theorem State.putByte_fresh (s : State) (a : Nat) (b : Byte) : (s.putByte a b).fresh = s.fresh := rfl
@[simp] theorem State.putByte_drawn (s : State) (a : Nat) (b : Byte) : (s.putByte a b).drawn = s.drawn := rfl
@[simp] theorem State.putByte_core_of (s : State) (a : Nat) (b : Byte) (i₁ : Nat) : (s.putByte a b).core i₁ = s.core i₁ := rfl
@[simp] theorem State.putByte_vmu_of (s : State) (a : Nat) (b : Byte) (i₁ : Nat) : (s.putByte a b).vmu i₁ = s.vmu i₁ := rfl
@[simp] theorem State.putByte_cluster_of (s : State) (a : Nat) (b : Byte) (i₁ : Nat) : (s.putByte a b).cluster i₁ = s.cluster i₁ := rfl
@[simp] theorem State.putByte_layer_of (s : State) (a : Nat) (b : Byte) (i₁ : Nat) : (s.putByte a b).layer i₁ = s.layer i₁ := rfl
@[simp] theorem State.putByte_tower_of (s : State) (a : Nat) (b : Byte) (i₁ : Nat) : (s.putByte a b).tower i₁ = s.tower i₁ := rfl
@[simp] theorem State.putByte_part_of (s : State) (a : Nat) (b : Byte) (i₁ : Nat) : (s.putByte a b).part i₁ = s.part i₁ := rfl
@[simp] theorem State.putByte_aux_of (s : State) (a : Nat) (b : Byte) (i₁ : Nat) : (s.putByte a b).aux i₁ = s.aux i₁ := rfl
@[simp] theorem State.putByte_life_of (s : State) (a : Nat) (b : Byte) (w₁ : Word) : (s.putByte a b).life w₁ = s.life w₁ := rfl
@[simp] theorem State.putByte_thread_of (s : State) (a : Nat) (b : Byte) (i₁ j₁ : Nat) : (s.putByte a b).thread i₁ j₁ = s.thread i₁ j₁ := rfl
@[simp] theorem State.putByte_now_of (s : State) (a : Nat) (b : Byte)  : (s.putByte a b).now  = s.now  := rfl

/-! ### `State.zeroRange` -/

@[simp] theorem State.zeroRange_cur (s : State) (lo hi : Nat) : (s.zeroRange lo hi).cur = s.cur := rfl
@[simp] theorem State.zeroRange_env (s : State) (lo hi : Nat) : (s.zeroRange lo hi).env = s.env := rfl
@[simp] theorem State.zeroRange_rotor (s : State) (lo hi : Nat) : (s.zeroRange lo hi).rotor = s.rotor := rfl
@[simp] theorem State.zeroRange_agenda (s : State) (lo hi : Nat) : (s.zeroRange lo hi).agenda = s.agenda := rfl
@[simp] theorem State.zeroRange_md (s : State) (lo hi : Nat) : (s.zeroRange lo hi).md = s.md := rfl
@[simp] theorem State.zeroRange_cores (s : State) (lo hi : Nat) : (s.zeroRange lo hi).cores = s.cores := rfl
@[simp] theorem State.zeroRange_vmus (s : State) (lo hi : Nat) : (s.zeroRange lo hi).vmus = s.vmus := rfl
@[simp] theorem State.zeroRange_clusters (s : State) (lo hi : Nat) : (s.zeroRange lo hi).clusters = s.clusters := rfl
@[simp] theorem State.zeroRange_layers (s : State) (lo hi : Nat) : (s.zeroRange lo hi).layers = s.layers := rfl
@[simp] theorem State.zeroRange_towers (s : State) (lo hi : Nat) : (s.zeroRange lo hi).towers = s.towers := rfl
@[simp] theorem State.zeroRange_parts (s : State) (lo hi : Nat) : (s.zeroRange lo hi).parts = s.parts := rfl
@[simp] theorem State.zeroRange_auxs (s : State) (lo hi : Nat) : (s.zeroRange lo hi).auxs = s.auxs := rfl
@[simp] theorem State.zeroRange_lives (s : State) (lo hi : Nat) : (s.zeroRange lo hi).lives = s.lives := rfl
@[simp] theorem State.zeroRange_keyed (s : State) (lo hi : Nat) : (s.zeroRange lo hi).keyed = s.keyed := rfl
@[simp] theorem State.zeroRange_net (s : State) (lo hi : Nat) : (s.zeroRange lo hi).net = s.net := rfl
@[simp] theorem State.zeroRange_by_ (s : State) (lo hi : Nat) : (s.zeroRange lo hi).by_ = s.by_ := rfl
@[simp] theorem State.zeroRange_msix (s : State) (lo hi : Nat) : (s.zeroRange lo hi).msix = s.msix := rfl
@[simp] theorem State.zeroRange_aplic (s : State) (lo hi : Nat) : (s.zeroRange lo hi).aplic = s.aplic := rfl
@[simp] theorem State.zeroRange_ext (s : State) (lo hi : Nat) : (s.zeroRange lo hi).ext = s.ext := rfl
@[simp] theorem State.zeroRange_fresh (s : State) (lo hi : Nat) : (s.zeroRange lo hi).fresh = s.fresh := rfl
@[simp] theorem State.zeroRange_drawn (s : State) (lo hi : Nat) : (s.zeroRange lo hi).drawn = s.drawn := rfl
@[simp] theorem State.zeroRange_core_of (s : State) (lo hi : Nat) (i₁ : Nat) : (s.zeroRange lo hi).core i₁ = s.core i₁ := rfl
@[simp] theorem State.zeroRange_vmu_of (s : State) (lo hi : Nat) (i₁ : Nat) : (s.zeroRange lo hi).vmu i₁ = s.vmu i₁ := rfl
@[simp] theorem State.zeroRange_cluster_of (s : State) (lo hi : Nat) (i₁ : Nat) : (s.zeroRange lo hi).cluster i₁ = s.cluster i₁ := rfl
@[simp] theorem State.zeroRange_layer_of (s : State) (lo hi : Nat) (i₁ : Nat) : (s.zeroRange lo hi).layer i₁ = s.layer i₁ := rfl
@[simp] theorem State.zeroRange_tower_of (s : State) (lo hi : Nat) (i₁ : Nat) : (s.zeroRange lo hi).tower i₁ = s.tower i₁ := rfl
@[simp] theorem State.zeroRange_part_of (s : State) (lo hi : Nat) (i₁ : Nat) : (s.zeroRange lo hi).part i₁ = s.part i₁ := rfl
@[simp] theorem State.zeroRange_aux_of (s : State) (lo hi : Nat) (i₁ : Nat) : (s.zeroRange lo hi).aux i₁ = s.aux i₁ := rfl
@[simp] theorem State.zeroRange_life_of (s : State) (lo hi : Nat) (w₁ : Word) : (s.zeroRange lo hi).life w₁ = s.life w₁ := rfl
@[simp] theorem State.zeroRange_thread_of (s : State) (lo hi : Nat) (i₁ j₁ : Nat) : (s.zeroRange lo hi).thread i₁ j₁ = s.thread i₁ j₁ := rfl
@[simp] theorem State.zeroRange_now_of (s : State) (lo hi : Nat)  : (s.zeroRange lo hi).now  = s.now  := rfl

/-! ### `State.charge` -/

@[simp] theorem State.charge_cur (s : State) (p i n : Nat) : (s.charge p i n).cur = s.cur := by unfold State.charge; split <;> rfl
@[simp] theorem State.charge_env (s : State) (p i n : Nat) : (s.charge p i n).env = s.env := by unfold State.charge; split <;> rfl
@[simp] theorem State.charge_rotor (s : State) (p i n : Nat) : (s.charge p i n).rotor = s.rotor := by unfold State.charge; split <;> rfl
@[simp] theorem State.charge_agenda (s : State) (p i n : Nat) : (s.charge p i n).agenda = s.agenda := by unfold State.charge; split <;> rfl
@[simp] theorem State.charge_md (s : State) (p i n : Nat) : (s.charge p i n).md = s.md := by unfold State.charge; split <;> rfl
@[simp] theorem State.charge_cores (s : State) (p i n : Nat) : (s.charge p i n).cores = s.cores := by unfold State.charge; split <;> rfl
@[simp] theorem State.charge_vmus (s : State) (p i n : Nat) : (s.charge p i n).vmus = s.vmus := by unfold State.charge; split <;> rfl
@[simp] theorem State.charge_clusters (s : State) (p i n : Nat) : (s.charge p i n).clusters = s.clusters := by unfold State.charge; split <;> rfl
@[simp] theorem State.charge_layers (s : State) (p i n : Nat) : (s.charge p i n).layers = s.layers := by unfold State.charge; split <;> rfl
@[simp] theorem State.charge_towers (s : State) (p i n : Nat) : (s.charge p i n).towers = s.towers := by unfold State.charge; split <;> rfl
@[simp] theorem State.charge_auxs (s : State) (p i n : Nat) : (s.charge p i n).auxs = s.auxs := by unfold State.charge; split <;> rfl
@[simp] theorem State.charge_lives (s : State) (p i n : Nat) : (s.charge p i n).lives = s.lives := by unfold State.charge; split <;> rfl
@[simp] theorem State.charge_mem (s : State) (p i n : Nat) : (s.charge p i n).mem = s.mem := by unfold State.charge; split <;> rfl
@[simp] theorem State.charge_keyed (s : State) (p i n : Nat) : (s.charge p i n).keyed = s.keyed := by unfold State.charge; split <;> rfl
@[simp] theorem State.charge_net (s : State) (p i n : Nat) : (s.charge p i n).net = s.net := by unfold State.charge; split <;> rfl
@[simp] theorem State.charge_by_ (s : State) (p i n : Nat) : (s.charge p i n).by_ = s.by_ := by unfold State.charge; split <;> rfl
@[simp] theorem State.charge_msix (s : State) (p i n : Nat) : (s.charge p i n).msix = s.msix := by unfold State.charge; split <;> rfl
@[simp] theorem State.charge_aplic (s : State) (p i n : Nat) : (s.charge p i n).aplic = s.aplic := by unfold State.charge; split <;> rfl
@[simp] theorem State.charge_ext (s : State) (p i n : Nat) : (s.charge p i n).ext = s.ext := by unfold State.charge; split <;> rfl
@[simp] theorem State.charge_fresh (s : State) (p i n : Nat) : (s.charge p i n).fresh = s.fresh := by unfold State.charge; split <;> rfl
@[simp] theorem State.charge_drawn (s : State) (p i n : Nat) : (s.charge p i n).drawn = s.drawn := by unfold State.charge; split <;> rfl
@[simp] theorem State.charge_core_of (s : State) (p i n : Nat) (i₁ : Nat) : (s.charge p i n).core i₁ = s.core i₁ := by simp [State.core]
@[simp] theorem State.charge_vmu_of (s : State) (p i n : Nat) (i₁ : Nat) : (s.charge p i n).vmu i₁ = s.vmu i₁ := by simp [State.vmu]
@[simp] theorem State.charge_cluster_of (s : State) (p i n : Nat) (i₁ : Nat) : (s.charge p i n).cluster i₁ = s.cluster i₁ := by simp [State.cluster]
@[simp] theorem State.charge_layer_of (s : State) (p i n : Nat) (i₁ : Nat) : (s.charge p i n).layer i₁ = s.layer i₁ := by simp [State.layer]
@[simp] theorem State.charge_tower_of (s : State) (p i n : Nat) (i₁ : Nat) : (s.charge p i n).tower i₁ = s.tower i₁ := by simp [State.tower]
@[simp] theorem State.charge_aux_of (s : State) (p i n : Nat) (i₁ : Nat) : (s.charge p i n).aux i₁ = s.aux i₁ := by simp [State.aux]
@[simp] theorem State.charge_life_of (s : State) (p i n : Nat) (w₁ : Word) : (s.charge p i n).life w₁ = s.life w₁ := by simp [State.life]
@[simp] theorem State.charge_thread_of (s : State) (p i n : Nat) (i₁ j₁ : Nat) : (s.charge p i n).thread i₁ j₁ = s.thread i₁ j₁ := by simp [State.thread, State.core]
@[simp] theorem State.charge_now_of (s : State) (p i n : Nat)  : (s.charge p i n).now  = s.now  := by simp [State.now]
@[simp] theorem State.charge_raw_of (s : State) (p i n : Nat) (a₁ : Nat) : (s.charge p i n).raw a₁ = s.raw a₁ := by simp [State.raw]

/-! ### `State.use` -/

@[simp] theorem State.use_env (s : State)  : (s.use).env = s.env := rfl
@[simp] theorem State.use_rotor (s : State)  : (s.use).rotor = s.rotor := rfl
@[simp] theorem State.use_agenda (s : State)  : (s.use).agenda = s.agenda := rfl
@[simp] theorem State.use_md (s : State)  : (s.use).md = s.md := rfl
@[simp] theorem State.use_cores (s : State)  : (s.use).cores = s.cores := rfl
@[simp] theorem State.use_vmus (s : State)  : (s.use).vmus = s.vmus := rfl
@[simp] theorem State.use_clusters (s : State)  : (s.use).clusters = s.clusters := rfl
@[simp] theorem State.use_layers (s : State)  : (s.use).layers = s.layers := rfl
@[simp] theorem State.use_towers (s : State)  : (s.use).towers = s.towers := rfl
@[simp] theorem State.use_parts (s : State)  : (s.use).parts = s.parts := rfl
@[simp] theorem State.use_auxs (s : State)  : (s.use).auxs = s.auxs := rfl
@[simp] theorem State.use_lives (s : State)  : (s.use).lives = s.lives := rfl
@[simp] theorem State.use_mem (s : State)  : (s.use).mem = s.mem := rfl
@[simp] theorem State.use_keyed (s : State)  : (s.use).keyed = s.keyed := rfl
@[simp] theorem State.use_net (s : State)  : (s.use).net = s.net := rfl
@[simp] theorem State.use_by_ (s : State)  : (s.use).by_ = s.by_ := rfl
@[simp] theorem State.use_msix (s : State)  : (s.use).msix = s.msix := rfl
@[simp] theorem State.use_aplic (s : State)  : (s.use).aplic = s.aplic := rfl
@[simp] theorem State.use_ext (s : State)  : (s.use).ext = s.ext := rfl
@[simp] theorem State.use_fresh (s : State)  : (s.use).fresh = s.fresh := rfl
@[simp] theorem State.use_drawn (s : State)  : (s.use).drawn = s.drawn := rfl
@[simp] theorem State.use_core_of (s : State)  (i₁ : Nat) : (s.use).core i₁ = s.core i₁ := rfl
@[simp] theorem State.use_vmu_of (s : State)  (i₁ : Nat) : (s.use).vmu i₁ = s.vmu i₁ := rfl
@[simp] theorem State.use_cluster_of (s : State)  (i₁ : Nat) : (s.use).cluster i₁ = s.cluster i₁ := rfl
@[simp] theorem State.use_layer_of (s : State)  (i₁ : Nat) : (s.use).layer i₁ = s.layer i₁ := rfl
@[simp] theorem State.use_tower_of (s : State)  (i₁ : Nat) : (s.use).tower i₁ = s.tower i₁ := rfl
@[simp] theorem State.use_part_of (s : State)  (i₁ : Nat) : (s.use).part i₁ = s.part i₁ := rfl
@[simp] theorem State.use_aux_of (s : State)  (i₁ : Nat) : (s.use).aux i₁ = s.aux i₁ := rfl
@[simp] theorem State.use_life_of (s : State)  (w₁ : Word) : (s.use).life w₁ = s.life w₁ := rfl
@[simp] theorem State.use_thread_of (s : State)  (i₁ j₁ : Nat) : (s.use).thread i₁ j₁ = s.thread i₁ j₁ := rfl
@[simp] theorem State.use_now_of (s : State)   : (s.use).now  = s.now  := rfl
@[simp] theorem State.use_raw_of (s : State)  (a₁ : Nat) : (s.use).raw a₁ = s.raw a₁ := rfl

/-- States with equal fields are equal. -/
theorem State.eq_of {s t : State} (ecur : s.cur = t.cur) (eenv : s.env = t.env) (erotor : s.rotor = t.rotor) (eagenda : s.agenda = t.agenda) (emd : s.md = t.md) (ecores : s.cores = t.cores) (evmus : s.vmus = t.vmus) (eclusters : s.clusters = t.clusters) (elayers : s.layers = t.layers) (etowers : s.towers = t.towers) (eparts : s.parts = t.parts) (eauxs : s.auxs = t.auxs) (elives : s.lives = t.lives) (emem : s.mem = t.mem) (ekeyed : s.keyed = t.keyed) (enet : s.net = t.net) (eby_ : s.by_ = t.by_) (emsix : s.msix = t.msix) (eaplic : s.aplic = t.aplic) (eext : s.ext = t.ext) (efresh : s.fresh = t.fresh) (edrawn : s.drawn = t.drawn) : s = t := by
  cases s; cases t; simp_all

/-! ### What the touched record reads as -/

theorem State.setCore_core_of (s : State) (c : Nat) (k : Core) (i : Nat) :
    (s.setCore c k).core i = if i = c then k else s.core i := Sparse.get_put ..
theorem State.modCore_core_of (s : State) (c : Nat) (f : Core → Core) (i : Nat) :
    (s.modCore c f).core i = if i = c then f (s.core c) else s.core i := Sparse.get_put ..
theorem State.modVmu_vmu_of (s : State) (c : Nat) (f : Vmu → Vmu) (i : Nat) :
    (s.modVmu c f).vmu i = if i = c then f (s.vmu c) else s.vmu i := Sparse.get_put ..
theorem State.modCluster_cluster_of (s : State) (c : Nat) (f : Cluster → Cluster) (i : Nat) :
    (s.modCluster c f).cluster i = if i = c then f (s.cluster c) else s.cluster i := Sparse.get_put ..
theorem State.modLayer_layer_of (s : State) (c : Nat) (f : Layer → Layer) (i : Nat) :
    (s.modLayer c f).layer i = if i = c then f (s.layer c) else s.layer i := Sparse.get_put ..
theorem State.modTower_tower_of (s : State) (c : Nat) (f : Tower → Tower) (i : Nat) :
    (s.modTower c f).tower i = if i = c then f (s.tower c) else s.tower i := Sparse.get_put ..
theorem State.modPart_part_of (s : State) (c : Nat) (f : Part → Part) (i : Nat) :
    (s.modPart c f).part i = if i = c then f (s.part c) else s.part i := Sparse.get_put ..
theorem State.modAux_aux_of (s : State) (c : Nat) (f : PartAux → PartAux) (i : Nat) :
    (s.modAux c f).aux i = if i = c then f (s.aux c) else s.aux i := Sparse.get_put ..
theorem State.modLife_life_of (s : State) (c : Word) (f : Life → Life) (w : Word) :
    (s.modLife c f).life w = if w.toNat = c.toNat then f (s.life c) else s.life w := Sparse.get_put ..
@[simp] theorem State.modCore_core_same (s : State) (c : Nat) (f : Core → Core) : (s.modCore c f).core c = f (s.core c) := by
  simp [State.modCore_core_of]
@[simp] theorem State.modPart_part_same (s : State) (c : Nat) (f : Part → Part) : (s.modPart c f).part c = f (s.part c) := by
  simp [State.modPart_part_of]
@[simp] theorem State.modAux_aux_same (s : State) (c : Nat) (f : PartAux → PartAux) : (s.modAux c f).aux c = f (s.aux c) := by
  simp [State.modAux_aux_of]
@[simp] theorem State.modTower_tower_same (s : State) (c : Nat) (f : Tower → Tower) : (s.modTower c f).tower c = f (s.tower c) := by
  simp [State.modTower_tower_of]
@[simp] theorem State.modLayer_layer_same (s : State) (c : Nat) (f : Layer → Layer) : (s.modLayer c f).layer c = f (s.layer c) := by
  simp [State.modLayer_layer_of]
@[simp] theorem State.modCluster_cluster_same (s : State) (c : Nat) (f : Cluster → Cluster) :
    (s.modCluster c f).cluster c = f (s.cluster c) := by simp [State.modCluster_cluster_of]
@[simp] theorem State.modVmu_vmu_same (s : State) (c : Nat) (f : Vmu → Vmu) : (s.modVmu c f).vmu c = f (s.vmu c) := by
  simp [State.modVmu_vmu_of]
@[simp] theorem State.modLife_life_same (s : State) (c : Word) (f : Life → Life) : (s.modLife c f).life c = f (s.life c) := by
  simp [State.modLife_life_of]

theorem State.setThread_thread_of (s : State) (c k : Nat) (t : Thread) (i j : Nat) :
    (s.setThread c k t).thread i j = if i = c ∧ j = k then some t else s.thread i j := by
  simp only [State.thread, State.setThread, State.modCore_core_of, Core.thread]
  by_cases h : i = c
  · subst h; simp [Sparse.find?_insert]
  · simp [h]

@[simp] theorem State.setThread_thread_same (s : State) (c k : Nat) (t : Thread) : (s.setThread c k t).thread c k = some t := by
  simp [State.setThread_thread_of]

theorem State.dropThread_thread_of (s : State) (c k : Nat) (i j : Nat) :
    (s.dropThread c k).thread i j = if i = c ∧ j = k then none else s.thread i j := by
  simp only [State.thread, State.dropThread, State.modCore_core_of, Core.thread]
  by_cases h : i = c
  · subst h; simp [Sparse.find?_erase]
  · simp [h]

theorem State.modThread_thread_of (s : State) (c k : Nat) (f : Thread → Thread) (i j : Nat) :
    (s.modThread c k f).thread i j = if i = c ∧ j = k then (s.thread c k).map f else s.thread i j := by
  simp only [State.modThread]
  cases h : s.thread c k with
  | none => simp only [Option.map_none]; split <;> simp_all
  | some t => simp only [State.setThread_thread_of, Option.map_some]

@[simp] theorem State.modThread_thread_same (s : State) (c k : Nat) (f : Thread → Thread) :
    (s.modThread c k f).thread c k = (s.thread c k).map f := by simp [State.modThread_thread_of]

@[simp] theorem State.here_thread_same (s : State) (f : Thread → Thread) :
    (s.here f).thread s.cur.core s.cur.slot = (s.thread s.cur.core s.cur.slot).map f := State.modThread_thread_same ..

theorem State.here_thread_of (s : State) (f : Thread → Thread) (i j : Nat) :
    (s.here f).thread i j = if i = s.cur.core ∧ j = s.cur.slot then (s.thread s.cur.core s.cur.slot).map f else s.thread i j :=
  State.modThread_thread_of ..

/-- A change of a thread leaves everything of its core but the slots. -/
theorem State.modThread_core_of (s : State) (c k : Nat) (f : Thread → Thread) (i : Nat) :
    (s.modThread c k f).core i = { s.core i with slots := ((s.modThread c k f).core i).slots } := by
  simp only [State.modThread]
  split
  · simp only [State.setThread, State.modCore_core_of]; split <;> simp_all
  · rfl

/-- A meter counts in its own partition alone (R94-R96). -/
theorem State.charge_part_of (s : State) (p i n q : Nat) :
    (s.charge p i n).part q = { s.part q with meters := ((s.charge p i n).part q).meters } := by
  simp only [State.charge]
  split
  · rfl
  · simp only [State.modPart_part_of]; split <;> simp_all

theorem State.charge_meter_of (s : State) (p i n q j : Nat) :
    Sparse.get 0 ((s.charge p i n).part q).meters j =
      if q = p ∧ j = i ∧ n ≠ 0 ∧ (s.part p).counts = true then
        BitVec.ofNat 64 (Nat.min (2 ^ 64 - 1) ((Sparse.get 0 (s.part p).meters i).toNat + n))
      else Sparse.get 0 (s.part q).meters j := by
  simp only [State.charge]
  split
  · rename_i h; simp only [Bool.or_eq_true, decide_eq_true_eq, Bool.not_eq_true'] at h
    rcases h with h | h <;> simp [h]
  · rename_i h; simp only [Bool.or_eq_true, decide_eq_true_eq, not_or, Bool.not_eq_true', Bool.not_eq_false] at h
    simp only [State.modPart_part_of]
    by_cases hq : q = p
    · subst hq; simp only [↓reduceIte, Sparse.get_put, h, ne_eq, not_false_eq_true, and_self, and_true, true_and]
    · simp [hq]

@[simp] theorem State.use_cur (s : State) : s.use.cur = { s.cur with used := true } := rfl

end Sys2Proof.Machine
end

