-- ==== Sys2Proof/Laws/Attempt.lean ====
section
/-! SUPPORT. What the ends of an attempt do, once for every instruction that uses them. -/

namespace Sys2Proof.Machine

/-! ### Registers of a thread (R180, R181) -/

theorem Thread.setG_gr (t : Thread) (d : Nat) (v : Word) (n : Nat) :
    (t.setG d v).gr n = if n = d ∧ n ≠ 0 then v else t.gr n := by
  by_cases hd : d = 0
  · subst hd; simp only [Thread.setG, ↓reduceIte]; split <;> simp_all
  · simp only [Thread.setG, Thread.gr, hd, ↓reduceIte, Sparse.get_put]
    by_cases hn : n = 0
    · simp [hn]
    · simp [hn]

@[simp] theorem Thread.blocked_of_parked {t : Thread} (h : t.avail = .parked) (u : Names) : t.blocked u = t.lacks u := by simp [Thread.blocked, h]

@[simp] theorem Thread.blocked_of_not_parked {t : Thread} (h : t.avail ≠ .parked) (u : Names) : t.blocked u = t.parks u := by
  simp [Thread.blocked, h]

/-- A thread that has what it waited for does not park again (R179). -/
theorem Thread.parks_of_lacks {t : Thread} {u : Names} (h : t.lacks u = false) : t.parks u = false := by
  simp only [Thread.lacks, Thread.parks, Bool.or_eq_false_iff, List.any_eq_false, List.mem_append, BitVec.getLsbD_or, Bool.and_eq_true,
    Bool.or_eq_true, not_and, not_or, Bool.not_eq_true, bne_iff_ne] at h ⊢
  obtain ⟨⟨hg, hv⟩, hm⟩ := h
  exact ⟨⟨⟨⟨⟨fun n hn h0 => (hg n (Or.inl hn) h0).1, fun n hn h0 => (hg n (Or.inr hn) h0).2⟩, fun n hn => (hv n (Or.inl hn)).1⟩,
    fun n hn => (hv n (Or.inr hn)).2⟩, fun n hn => (hm n (Or.inl hn)).1⟩, fun n hn => (hm n (Or.inr hn)).2⟩

/-- What hardware reads or writes for itself resolves in space 0x0 alone. -/
@[simp] theorem State.resolvePaged_in (s : State) (c p : Nat) (need : Need) (op : MemOp) {da : Nat} (h : da < 2 ^ 48) :
    s.resolvePaged c p need op da = s.resolve c p need op da := if_pos h

@[simp] theorem State.resolvePaged_out (s : State) (c p : Nat) (need : Need) (op : MemOp) {da : Nat} (h : 2 ^ 48 ≤ da) :
    s.resolvePaged c p need op da = (.fail .noTarget, s) := if_neg (Nat.not_lt.mpr h)

theorem Thread.setG_like (t : Thread) (d : Nat) (v : Word) :
    t.setG d v = { t with g := (t.setG d v).g, gEmpty := (t.setG d v).gEmpty } := by
  unfold Thread.setG; split <;> rfl

/-! ### Issue and retirement -/

theorem Thread.count_cnt (t : Thread) (n k i : Nat) :
    Sparse.get 0 (t.count n k).cnt i = Sparse.get 0 t.cnt i + if i = n then BitVec.ofNat 64 k else 0 := by
  simp only [Thread.count, Sparse.get_put]; split <;> simp_all

theorem Thread.issued_cnt (t : Thread) (slot now i : Nat) :
    Sparse.get 0 (t.issued slot now).cnt i = Sparse.get 0 t.cnt i + if i = 0 ∨ (i = 1 ∧ now % 16 ≠ slot) then 1 else 0 := by
  unfold Thread.issued
  by_cases h : now % 16 = slot
  · simp only [h, ↓reduceIte, Thread.count_cnt, ne_eq, not_true_eq_false, and_false, or_false]; rfl
  · simp only [h, ↓reduceIte, Thread.count_cnt, ne_eq, not_false_eq_true, and_true]
    by_cases h0 : i = 0 <;> by_cases h1 : i = 1 <;> simp_all

theorem Thread.issued_like (t : Thread) (slot now : Nat) :
    t.issued slot now = { t with last := now + 1, cnt := (t.issued slot now).cnt } := by
  unfold Thread.issued Thread.count; split <;> rfl

/-- Retirement goes on at the next word. -/
theorem Thread.advance_onward (s : State) (t u : Thread) (hp : u.pc = t.pc) (hg : u.gcnt = t.gcnt) (hc : u.cnt = t.cnt) :
    Onward s t ((u.issued s.cur.slot s.now).advance) (t.pc + 4) := by
  constructor
  · rw [Thread.issued_like]; simp [Thread.advance, hp]
  · rw [Thread.issued_like]; simp [Thread.advance, hg]
  · rfl
  · rw [Thread.issued_like]; rfl
  · intro n; rw [← hc]; exact Thread.issued_cnt ..

/-- Retirement of a taken jump. -/
theorem Thread.jumpTo_onward (s : State) (t u : Thread) (pc : Word) (hg : u.gcnt = t.gcnt) (hc : u.cnt = t.cnt) :
    Onward s t ((u.issued s.cur.slot s.now).jumpTo pc) pc := by
  constructor
  · rfl
  · rw [Thread.issued_like]; simp [Thread.jumpTo, hg]
  · rfl
  · rw [Thread.issued_like]; rfl
  · intro n; rw [← hc]; exact Thread.issued_cnt ..

/-- What retirement writes is all that it writes. -/
theorem Thread.advance_like (t : Thread) (slot now : Nat) : (t.issued slot now).advance = t.like (t.issued slot now).advance := by
  rw [Thread.issued_like]; rfl

theorem Thread.jumpTo_like (t : Thread) (slot now : Nat) (pc : Word) :
    (t.issued slot now).jumpTo pc = t.like ((t.issued slot now).jumpTo pc) := by
  rw [Thread.issued_like]; rfl

theorem readByte_congr {s s' : State} (hm : s'.mem = s.mem) (hk : s'.keyed = s.keyed) (k a : Nat) : s'.readByte k a = s.readByte k a := by
  unfold State.readByte State.raw State.rawLine State.raw; rw [hm, hk]

/-- Reading a thread's slot after a meter or the cycle's note. -/
@[simp] theorem State.use_thread (s : State) (i j : Nat) : s.use.thread i j = s.thread i j := rfl

/-- What changes of the current slot, a meter and the cycle's note leave alone. -/
theorem alone_of_slot {s s1 : State} (p : Nat) (hr : s1 = { s with cores := s1.cores })
    (hc : ∀ c, s1.core c = { s.core c with slots := (s1.core c).slots })
    (hs : ∀ c k, ¬(c = s.cur.core ∧ k = s.cur.slot) → s1.thread c k = s.thread c k) : Alone s ((s1.charge p 5 1).use) p where
  rest := by rw [hr]; apply State.eq_of <;> first | rfl | simp
  cur := by rw [hr]; simp
  core c := by simpa using hc c
  slots c k h := by simpa using hs c k h
  part q := by
    have hp : s1.part q = s.part q := by rw [hr]; rfl
    have := State.charge_part_of s1 p 5 1 q
    rw [hp] at this; simpa using this
  meter q i := by
    have hp : ∀ q, s1.part q = s.part q := fun q => by rw [hr]; rfl
    have := State.charge_meter_of s1 p 5 1 q i
    simp only [hp] at this
    rw [State.use_part_of, this]
    by_cases h : q = p ∧ i = 5 ∧ (s.part p).counts = true
    · rw [if_pos h, if_pos ⟨h.1, h.2.1, Nat.one_ne_zero, h.2.2⟩]
    · rw [if_neg h, if_neg fun h' => h ⟨h'.1, h'.2.1, h'.2.2.2⟩]
  bytes k a := readByte_congr (by rw [hr]; simp) (by rw [hr]; simp) k a

theorem State.modThread_rest (s : State) (c k : Nat) (f : Thread → Thread) :
    s.modThread c k f = { s with cores := (s.modThread c k f).cores } := by
  unfold State.modThread; split <;> rfl

/-- A retirement after changes of the current thread alone. -/
theorem alone_retire (s : State) (p : Nat) (f g : Thread → Thread) :
    Alone s ((((s.here f).modThread s.cur.core s.cur.slot g).charge p 5 1).use) p := by
  refine alone_of_slot p ?_ (fun c => ?_) (fun c k h => ?_)
  · rw [State.modThread_rest, State.here, State.modThread_rest s]
  · rw [State.modThread_core_of, State.here, State.modThread_core_of s]
  · simp [State.modThread_thread_of, State.here, h]

theorem alone_modThread (s : State) (p : Nat) (g : Thread → Thread) :
    Alone s (((s.modThread s.cur.core s.cur.slot g).charge p 5 1).use) p := by
  refine alone_of_slot p (State.modThread_rest ..) (fun c => State.modThread_core_of ..) (fun c k h => ?_)
  simp [State.modThread_thread_of, h]

/-! ### The shared forms -/

/-- An attempt whose registers pass their checks is the instruction's own. -/
theorem issue_ready {s : State} {t : Thread} {u : Names} (h : Ready s t u) (f : Thread → Out) : issue s u f = .next (finish s t (f t)) := by
  have hm : s.thread s.cur.core s.cur.slot = some t := h.mine
  simp [issue, hm, h.holds, h.full]

/-- An instruction that changes its own thread alone, and retires. -/
theorem retire_here {s : State} {t : Thread} (h : s.mine = some t) (f : Thread → Thread) :
    (finish s t (.retire (s.here f))).mine = some ((f t).issued s.cur.slot s.now).advance ∧
      Alone s (finish s t (.retire (s.here f))) t.part := by
  have hm : s.thread s.cur.core s.cur.slot = some t := h
  refine ⟨?_, alone_retire ..⟩
  simp [finish, State.mine, State.here, hm]

/-! ### Traps -/

/-- Giving up a request for leave touches the governors alone. -/
theorem State.stopAsking_like (s : State) (t : Thread) : s.stopAsking t = { s with layers := (s.stopAsking t).layers } := by
  unfold State.stopAsking State.endLeave; repeat' (first | rfl | split)

@[simp] theorem State.stopAsking_core_of (s : State) (t : Thread) (c : Nat) : (s.stopAsking t).core c = s.core c := by
  rw [State.stopAsking_like]; rfl
@[simp] theorem State.stopAsking_thread_of (s : State) (t : Thread) (c k : Nat) : (s.stopAsking t).thread c k = s.thread c k := by
  rw [State.stopAsking_like]; rfl

/-- What it does to them depends on them alone. -/
theorem State.stopAsking_layers {s s' : State} {t u : Thread} (h : s.layers = s'.layers) (ha : t.asking = u.asking) (hi : t.tid = u.tid) :
    (s.stopAsking t).layers = (s'.stopAsking u).layers := by
  unfold State.stopAsking State.endLeave State.modLayer State.layer
  rw [h, ha, hi]
  cases u.asking <;> simp only [] <;> first | exact h | (split <;> first | rfl | exact h)

/-- Giving up a Col write that waits touches the towers alone. -/
theorem State.dropColWait_like (s : State) (c : Nat) (tid : Word) : s.dropColWait c tid = { s with towers := (s.dropColWait c tid).towers } := by
  unfold State.dropColWait; split <;> rfl

/-- What it does to them depends on them alone. -/
theorem State.dropColWait_towers {s s' : State} (h : s.towers = s'.towers) (c : Nat) (tid : Word) :
    (s.dropColWait c tid).towers = (s'.dropColWait c tid).towers := by
  unfold State.dropColWait State.modTower State.tower
  rw [h]; split
  · rfl
  · exact h

/-- Giving up a wait in STABW touches the threads' lives alone. -/
theorem State.dropStab_like (s : State) (tid : Word) : s.dropStab tid = { s with lives := (s.dropStab tid).lives } := by
  unfold State.dropStab; split <;> rfl

/-- What it does to them depends on them alone. -/
theorem State.dropStab_lives {s s' : State} (h : s.lives = s'.lives) (tid : Word) : (s.dropStab tid).lives = (s'.dropStab tid).lives := by
  unfold State.dropStab State.modLife State.life
  rw [h]; split
  · rfl
  · exact h

/-- Giving up an instruction touches governors, towers and lives alone. -/
theorem State.giveUp_like (s : State) (c : Nat) (t : Thread) : s.giveUp c t =
    { s with layers := (s.stopAsking t).layers, towers := (s.dropColWait c t.tid).towers, lives := (s.dropStab t.tid).lives } := by
  unfold State.giveUp
  have h1 := State.stopAsking_like s t
  have h2 : ((s.stopAsking t).dropColWait c t.tid).towers = (s.dropColWait c t.tid).towers := State.dropColWait_towers (by rw [h1]) c t.tid
  have h3 : (((s.stopAsking t).dropColWait c t.tid).dropStab t.tid).lives = (s.dropStab t.tid).lives :=
    State.dropStab_lives (by rw [State.dropColWait_like, h1]) t.tid
  rw [State.dropStab_like, h3, State.dropColWait_like, h2, h1]

@[simp] theorem State.giveUp_core_of (s : State) (c : Nat) (t : Thread) (d : Nat) : (s.giveUp c t).core d = s.core d := by
  rw [State.giveUp_like]; rfl
@[simp] theorem State.giveUp_thread_of (s : State) (c : Nat) (t : Thread) (d k : Nat) : (s.giveUp c t).thread d k = s.thread d k := by
  rw [State.giveUp_like]; rfl

/-- Giving up a thread's own reads touches what has been asked for alone. -/
theorem State.dropErrands_like (s : State) (c k : Nat) :
    s.dropErrands c k = { s with net := { s.net with tickets := (s.dropErrands c k).net.tickets, accs := (s.dropErrands c k).net.accs } } := rfl

@[simp] theorem State.dropErrands_core_of (s : State) (c k d : Nat) : (s.dropErrands c k).core d = s.core d := rfl
@[simp] theorem State.dropErrands_thread_of (s : State) (c k d j : Nat) : (s.dropErrands c k).thread d j = s.thread d j := rfl

/-- What it does to them depends on them alone. -/
theorem State.dropErrands_net {s s' : State} (h : s.net = s'.net) (c k : Nat) : (s.dropErrands c k).net = (s'.dropErrands c k).net := by
  unfold State.dropErrands State.dropFar State.dropTicket State.modNet
  rw [h]

theorem State.dropErrands_setThread (s : State) (c k : Nat) (t : Thread) :
    (s.dropErrands c k).setThread c k t =
      { s with cores := ((s.dropErrands c k).setThread c k t).cores, net := ((s.dropErrands c k).setThread c k t).net } := by
  have h : ∀ (d : State) (n : Net), d = { s with net := n } → d.setThread c k t =
      { s with cores := (d.setThread c k t).cores, net := (d.setThread c k t).net } := fun d n hd => by rw [hd]; rfl
  exact h _ _ (State.dropErrands_like s c k)

/-- The end of an attempt in a precise trap. -/
theorem trap_trapped {s : State} {t : Thread} (h : s.mine = some t) (cause : Nat) (g1 g2 : Word)
    (hc : (1 ≤ cause ∧ cause ≤ 9) ∨ cause = 12) : Trapped s (finish s t (.trap cause g1 g2)) t cause g1 g2 := by
  have hm : s.thread s.cur.core s.cur.slot = some t := h
  have hp : ((decide (1 ≤ cause) && decide (cause ≤ 9)) || cause == 0xC) = true := by
    rcases hc with ⟨h1, h2⟩ | h1 <;> simp [*]
  let t1 : Thread := { t with last := s.now + 1 }
  let t2 : Thread := { t1 with avail := .trapped t.pc (cause == 9), resv := none, asking := .no, fence := none }
  obtain ⟨v, hv⟩ : ∃ v, v = (s.setThread s.cur.core s.cur.slot t1).giveUp s.cur.core t1 := ⟨_, rfl⟩
  obtain ⟨u, hu⟩ : ∃ u, u = (v.dropErrands s.cur.core s.cur.slot).setThread s.cur.core s.cur.slot t2 := ⟨_, rfl⟩
  have hv1 : v = { s with cores := v.cores, layers := v.layers, towers := v.towers, lives := v.lives } := by rw [hv, State.giveUp_like]; rfl
  have hu1 : u = { v with cores := u.cores, net := u.net } := by subst hu; exact State.dropErrands_setThread v _ _ t2
  have el : u.layers = v.layers := by rw [hu1]
  have et : u.towers = v.towers := by rw [hu1]
  have ei : u.lives = v.lives := by rw [hu1]
  have hlay : u.layers = (s.stopAsking t).layers := by rw [el, hv, State.giveUp_like]; exact State.stopAsking_layers rfl rfl rfl
  have htow : u.towers = (s.dropColWait s.cur.core t.tid).towers := by
    rw [et, hv, State.giveUp_like]; exact State.dropColWait_towers (s := s.setThread s.cur.core s.cur.slot t1) (s' := s) rfl _ _
  have hliv : u.lives = (s.dropStab t.tid).lives := by
    rw [ei, hv, State.giveUp_like]; exact State.dropStab_lives (s := s.setThread s.cur.core s.cur.slot t1) (s' := s) rfl _
  have hrest : u = { s with cores := u.cores, layers := u.layers, towers := u.towers, lives := u.lives, net := u.net } := by
    rw [el, et, ei]; exact hu1.trans (congrArg (fun w : State => { w with cores := u.cores, net := u.net }) hv1)
  have hmine : u.thread s.cur.core s.cur.slot = some t2 := by rw [hu]; simp
  have hslots : ∀ c k, ¬(c = s.cur.core ∧ k = s.cur.slot) → u.thread c k = s.thread c k := fun c k hck => by
    rw [hu, State.setThread_thread_of, if_neg hck, State.dropErrands_thread_of, hv, State.giveUp_thread_of, State.setThread_thread_of, if_neg hck]
  have hcore : ∀ c, u.core c = { s.core c with slots := (u.core c).slots } := fun c => by
    rw [hu, hv]; simp only [State.setThread, State.modCore_core_of, State.dropErrands_core_of, State.giveUp_core_of]; by_cases hcc : c = s.cur.core <;> simp [hcc]
  have e : finish s t (.trap cause g1 g2) =
      (u.report t.part s.cur.core (reportWords u cause g1 g2 t.pc s.cur.word (threadWord s.cur.slot t.tid) s.cur.core)).use := by
    rw [hu, hv]; simp [finish, State.trapThread, t1, t2]
  have hnet : u.net = (s.dropErrands s.cur.core s.cur.slot).net := by
    rw [hu, State.setThread_net]
    exact State.dropErrands_net (by rw [hv1]) _ _
  rw [e]
  clear e hu hu1 hv hv1
  have hcur : u.cur = s.cur := by rw [hrest]
  have hpart : u.part t.part = s.part t.part := by rw [hrest]; rfl
  have hby : u.by_ = s.by_ := by rw [hrest]
  constructor
  · show (u.thread u.cur.core u.cur.slot) = _; rw [hcur, hmine]
  · suffices h : ∃ m : Msg, (u.report t.part s.cur.core (reportWords u cause g1 g2 t.pc s.cur.word (threadWord s.cur.slot t.tid)
        s.cur.core)).use.net = { u.net with msgs := u.net.msgs ++ [m] } ∧ m.part = t.part ∧
          m.target = (if isChan s.cur.core then (s.part t.part).base else s.cur.core) ∧
          m.body = .table 6 [g1, g2, BitVec.ofNat 64 (cause + 256), t.pc, s.cur.word.setWidth 64, threadWord s.cur.slot t.tid,
            s.coreAddr s.cur.core] [] by
      obtain ⟨m, hm, hr⟩ := h
      exact ⟨m, by rw [hm, hnet]; rfl, hr⟩
    refine ⟨_, rfl, rfl, by rw [← hpart], ?_⟩
    simp [reportWords, State.coreAddr, hp, hby]
  · rw [hrest]; rfl
  · exact hlay
  · exact htow
  · exact hliv
  · show { u.cur with used := true } = _; rw [hcur]
  · exact hcore
  · exact hslots
  · intro k a; exact readByte_congr (by rw [hrest]; rfl) (by rw [hrest]; rfl) k a

end Sys2Proof.Machine
end

