-- ==== Sys2Proof/Laws/Exec.lean ====
section
/-! SUPPORT. The meaning that `exec` calls for each instruction. -/

namespace Sys2Proof.Machine

theorem exec_nop (s : State) : exec .nop s = execNop s := rfl
theorem exec_trap (q : BitVec 4) (s : State) : exec (.trap q) s = execTrap q s := rfl
theorem exec_eretRetry (d a : BitVec 5) (s : State) : exec (.eretRetry d a) s = execEretRetry d a s := rfl
theorem exec_eretSkip (d a : BitVec 5) (s : State) : exec (.eretSkip d a) s = execEretSkip d a s := rfl
theorem exec_eretEnd (d a : BitVec 5) (s : State) : exec (.eretEnd d a) s = execEretEnd d a s := rfl
theorem exec_ifence (s : State) : exec .ifence s = execIfence s := rfl
theorem exec_idem (a : BitVec 5) (s : State) : exec (.idem a) s = execIdem a s := rfl
theorem exec_idend (s : State) : exec .idend s = execIdend s := rfl
theorem exec_yield (s : State) : exec .yield s = execYield s := rfl
theorem exec_halt (s : State) : exec .halt s = execHalt s := rfl
theorem exec_rdctl (d : BitVec 5) (x : BitVec 4) (s : State) : exec (.rdctl d x) s = execRdctl d x s := rfl
theorem exec_wrctl (x : BitVec 4) (b : BitVec 5) (s : State) : exec (.wrctl x b) s = execWrctl x b s := rfl
theorem exec_rdlt (d : BitVec 5) (s : State) : exec (.rdlt d) s = execRdlt d s := rfl
theorem exec_rdcnt (d : BitVec 5) (q : BitVec 3) (s : State) : exec (.rdcnt d q) s = execRdcnt d q s := rfl
theorem exec_rdseg (d : BitVec 5) (g : BitVec 3) (s : State) : exec (.rdseg d g) s = execRdseg d g s := rfl
theorem exec_wrseg (a : BitVec 5) (g : BitVec 3) (s : State) : exec (.wrseg a g) s = execWrseg a g s := rfl
theorem exec_send (d a b : BitVec 5) (s : State) : exec (.send d a b) s = execSend d a b s := rfl
theorem exec_fill (d a b : BitVec 5) (q : BitVec 4) (s : State) : exec (.fill d a b q) s = execFill d a b q s := rfl
theorem exec_go (a : BitVec 5) (s : State) : exec (.go a) s = execGo a s := rfl
theorem exec_spawn (d a b : BitVec 5) (s : State) : exec (.spawn d a b) s = execSpawn d a b s := rfl
theorem exec_spawnd (d a b : BitVec 5) (s : State) : exec (.spawnd d a b) s = execSpawnd d a b s := rfl
theorem exec_join (s : State) : exec .join s = execJoin s := rfl
theorem exec_exit (s : State) : exec .exit s = execExit s := rfl
theorem exec_setvec (a b : BitVec 5) (s : State) : exec (.setvec a b) s = execSetvec a b s := rfl
theorem exec_getvec (d a : BitVec 5) (s : State) : exec (.getvec d a) s = execGetvec d a s := rfl
theorem exec_loadq (d : BitVec 5) (s : State) : exec (.loadq d) s = execLoadq d s := rfl
theorem exec_epushCopy (a : BitVec 4) (s : State) : exec (.epushCopy a) s = execEpushCopy a s := rfl
theorem exec_epushLaunch (a : BitVec 4) (s : State) : exec (.epushLaunch a) s = execEpushLaunch a s := rfl
theorem exec_epushGov (a : BitVec 4) (s : State) : exec (.epushGov a) s = execEpushGov a s := rfl
theorem exec_epop (d : BitVec 5) (q : BitVec 4) (s : State) : exec (.epop d q) s = execEpop d q s := rfl
theorem exec_epeek (d : BitVec 5) (q : BitVec 4) (s : State) : exec (.epeek d q) s = execEpeek d q s := rfl
theorem exec_tagwany (d a : BitVec 5) (s : State) : exec (.tagwany d a) s = execTagwany d a s := rfl
theorem exec_tagwall (d a : BitVec 5) (s : State) : exec (.tagwall d a) s = execTagwall d a s := rfl
theorem exec_tagff (d a : BitVec 5) (s : State) : exec (.tagff d a) s = execTagff d a s := rfl
theorem exec_tagclr (a : BitVec 5) (s : State) : exec (.tagclr a) s = execTagclr a s := rfl
theorem exec_lease (a : BitVec 5) (g : BitVec 3) (s : State) : exec (.lease a g) s = execLease a g s := rfl
theorem exec_leave (d a : BitVec 5) (s : State) : exec (.leave d a) s = execLeave d a s := rfl
theorem exec_temit (a : BitVec 4) (s : State) : exec (.temit a) s = execTemit a s := rfl
theorem exec_temiti (a : BitVec 4) (b : BitVec 5) (s : State) : exec (.temiti a b) s = execTemiti a b s := rfl
theorem exec_tgrab (d : BitVec 4) (a b : BitVec 5) (s : State) : exec (.tgrab d a b) s = execTgrab d a b s := rfl
theorem exec_tpeek (d : BitVec 4) (a b : BitVec 5) (s : State) : exec (.tpeek d a b) s = execTpeek d a b s := rfl
theorem exec_rulew (a : BitVec 5) (b : BitVec 4) (s : State) : exec (.rulew a b) s = execRulew a b s := rfl
theorem exec_rrun (d a : BitVec 5) (s : State) : exec (.rrun d a) s = execRrun d a s := rfl
theorem exec_rhalt (s : State) : exec .rhalt s = execRhalt s := rfl
theorem exec_rstat (d a : BitVec 5) (s : State) : exec (.rstat d a) s = execRstat d a s := rfl
theorem exec_rbudg (a : BitVec 5) (s : State) : exec (.rbudg a) s = execRbudg a s := rfl
theorem exec_rlogm (a b : BitVec 5) (s : State) : exec (.rlogm a b) s = execRlogm a b s := rfl
theorem exec_stabw (d : BitVec 5) (s : State) : exec (.stabw d) s = execStabw d s := rfl
theorem exec_stabq (d : BitVec 5) (s : State) : exec (.stabq d) s = execStabq d s := rfl
theorem exec_bara (a : BitVec 5) (s : State) : exec (.bara a) s = execBara a s := rfl
theorem exec_barw (a : BitVec 5) (s : State) : exec (.barw a) s = execBarw a s := rfl
theorem exec_bar (a : BitVec 5) (s : State) : exec (.bar a) s = execBar a s := rfl
theorem exec_fza (a : BitVec 5) (s : State) : exec (.fza a) s = execFza a s := rfl
theorem exec_fzw (a : BitVec 5) (s : State) : exec (.fzw a) s = execFzw a s := rfl
theorem exec_fenceRx (s : State) : exec .fenceRx s = execFenceRx s := rfl
theorem exec_fenceLb (s : State) : exec .fenceLb s = execFenceLb s := rfl
theorem exec_fenceSys (s : State) : exec .fenceSys s = execFenceSys s := rfl
theorem exec_cfence (s : State) : exec .cfence s = execCfence s := rfl
theorem exec_wres (d : BitVec 5) (q : BitVec 4) (s : State) : exec (.wres d q) s = execWres d q s := rfl
theorem exec_add (d a b : BitVec 5) (s : State) : exec (.add d a b) s = execAdd d a b s := rfl
theorem exec_sub (d a b : BitVec 5) (s : State) : exec (.sub d a b) s = execSub d a b s := rfl
theorem exec_and (d a b : BitVec 5) (s : State) : exec (.and d a b) s = execAnd d a b s := rfl
theorem exec_or (d a b : BitVec 5) (s : State) : exec (.or d a b) s = execOr d a b s := rfl
theorem exec_xor (d a b : BitVec 5) (s : State) : exec (.xor d a b) s = execXor d a b s := rfl
theorem exec_andn (d a b : BitVec 5) (s : State) : exec (.andn d a b) s = execAndn d a b s := rfl
theorem exec_orn (d a b : BitVec 5) (s : State) : exec (.orn d a b) s = execOrn d a b s := rfl
theorem exec_xnor (d a b : BitVec 5) (s : State) : exec (.xnor d a b) s = execXnor d a b s := rfl
theorem exec_sll (d a b : BitVec 5) (s : State) : exec (.sll d a b) s = execSll d a b s := rfl
theorem exec_srl (d a b : BitVec 5) (s : State) : exec (.srl d a b) s = execSrl d a b s := rfl
theorem exec_sra (d a b : BitVec 5) (s : State) : exec (.sra d a b) s = execSra d a b s := rfl
theorem exec_rol (d a b : BitVec 5) (s : State) : exec (.rol d a b) s = execRol d a b s := rfl
theorem exec_ror (d a b : BitVec 5) (s : State) : exec (.ror d a b) s = execRor d a b s := rfl
theorem exec_min (d a b : BitVec 5) (s : State) : exec (.min d a b) s = execMin d a b s := rfl
theorem exec_max (d a b : BitVec 5) (s : State) : exec (.max d a b) s = execMax d a b s := rfl
theorem exec_minu (d a b : BitVec 5) (s : State) : exec (.minu d a b) s = execMinu d a b s := rfl
theorem exec_maxu (d a b : BitVec 5) (s : State) : exec (.maxu d a b) s = execMaxu d a b s := rfl
theorem exec_addw (d a b : BitVec 5) (s : State) : exec (.addw d a b) s = execAddw d a b s := rfl
theorem exec_subw (d a b : BitVec 5) (s : State) : exec (.subw d a b) s = execSubw d a b s := rfl
theorem exec_slt (d a b : BitVec 5) (s : State) : exec (.slt d a b) s = execSlt d a b s := rfl
theorem exec_sltu (d a b : BitVec 5) (s : State) : exec (.sltu d a b) s = execSltu d a b s := rfl
theorem exec_mul (d a b : BitVec 5) (s : State) : exec (.mul d a b) s = execMul d a b s := rfl
theorem exec_mulh (d a b : BitVec 5) (s : State) : exec (.mulh d a b) s = execMulh d a b s := rfl
theorem exec_mulhu (d a b : BitVec 5) (s : State) : exec (.mulhu d a b) s = execMulhu d a b s := rfl
theorem exec_mulw (d a b : BitVec 5) (s : State) : exec (.mulw d a b) s = execMulw d a b s := rfl
theorem exec_mad (d a b : BitVec 5) (s : State) : exec (.mad d a b) s = execMad d a b s := rfl
theorem exec_div (d a b : BitVec 5) (s : State) : exec (.div d a b) s = execDiv d a b s := rfl
theorem exec_divu (d a b : BitVec 5) (s : State) : exec (.divu d a b) s = execDivu d a b s := rfl
theorem exec_rem (d a b : BitVec 5) (s : State) : exec (.rem d a b) s = execRem d a b s := rfl
theorem exec_remu (d a b : BitVec 5) (s : State) : exec (.remu d a b) s = execRemu d a b s := rfl
theorem exec_popc (d a : BitVec 5) (s : State) : exec (.popc d a) s = execPopc d a s := rfl
theorem exec_clz (d a : BitVec 5) (s : State) : exec (.clz d a) s = execClz d a s := rfl
theorem exec_ctz (d a : BitVec 5) (s : State) : exec (.ctz d a) s = execCtz d a s := rfl
theorem exec_brev (d a : BitVec 5) (s : State) : exec (.brev d a) s = execBrev d a s := rfl
theorem exec_bswap (d a : BitVec 5) (s : State) : exec (.bswap d a) s = execBswap d a s := rfl
theorem exec_bext (d a b : BitVec 5) (s : State) : exec (.bext d a b) s = execBext d a b s := rfl
theorem exec_bins (d a b : BitVec 5) (s : State) : exec (.bins d a b) s = execBins d a b s := rfl
theorem exec_sext (d a : BitVec 5) (q : BitVec 2) (s : State) : exec (.sext d a q) s = execSext d a q s := rfl
theorem exec_zext (d a : BitVec 5) (q : BitVec 2) (s : State) : exec (.zext d a q) s = execZext d a q s := rfl
theorem exec_phash (d a : BitVec 5) (s : State) : exec (.phash d a) s = execPhash d a s := rfl
theorem exec_rndk (d a b : BitVec 5) (s : State) : exec (.rndk d a b) s = execRndk d a b s := rfl
theorem exec_addi (d a : BitVec 5) (imm : BitVec 16) (s : State) : exec (.addi d a imm) s = execAddi d a imm s := rfl
theorem exec_andi (d a : BitVec 5) (imm : BitVec 16) (s : State) : exec (.andi d a imm) s = execAndi d a imm s := rfl
theorem exec_ori (d a : BitVec 5) (imm : BitVec 16) (s : State) : exec (.ori d a imm) s = execOri d a imm s := rfl
theorem exec_xori (d a : BitVec 5) (imm : BitVec 16) (s : State) : exec (.xori d a imm) s = execXori d a imm s := rfl
theorem exec_lih (d : BitVec 5) (k : BitVec 2) (imm : BitVec 16) (s : State) : exec (.lih d k imm) s = execLih d k imm s := rfl
theorem exec_slli (d a : BitVec 5) (n : BitVec 6) (s : State) : exec (.slli d a n) s = execSlli d a n s := rfl
theorem exec_srli (d a : BitVec 5) (n : BitVec 6) (s : State) : exec (.srli d a n) s = execSrli d a n s := rfl
theorem exec_srai (d a : BitVec 5) (n : BitVec 6) (s : State) : exec (.srai d a n) s = execSrai d a n s := rfl
theorem exec_slti (d a : BitVec 5) (imm : BitVec 16) (s : State) : exec (.slti d a imm) s = execSlti d a imm s := rfl
theorem exec_sltiu (d a : BitVec 5) (imm : BitVec 16) (s : State) : exec (.sltiu d a imm) s = execSltiu d a imm s := rfl
theorem exec_cmp (x : BitVec 2) (c : BitVec 3) (a b : BitVec 5) (s : State) : exec (.cmp x c a b) s = execCmp x c a b s := rfl
theorem exec_cmpw (x : BitVec 2) (c : BitVec 3) (a b : BitVec 5) (s : State) : exec (.cmpw x c a b) s = execCmpw x c a b s := rfl
theorem exec_cmpf (x c : BitVec 2) (a b : BitVec 5) (q : BitVec 1) (s : State) : exec (.cmpf x c a b q) s = execCmpf x c a b q s := rfl
theorem exec_cmpi (x : BitVec 2) (c : BitVec 3) (a : BitVec 5) (imm : BitVec 16) (s : State) : exec (.cmpi x c a imm) s = execCmpi x c a imm s := rfl
theorem exec_cmpiw (x : BitVec 2) (c : BitVec 3) (a : BitVec 5) (imm : BitVec 16) (s : State) : exec (.cmpiw x c a imm) s = execCmpiw x c a imm s := rfl
theorem exec_j (o : BitVec 21) (s : State) : exec (.j o) s = execJ o s := rfl
theorem exec_jl (d : BitVec 5) (o : BitVec 21) (s : State) : exec (.jl d o) s = execJl d o s := rfl
theorem exec_jr (a : BitVec 5) (imm : BitVec 16) (s : State) : exec (.jr a imm) s = execJr a imm s := rfl
theorem exec_jlr (d a : BitVec 5) (imm : BitVec 16) (s : State) : exec (.jlr d a imm) s = execJlr d a imm s := rfl
theorem exec_ldb (d a : BitVec 5) (g : BitVec 3) (x : BitVec 1) (o : BitVec 10) (s : State) : exec (.ldb d a g x o) s = execLdb d a g x o s := rfl
theorem exec_ldh (d a : BitVec 5) (g : BitVec 3) (x : BitVec 1) (o : BitVec 10) (s : State) : exec (.ldh d a g x o) s = execLdh d a g x o s := rfl
theorem exec_ldw (d a : BitVec 5) (g : BitVec 3) (x : BitVec 1) (o : BitVec 10) (s : State) : exec (.ldw d a g x o) s = execLdw d a g x o s := rfl
theorem exec_ldd (d a : BitVec 5) (g : BitVec 3) (x : BitVec 1) (o : BitVec 10) (s : State) : exec (.ldd d a g x o) s = execLdd d a g x o s := rfl
theorem exec_ldbz (d a : BitVec 5) (g : BitVec 3) (x : BitVec 1) (o : BitVec 10) (s : State) : exec (.ldbz d a g x o) s = execLdbz d a g x o s := rfl
theorem exec_ldhz (d a : BitVec 5) (g : BitVec 3) (x : BitVec 1) (o : BitVec 10) (s : State) : exec (.ldhz d a g x o) s = execLdhz d a g x o s := rfl
theorem exec_ldwz (d a : BitVec 5) (g : BitVec 3) (x : BitVec 1) (o : BitVec 10) (s : State) : exec (.ldwz d a g x o) s = execLdwz d a g x o s := rfl
theorem exec_stb (d a : BitVec 5) (g : BitVec 3) (x : BitVec 1) (o : BitVec 10) (s : State) : exec (.stb d a g x o) s = execStb d a g x o s := rfl
theorem exec_sth (d a : BitVec 5) (g : BitVec 3) (x : BitVec 1) (o : BitVec 10) (s : State) : exec (.sth d a g x o) s = execSth d a g x o s := rfl
theorem exec_stw (d a : BitVec 5) (g : BitVec 3) (x : BitVec 1) (o : BitVec 10) (s : State) : exec (.stw d a g x o) s = execStw d a g x o s := rfl
theorem exec_std (d a : BitVec 5) (g : BitVec 3) (x : BitVec 1) (o : BitVec 10) (s : State) : exec (.std d a g x o) s = execStd d a g x o s := rfl
theorem exec_vld (d : BitVec 4) (a : BitVec 5) (g : BitVec 3) (x : BitVec 1) (o : BitVec 10) (s : State) : exec (.vld d a g x o) s = execVld d a g x o s := rfl
theorem exec_vst (d : BitVec 4) (a : BitVec 5) (g : BitVec 3) (x : BitVec 1) (o : BitVec 10) (s : State) : exec (.vst d a g x o) s = execVst d a g x o s := rfl
theorem exec_ldn (d : BitVec 4) (a : BitVec 5) (g : BitVec 3) (x : BitVec 1) (p : BitVec 2) (o : BitVec 10) (s : State) : exec (.ldn d a g x p o) s = execLdn d a g x p o s := rfl
theorem exec_stn (d : BitVec 4) (a : BitVec 5) (g : BitVec 3) (x : BitVec 1) (p : BitVec 2) (o : BitVec 10) (s : State) : exec (.stn d a g x p o) s = execStn d a g x p o s := rfl
theorem exec_aadd (d a b : BitVec 5) (w : BitVec 1) (g : BitVec 3) (s : State) : exec (.aadd d a b w g) s = execAadd d a b w g s := rfl
theorem exec_aand (d a b : BitVec 5) (w : BitVec 1) (g : BitVec 3) (s : State) : exec (.aand d a b w g) s = execAand d a b w g s := rfl
theorem exec_aor (d a b : BitVec 5) (w : BitVec 1) (g : BitVec 3) (s : State) : exec (.aor d a b w g) s = execAor d a b w g s := rfl
theorem exec_axor (d a b : BitVec 5) (w : BitVec 1) (g : BitVec 3) (s : State) : exec (.axor d a b w g) s = execAxor d a b w g s := rfl
theorem exec_amax (d a b : BitVec 5) (w : BitVec 1) (g : BitVec 3) (s : State) : exec (.amax d a b w g) s = execAmax d a b w g s := rfl
theorem exec_amin (d a b : BitVec 5) (w : BitVec 1) (g : BitVec 3) (s : State) : exec (.amin d a b w g) s = execAmin d a b w g s := rfl
theorem exec_amaxu (d a b : BitVec 5) (w : BitVec 1) (g : BitVec 3) (s : State) : exec (.amaxu d a b w g) s = execAmaxu d a b w g s := rfl
theorem exec_aminu (d a b : BitVec 5) (w : BitVec 1) (g : BitVec 3) (s : State) : exec (.aminu d a b w g) s = execAminu d a b w g s := rfl
theorem exec_aswap (d a b : BitVec 5) (w : BitVec 1) (g : BitVec 3) (s : State) : exec (.aswap d a b w g) s = execAswap d a b w g s := rfl
theorem exec_acas (d a b : BitVec 5) (w : BitVec 1) (g : BitVec 3) (s : State) : exec (.acas d a b w g) s = execAcas d a b w g s := rfl
theorem exec_lr (d a : BitVec 5) (w : BitVec 1) (g : BitVec 3) (s : State) : exec (.lr d a w g) s = execLr d a w g s := rfl
theorem exec_sc (d a b : BitVec 5) (w : BitVec 1) (g : BitVec 3) (s : State) : exec (.sc d a b w g) s = execSc d a b w g s := rfl
theorem exec_aaddf (d a b : BitVec 5) (g : BitVec 3) (s : State) : exec (.aaddf d a b g) s = execAaddf d a b g s := rfl
theorem exec_nadd (a b : BitVec 5) (w : BitVec 1) (g : BitVec 3) (s : State) : exec (.nadd a b w g) s = execNadd a b w g s := rfl
theorem exec_naddf (a b : BitVec 5) (g : BitVec 3) (s : State) : exec (.naddf a b g) s = execNaddf a b g s := rfl
theorem exec_nmax (a b : BitVec 5) (w : BitVec 1) (g : BitVec 3) (s : State) : exec (.nmax a b w g) s = execNmax a b w g s := rfl
theorem exec_nmin (a b : BitVec 5) (w : BitVec 1) (g : BitVec 3) (s : State) : exec (.nmin a b w g) s = execNmin a b w g s := rfl
theorem exec_vadd (d a b q : BitVec 4) (s : State) : exec (.vadd d a b q) s = execVadd d a b q s := rfl
theorem exec_vsub (d a b q : BitVec 4) (s : State) : exec (.vsub d a b q) s = execVsub d a b q s := rfl
theorem exec_vmul (d a b q : BitVec 4) (s : State) : exec (.vmul d a b q) s = execVmul d a b q s := rfl
theorem exec_vfma (d a b q : BitVec 4) (s : State) : exec (.vfma d a b q) s = execVfma d a b q s := rfl
theorem exec_vfms (d a b q : BitVec 4) (s : State) : exec (.vfms d a b q) s = execVfms d a b q s := rfl
theorem exec_vmin (d a b q : BitVec 4) (s : State) : exec (.vmin d a b q) s = execVmin d a b q s := rfl
theorem exec_vmax (d a b q : BitVec 4) (s : State) : exec (.vmax d a b q) s = execVmax d a b q s := rfl
theorem exec_vabs (d a q : BitVec 4) (s : State) : exec (.vabs d a q) s = execVabs d a q s := rfl
theorem exec_vneg (d a q : BitVec 4) (s : State) : exec (.vneg d a q) s = execVneg d a q s := rfl
theorem exec_vrcp (d a : BitVec 4) (q : BitVec 1) (s : State) : exec (.vrcp d a q) s = execVrcp d a q s := rfl
theorem exec_vrsq (d a : BitVec 4) (q : BitVec 1) (s : State) : exec (.vrsq d a q) s = execVrsq d a q s := rfl
theorem exec_vex2 (d a : BitVec 4) (q : BitVec 1) (s : State) : exec (.vex2 d a q) s = execVex2 d a q s := rfl
theorem exec_vlg2 (d a : BitVec 4) (q : BitVec 1) (s : State) : exec (.vlg2 d a q) s = execVlg2 d a q s := rfl
theorem exec_vcmp (d a b q : BitVec 4) (s : State) : exec (.vcmp d a b q) s = execVcmp d a b q s := rfl
theorem exec_vsel (d a b q : BitVec 4) (s : State) : exec (.vsel d a b q) s = execVsel d a b q s := rfl
theorem exec_vand (d a b q : BitVec 4) (s : State) : exec (.vand d a b q) s = execVand d a b q s := rfl
theorem exec_vor (d a b q : BitVec 4) (s : State) : exec (.vor d a b q) s = execVor d a b q s := rfl
theorem exec_vxor (d a b q : BitVec 4) (s : State) : exec (.vxor d a b q) s = execVxor d a b q s := rfl
theorem exec_vshl (d a b q : BitVec 4) (s : State) : exec (.vshl d a b q) s = execVshl d a b q s := rfl
theorem exec_vshr (d a b q : BitVec 4) (s : State) : exec (.vshr d a b q) s = execVshr d a b q s := rfl
theorem exec_vbcast (d : BitVec 4) (a : BitVec 5) (q : BitVec 4) (s : State) : exec (.vbcast d a q) s = execVbcast d a q s := rfl
theorem exec_vext (d : BitVec 5) (a : BitVec 4) (b : BitVec 5) (q : BitVec 4) (s : State) : exec (.vext d a b q) s = execVext d a b q s := rfl
theorem exec_vins (d : BitVec 4) (a b : BitVec 5) (q : BitVec 4) (s : State) : exec (.vins d a b q) s = execVins d a b q s := rfl
theorem exec_vshuf (d a b q : BitVec 4) (s : State) : exec (.vshuf d a b q) s = execVshuf d a b q s := rfl
theorem exec_vrot (d a : BitVec 4) (b : BitVec 5) (q : BitVec 4) (s : State) : exec (.vrot d a b q) s = execVrot d a b q s := rfl
theorem exec_vred (d : BitVec 5) (a : BitVec 4) (b : BitVec 5) (q : BitVec 4) (s : State) : exec (.vred d a b q) s = execVred d a b q s := rfl
theorem exec_vrmax (d : BitVec 5) (a : BitVec 4) (b : BitVec 5) (q : BitVec 4) (s : State) : exec (.vrmax d a b q) s = execVrmax d a b q s := rfl
theorem exec_vrmin (d : BitVec 5) (a : BitVec 4) (b : BitVec 5) (q : BitVec 4) (s : State) : exec (.vrmin d a b q) s = execVrmin d a b q s := rfl
theorem exec_vdot (d : BitVec 5) (a b q : BitVec 4) (s : State) : exec (.vdot d a b q) s = execVdot d a b q s := rfl
theorem exec_vcvt (d a : BitVec 4) (b : BitVec 5) (q : BitVec 4) (s : State) : exec (.vcvt d a b q) s = execVcvt d a b q s := rfl
theorem exec_vscan (d a q : BitVec 4) (s : State) : exec (.vscan d a q) s = execVscan d a q s := rfl
theorem exec_mshape (d : BitVec 4) (a : BitVec 5) (s : State) : exec (.mshape d a) s = execMshape d a s := rfl
theorem exec_mshget (d : BitVec 5) (a : BitVec 4) (s : State) : exec (.mshget d a) s = execMshget d a s := rfl
theorem exec_mzero (d : BitVec 4) (s : State) : exec (.mzero d) s = execMzero d s := rfl
theorem exec_mld (d : BitVec 4) (a b : BitVec 5) (g : BitVec 3) (s : State) : exec (.mld d a b g) s = execMld d a b g s := rfl
theorem exec_mldt (d : BitVec 4) (a b : BitVec 5) (g : BitVec 3) (s : State) : exec (.mldt d a b g) s = execMldt d a b g s := rfl
theorem exec_mst (d : BitVec 4) (a b : BitVec 5) (g : BitVec 3) (s : State) : exec (.mst d a b g) s = execMst d a b g s := rfl
theorem exec_mrowv (d a : BitVec 4) (b : BitVec 5) (s : State) : exec (.mrowv d a b) s = execMrowv d a b s := rfl
theorem exec_mvrow (d a : BitVec 4) (b : BitVec 5) (s : State) : exec (.mvrow d a b) s = execMvrow d a b s := rfl
theorem exec_mcvt (d a : BitVec 4) (s : State) : exec (.mcvt d a) s = execMcvt d a s := rfl
theorem exec_chb (d : BitVec 4) (s : State) : exec (.chb d) s = execChb d s := rfl
theorem exec_che (d : BitVec 4) (s : State) : exec (.che d) s = execChe d s := rfl
theorem exec_mma (d a b : BitVec 4) (s : State) : exec (.mma d a b) s = execMma d a b s := rfl
theorem exec_mmaz (d a b : BitVec 4) (s : State) : exec (.mmaz d a b) s = execMmaz d a b s := rfl
theorem exec_mmat (d a b : BitVec 4) (s : State) : exec (.mmat d a b) s = execMmat d a b s := rfl
theorem exec_mew (d a b : BitVec 4) (q : BitVec 2) (s : State) : exec (.mew d a b q) s = execMew d a b q s := rfl
theorem exec_mred (d a : BitVec 4) (b : BitVec 5) (q : BitVec 2) (s : State) : exec (.mred d a b q) s = execMred d a b q s := rfl
theorem exec_ham (d : BitVec 5) (a b : BitVec 4) (s : State) : exec (.ham d a b) s = execHam d a b s := rfl
theorem exec_hamt (d a b : BitVec 4) (s : State) : exec (.hamt d a b) s = execHamt d a b s := rfl
theorem exec_topki (d a : BitVec 4) (b : BitVec 5) (s : State) : exec (.topki d a b) s = execTopki d a b s := rfl
theorem exec_topkr (d a : BitVec 4) (s : State) : exec (.topkr d a) s = execTopkr d a s := rfl
theorem exec_topkz (d : BitVec 4) (s : State) : exec (.topkz d) s = execTopkz d s := rfl
theorem exec_bmf (d a : BitVec 4) (b : BitVec 5) (q : BitVec 4) (s : State) : exec (.bmf d a b q) s = execBmf d a b q s := rfl
theorem exec_dip (d : BitVec 5) (a b : BitVec 4) (q : BitVec 1) (s : State) : exec (.dip d a b q) s = execDip d a b q s := rfl
theorem exec_dcos (d : BitVec 5) (a b : BitVec 4) (q : BitVec 1) (s : State) : exec (.dcos d a b q) s = execDcos d a b q s := rfl
theorem exec_dl2 (d : BitVec 5) (a b : BitVec 4) (q : BitVec 1) (s : State) : exec (.dl2 d a b q) s = execDl2 d a b q s := rfl
theorem exec_moduleReset (s : State) : exec .moduleReset s = execModuleReset s := rfl
theorem exec_firmwareImageLoad (s : State) : exec .firmwareImageLoad s = execFirmwareImageLoad s := rfl
theorem exec_layerJoin (s : State) : exec .layerJoin s = execLayerJoin s := rfl
theorem exec_selfTestFail (s : State) : exec .selfTestFail s = execSelfTestFail s := rfl
theorem exec_fullService (s : State) : exec .fullService s = execFullService s := rfl
theorem exec_thermalLimit (s : State) : exec .thermalLimit s = execThermalLimit s := rfl
theorem exec_thermalShutdown (s : State) : exec .thermalShutdown s = execThermalShutdown s := rfl
theorem exec_governorRequest (s : State) : exec .governorRequest s = execGovernorRequest s := rfl
theorem exec_deferredGrant (s : State) : exec .deferredGrant s = execDeferredGrant s := rfl
theorem exec_leaveExpiry (s : State) : exec .leaveExpiry s = execLeaveExpiry s := rfl
theorem exec_pwrceilWrite (s : State) : exec .pwrceilWrite s = execPwrceilWrite s := rfl
theorem exec_kmapWrite (s : State) : exec .kmapWrite s = execKmapWrite s := rfl
theorem exec_kmapApply (s : State) : exec .kmapApply s = execKmapApply s := rfl
theorem exec_colWriteAccept (s : State) : exec .colWriteAccept s = execColWriteAccept s := rfl
theorem exec_kerfTransmit (s : State) : exec .kerfTransmit s = execKerfTransmit s := rfl
theorem exec_colApply (s : State) : exec .colApply s = execColApply s := rfl
theorem exec_lsleepSleep (s : State) : exec .lsleepSleep s = execLsleepSleep s := rfl
theorem exec_lsleepWake (s : State) : exec .lsleepWake s = execLsleepWake s := rfl
theorem exec_layerSleep (s : State) : exec .layerSleep s = execLayerSleep s := rfl
theorem exec_layerWake (s : State) : exec .layerWake s = execLayerWake s := rfl
theorem exec_colReplayDone (s : State) : exec .colReplayDone s = execColReplayDone s := rfl
theorem exec_colrldWrite (s : State) : exec .colrldWrite s = execColrldWrite s := rfl
theorem exec_colReloadDone (s : State) : exec .colReloadDone s = execColReloadDone s := rfl
theorem exec_switchHeaderArrival (s : State) : exec .switchHeaderArrival s = execSwitchHeaderArrival s := rfl
theorem exec_replySplit (s : State) : exec .replySplit s = execReplySplit s := rfl
theorem exec_homeQueuePerform (s : State) : exec .homeQueuePerform s = execHomeQueuePerform s := rfl
theorem exec_accessReply (s : State) : exec .accessReply s = execAccessReply s := rfl
theorem exec_flitRetransmit (s : State) : exec .flitRetransmit s = execFlitRetransmit s := rfl
theorem exec_byandIngress (s : State) : exec .byandIngress s = execByandIngress s := rfl
theorem exec_byandSwitchHeader (s : State) : exec .byandSwitchHeader s = execByandSwitchHeader s := rfl
theorem exec_byandTimeout (s : State) : exec .byandTimeout s = execByandTimeout s := rfl
theorem exec_linkDown (s : State) : exec .linkDown s = execLinkDown s := rfl
theorem exec_linkReturn (s : State) : exec .linkReturn s = execLinkReturn s := rfl
theorem exec_byidWrite (s : State) : exec .byidWrite s = execByidWrite s := rfl
theorem exec_timeBeacon (s : State) : exec .timeBeacon s = execTimeBeacon s := rfl
theorem exec_beaconSend (s : State) : exec .beaconSend s = execBeaconSend s := rfl
theorem exec_beaconLoss (s : State) : exec .beaconLoss s = execBeaconLoss s := rfl
theorem exec_translationPulse (s : State) : exec .translationPulse s = execTranslationPulse s := rfl
theorem exec_hostUnsupportedRequest (s : State) : exec .hostUnsupportedRequest s = execHostUnsupportedRequest s := rfl
theorem exec_apertureAccess (s : State) : exec .apertureAccess s = execApertureAccess s := rfl
theorem exec_getVersion (s : State) : exec .getVersion s = execGetVersion s := rfl
theorem exec_getCapabilities (s : State) : exec .getCapabilities s = execGetCapabilities s := rfl
theorem exec_negotiateAlgorithms (s : State) : exec .negotiateAlgorithms s = execNegotiateAlgorithms s := rfl
theorem exec_getDigests (s : State) : exec .getDigests s = execGetDigests s := rfl
theorem exec_getCertificate (s : State) : exec .getCertificate s = execGetCertificate s := rfl
theorem exec_challenge (s : State) : exec .challenge s = execChallenge s := rfl
theorem exec_getMeasurements (s : State) : exec .getMeasurements s = execGetMeasurements s := rfl
theorem exec_spdmUnsupported (s : State) : exec .spdmUnsupported s = execSpdmUnsupported s := rfl
theorem exec_benchAccess (s : State) : exec .benchAccess s = execBenchAccess s := rfl
theorem exec_partWrite (s : State) : exec .partWrite s = execPartWrite s := rfl
theorem exec_partitionReset (s : State) : exec .partitionReset s = execPartitionReset s := rfl
theorem exec_partitionTeardown (s : State) : exec .partitionTeardown s = execPartitionTeardown s := rfl
theorem exec_partitionResetDone (s : State) : exec .partitionResetDone s = execPartitionResetDone s := rfl
theorem exec_lqpushWrite (s : State) : exec .lqpushWrite s = execLqpushWrite s := rfl
theorem exec_launchTake (s : State) : exec .launchTake s = execLaunchTake s := rfl
theorem exec_workPacketPlace (s : State) : exec .workPacketPlace s = execWorkPacketPlace s := rfl
theorem exec_launchComplete (s : State) : exec .launchComplete s = execLaunchComplete s := rfl
theorem exec_completionPlace (s : State) : exec .completionPlace s = execCompletionPlace s := rfl
theorem exec_cqpopRead (s : State) : exec .cqpopRead s = execCqpopRead s := rfl
theorem exec_gtabWrite (s : State) : exec .gtabWrite s = execGtabWrite s := rfl
theorem exec_taskQueueOffer (s : State) : exec .taskQueueOffer s = execTaskQueueOffer s := rfl
theorem exec_agePeriod (s : State) : exec .agePeriod s = execAgePeriod s := rfl
theorem exec_gangPlace (s : State) : exec .gangPlace s = execGangPlace s := rfl
theorem exec_gangTimeout (s : State) : exec .gangTimeout s = execGangTimeout s := rfl
theorem exec_readyQueueStart (s : State) : exec .readyQueueStart s = execReadyQueueStart s := rfl
theorem exec_handoverCheck (s : State) : exec .handoverCheck s = execHandoverCheck s := rfl
theorem exec_slotLeave (s : State) : exec .slotLeave s = execSlotLeave s := rfl
theorem exec_spillDone (s : State) : exec .spillDone s = execSpillDone s := rfl
theorem exec_restoreDone (s : State) : exec .restoreDone s = execRestoreDone s := rfl
theorem exec_pschedPark (s : State) : exec .pschedPark s = execPschedPark s := rfl
theorem exec_pschedRestore (s : State) : exec .pschedRestore s = execPschedRestore s := rfl
theorem exec_pschedShift (s : State) : exec .pschedShift s = execPschedShift s := rfl
theorem exec_ctxbaseWrite (s : State) : exec .ctxbaseWrite s = execCtxbaseWrite s := rfl
theorem exec_balanceCheck (s : State) : exec .balanceCheck s = execBalanceCheck s := rfl
theorem exec_softError (s : State) : exec .softError s = execSoftError s := rfl
theorem exec_tokenInsert (s : State) : exec .tokenInsert s = execTokenInsert s := rfl
theorem exec_sliceWaitTimeout (s : State) : exec .sliceWaitTimeout s = execSliceWaitTimeout s := rfl
theorem exec_mortisePass (s : State) : exec .mortisePass s = execMortisePass s := rfl
theorem exec_fireSend (s : State) : exec .fireSend s = execFireSend s := rfl
theorem exec_detectionWaveStart (s : State) : exec .detectionWaveStart s = execDetectionWaveStart s := rfl
theorem exec_detectionWaveComplete (s : State) : exec .detectionWaveComplete s = execDetectionWaveComplete s := rfl
theorem exec_annulledRetire (s : State) : exec .annulledRetire s = execAnnulledRetire s := rfl
theorem exec_registerFill (s : State) : exec .registerFill s = execRegisterFill s := rfl
theorem exec_messageAccept (s : State) : exec .messageAccept s = execMessageAccept s := rfl
theorem exec_migrationArrival (s : State) : exec .migrationArrival s = execMigrationArrival s := rfl
theorem exec_pageWake (s : State) : exec .pageWake s = execPageWake s := rfl
theorem exec_remoteUpdate (s : State) : exec .remoteUpdate s = execRemoteUpdate s := rfl
theorem exec_vmuStart (s : State) : exec .vmuStart s = execVmuStart s := rfl
theorem exec_vmuResult (s : State) : exec .vmuResult s = execVmuResult s := rfl
theorem exec_nearBufferDrain (s : State) : exec .nearBufferDrain s = execNearBufferDrain s := rfl
theorem exec_edramRefreshWindow (s : State) : exec .edramRefreshWindow s = execEdramRefreshWindow s := rfl
theorem exec_ifetchLineFill (s : State) : exec .ifetchLineFill s = execIfetchLineFill s := rfl
theorem exec_faultRecordEnqueue (s : State) : exec .faultRecordEnqueue s = execFaultRecordEnqueue s := rfl
theorem exec_fq1Read (s : State) : exec .fq1Read s = execFq1Read s := rfl
theorem exec_pwakeWrite (s : State) : exec .pwakeWrite s = execPwakeWrite s := rfl
theorem exec_edctlLoad (s : State) : exec .edctlLoad s = execEdctlLoad s := rfl
theorem exec_hotnessFlush (s : State) : exec .hotnessFlush s = execHotnessFlush s := rfl
theorem exec_reservationExpiry (s : State) : exec .reservationExpiry s = execReservationExpiry s := rfl
theorem exec_copyCommandStart (s : State) : exec .copyCommandStart s = execCopyCommandStart s := rfl
theorem exec_copyComplete (s : State) : exec .copyComplete s = execCopyComplete s := rfl
theorem exec_barrierRelease (s : State) : exec .barrierRelease s = execBarrierRelease s := rfl
theorem exec_registerWrite (s : State) : exec .registerWrite s = execRegisterWrite s := rfl
theorem exec_reservedEncoding (s : State) : exec .reservedEncoding s = execReservedEncoding s := rfl
theorem exec_thermalLimitCleared (s : State) : exec .thermalLimitCleared s = execThermalLimitCleared s := rfl
theorem exec_hbm5TrainingDone (s : State) : exec .hbm5TrainingDone s = execHbm5TrainingDone s := rfl
theorem exec_edramCalibrationDone (s : State) : exec .edramCalibrationDone s = execEdramCalibrationDone s := rfl
theorem exec_colReady (s : State) : exec .colReady s = execColReady s := rfl
theorem exec_configurationWrite (s : State) : exec .configurationWrite s = execConfigurationWrite s := rfl
theorem exec_loadqUpdate (s : State) : exec .loadqUpdate s = execLoadqUpdate s := rfl

end Sys2Proof.Machine
end

