-- ==== Sys2Proof/Laws/Memory.lean ====
section
/-! SUPPORT. Storage: what each operation that changes bytes does to them, and that it keeps the canonical form. Every change of
storage goes through one of these operations. -/

namespace Sys2Proof.Machine

/-! ### Bytes after a write -/

@[simp] theorem State.raw_putByte (s : State) (a x : Nat) (b : Byte) : (s.putByte a b).raw x = if x = a then b else s.raw x := by
  simp [State.putByte, State.raw, Sparse.get_put, eq_comm]

/-- A run of bytes written at `a` leaves every byte below it and behind it alone. -/
theorem State.raw_putBytes_other (bs : List Byte) (s : State) (a x : Nat) (h : x < a ∨ a + bs.length ≤ x) :
    (s.putBytes a bs).raw x = s.raw x := by
  induction bs generalizing s a with
  | nil => rfl
  | cons b r ih =>
    simp only [List.length_cons] at h
    rw [State.putBytes, ih _ _ (by omega), State.raw_putByte, if_neg (by omega)]

/-- A run of bytes written at `a` is there. -/
theorem State.raw_putBytes_within (bs : List Byte) (s : State) (a i : Nat) (h : i < bs.length) :
    (s.putBytes a bs).raw (a + i) = bs[i] := by
  induction bs generalizing s a i with
  | nil => simp at h
  | cons b r ih =>
    cases i with
    | zero => rw [State.putBytes, State.raw_putBytes_other _ _ _ _ (by omega)]; simp
    | succ i =>
      have := ih (s.putByte a b) (a + 1) i (by simpa using h)
      rw [State.putBytes, show a + (i + 1) = a + 1 + i by omega, this]; rfl

@[simp] theorem State.clearResv_mem (s : State) (a n : Nat) : (s.clearResv a n).mem = s.mem := by
  have hb : (s.clearBench a n).mem = s.mem := by unfold State.clearBench; split <;> rfl
  unfold State.clearResv; split
  · exact hb
  · dsimp only; split <;> simp [hb]

/-- Outside the SRAM layer, where a line has no key, a store writes its bytes. -/
theorem State.raw_store_plain (s : State) (k a i : Nat) (bs : List Byte) (ha : isSram a = false) (h : i < bs.length) :
    (s.store k a bs).raw (a + i) = bs[i] := by
  have hb : bs.isEmpty = false := by cases bs <;> simp_all
  simp only [State.raw, State.store, State.clearResv_mem]
  simpa [State.writeBytes, ha, hb, State.raw] using State.raw_putBytes_within bs s a i h

/-- Outside the SRAM layer a store leaves every other byte alone. -/
theorem State.raw_store_other (s : State) (k a x : Nat) (bs : List Byte) (ha : isSram a = false) (h : x < a ∨ a + bs.length ≤ x) :
    (s.store k a bs).raw x = s.raw x := by
  simp only [State.raw, State.store, State.clearResv_mem, State.writeBytes, ha]
  split
  · rfl
  · exact State.raw_putBytes_other bs s a x h

/-! ### The canonical form is kept -/

theorem State.putByte_inv {s : State} (h : s.Inv) (a : Nat) (b : Byte) : (s.putByte a b).Inv := Memory.wf_put h a b

theorem State.putBytes_inv (bs : List Byte) {s : State} (h : s.Inv) (a : Nat) : (s.putBytes a bs).Inv := by
  induction bs generalizing s a with
  | nil => exact h
  | cons b r ih => exact ih (State.putByte_inv h a b) (a + 1)

theorem State.rekey_inv {s : State} (h : s.Inv) (k line : Nat) : (s.rekey k line).Inv := by
  unfold State.rekey
  split
  · exact h
  · generalize s.readBytes k (64 * line) 64 = bs
    exact State.putBytes_inv bs h (64 * line)

theorem State.writeBytes_inv {s : State} (h : s.Inv) (k a : Nat) (bs : List Byte) : (s.writeBytes k a bs).Inv := by
  unfold State.writeBytes
  split
  · exact h
  · split
    · exact State.putBytes_inv bs (State.rekey_inv h k _) a
    · exact State.putBytes_inv bs h a

theorem State.writeLE_inv {s : State} (h : s.Inv) (k a n v : Nat) : (s.writeLE k a n v).Inv := State.writeBytes_inv h k a _

theorem State.clearResv_inv {s : State} (h : s.Inv) (a n : Nat) : (s.clearResv a n).Inv := by simpa [State.Inv] using h

theorem State.store_inv {s : State} (h : s.Inv) (k a : Nat) (bs : List Byte) : (s.store k a bs).Inv :=
  State.clearResv_inv (State.writeBytes_inv h k a bs) a bs.length

theorem State.storeEach_inv (bs : List Byte) {s : State} (h : s.Inv) (k a : Nat) : (s.storeEach k a bs).Inv := by
  induction bs generalizing s a with
  | nil => exact h
  | cons b r ih => exact ih (State.store_inv h k a [b]) (a + 1)

theorem State.zeroRange_inv {s : State} (h : s.Inv) (lo hi : Nat) : (s.zeroRange lo hi).Inv := Memory.wf_clear h lo hi

theorem State.colWrite_inv {s : State} (h : s.Inv) (tower die : Nat) (w : ColWrite) : (s.colWrite tower die w).Inv :=
  State.putBytes_inv _ h _

/-- Puts of any number of bytes into a canonical list. -/
theorem Memory.wf_putMany (l : List (Nat × Byte)) (base : Nat) {m : List Host.Cell} (h : Memory.wf m = true) :
    Memory.wf (l.foldl (fun m e => Sparse.put 0 m (base + e.1) e.2) m) = true := by
  induction l generalizing m with
  | nil => exact h
  | cons e r ih => exact ih (Memory.wf_put h _ _)

/-- An operation performed at its home keeps the form. -/
theorem State.performOp_inv {s : State} (h : s.Inv) (k loc : Nat) (op : MemOp) (who : Option (Nat × Nat)) :
    (s.performOp k loc op who).2.Inv := by
  cases op with
  | read => exact h
  | write | amo | fadd | upd => exact State.store_inv h ..
  | cas =>
    simp only [State.performOp]
    split
    · exact State.store_inv h ..
    · exact State.clearResv_inv h ..
  | lr =>
    simp only [State.performOp]
    split
    · simpa [State.Inv] using h
    · exact h
  | sc =>
    simp only [State.performOp]
    split
    · split
      · split
        · exact State.store_inv (by simpa [State.Inv] using h) ..
        · simpa [State.Inv] using h
      · exact h
    · exact h

end Sys2Proof.Machine
end

