-- ==== Sys2Proof/Tests/Slice0.lean ====
section
/-! SUPPORT. Tests: ill-formed terms are refused, words of the spec's encoding tables decode, and for every statement that has hypotheses
a state and operands that meet them. -/

namespace Sys2Proof.Tests

set_option Elab.async false

open Sys2Proof Sys2Proof.Machine Sys2Proof.Claims

/-! ### Ill-formed terms (R256-R262) -/

theorem test_guard_count_is_not_zero : (Instr.cmp 0 0 1 2).illFormed = some .guardCount ∧ (Instr.cmpi 0 0 1 2).illFormed = some .guardCount := by
  decide
theorem test_bit_number_fits : (Instr.cmpi 1 6 1 64).illFormed = some .reservedField ∧ (Instr.cmpiw 1 7 1 32).illFormed = some .reservedField ∧
    (Instr.cmpi 1 6 1 63).wellFormed = true := by decide
theorem test_link_is_not_zero : (Instr.jl 0 4).illFormed = some .linkZero ∧ (Instr.jlr 0 1 4).illFormed = some .linkZero := by decide
theorem test_extension_width : (Instr.sext 1 2 3).illFormed = some .reservedQualifier ∧ (Instr.zext 1 2 3).illFormed = some .reservedQualifier := by
  decide
theorem test_fill_kind : (Instr.fill 1 2 3 2).illFormed = some .reservedQualifier ∧ (Instr.fill 16 2 3 1).illFormed = some .shortFile := by decide
theorem test_engine_number : (Instr.epop 1 3).illFormed = some .reservedQualifier ∧ (Instr.epeek 1 15).illFormed = some .reservedQualifier := by
  decide
theorem test_wres_kind : (Instr.wres 1 4).illFormed = some .reservedQualifier ∧ (Instr.wres 16 1).illFormed = some .shortFile ∧
    (Instr.wres 8 3).illFormed = some .reservedField := by decide
theorem test_lane_type : (Instr.vadd 1 2 3 5).illFormed = some .reservedQualifier ∧ (Instr.vabs 1 2 5).illFormed = some .reservedQualifier ∧
    (Instr.vext 1 2 3 5).illFormed = some .reservedQualifier ∧ (Instr.vand 1 2 3 1).illFormed = some .reservedQualifier ∧
    (Instr.mred 1 2 3 3).illFormed = some .reservedQualifier := by decide
theorem test_missing_units : Instr.layerJoin.unitsExist { Env.none with unit := 32 } = false ∧
    Instr.layerJoin.unitsExist { Env.none with unit := 31 } = true ∧ Instr.partWrite.unitsExist { Env.none with unit := 64 } = false := by decide

/-! ### Words of the encoding tables (R255-R263): the fixed bits of a row with operands in its fields -/

def decodesTo (l : List (IWord × Instr)) : Bool := l.all fun x => match decodeWord x.1 with
  | .ok i => i == x.2
  | .error _ => false

theorem test_decode_op00 : decodesTo
    [(0x00000000, .nop), (0x00000011, .trap 1), (0x00870020, .eretRetry 4 7), (0x00450021, .eretSkip 2 5),
     (0x00660022, .eretEnd 3 6), (0x00000030, .ifence), (0x00020040, .idem 2), (0x00000050, .idend), (0x00000060, .yield),
     (0x00000070, .halt), (0x00660080, .rdctl 3 6), (0x00043890, .wrctl 4 7), (0x004000A0, .rdlt 2), (0x006000B1, .rdcnt 3 1),
     (0x008000C7, .rdseg 4 7), (0x000200D5, .wrseg 2 5)] = true := by decide +kernel
theorem test_decode_op01 : decodesTo
    [(0x04662000, .send 3 6 4), (0x04872813, .fill 4 7 5 3), (0x04020020, .go 2), (0x04662030, .spawn 3 6 4),
     (0x04872840, .spawnd 4 7 5), (0x04000050, .join), (0x04000060, .exit), (0x04043870, .setvec 4 7), (0x04450080, .getvec 2 5),
     (0x04600090, .loadq 3)] = true := by decide +kernel
theorem test_decode_op02 : decodesTo
    [(0x08040000, .epushCopy 4), (0x08020001, .epushLaunch 2), (0x08030002, .epushGov 3), (0x08800012, .epop 4 2),
     (0x08400020, .epeek 2 0), (0x08660030, .tagwany 3 6), (0x08870040, .tagwall 4 7), (0x08450050, .tagff 2 5),
     (0x08030060, .tagclr 3), (0x08040077, .lease 4 7), (0x08450080, .leave 2 5)] = true := by decide +kernel
theorem test_decode_op03 : decodesTo
    [(0x0C030000, .temit 3), (0x0C043810, .temiti 4 7), (0x0C451820, .tgrab 2 5 3), (0x0C662030, .tpeek 3 6 4),
     (0x0C043840, .rulew 4 7), (0x0C450050, .rrun 2 5), (0x0C000060, .rhalt), (0x0C870070, .rstat 4 7), (0x0C020080, .rbudg 2),
     (0x0C033090, .rlogm 3 6), (0x0C8000A0, .stabw 4), (0x0C4000B0, .stabq 2)] = true := by decide +kernel
theorem test_decode_op04 : decodesTo
    [(0x10030000, .bara 3), (0x10040010, .barw 4), (0x10020020, .bar 2), (0x10030030, .fza 3), (0x10040040, .fzw 4),
     (0x10000050, .fenceRx), (0x10000051, .fenceLb), (0x10000052, .fenceSys), (0x10000060, .cfence), (0x10600071, .wres 3 1)] = true := by decide +kernel
theorem test_decode_op08 : decodesTo
    [(0x20872800, .add 4 7 5), (0x20451810, .sub 2 5 3), (0x20662020, .and 3 6 4), (0x20872830, .or 4 7 5),
     (0x20451840, .xor 2 5 3), (0x20662050, .andn 3 6 4), (0x20872860, .orn 4 7 5), (0x20451870, .xnor 2 5 3),
     (0x20662080, .sll 3 6 4), (0x20872890, .srl 4 7 5), (0x204518A0, .sra 2 5 3), (0x206620B0, .rol 3 6 4),
     (0x208728C0, .ror 4 7 5), (0x204518D0, .min 2 5 3), (0x206620E0, .max 3 6 4), (0x208728F0, .minu 4 7 5),
     (0x20451900, .maxu 2 5 3), (0x20662110, .addw 3 6 4), (0x20872920, .subw 4 7 5), (0x20451930, .slt 2 5 3),
     (0x20662140, .sltu 3 6 4)] = true := by decide +kernel
theorem test_decode_op09 : decodesTo
    [(0x24872800, .mul 4 7 5), (0x24451810, .mulh 2 5 3), (0x24662020, .mulhu 3 6 4), (0x24872830, .mulw 4 7 5),
     (0x24451840, .mad 2 5 3), (0x24662050, .div 3 6 4), (0x24872860, .divu 4 7 5), (0x24451870, .rem 2 5 3),
     (0x24662080, .remu 3 6 4)] = true := by decide +kernel
theorem test_decode_op0A : decodesTo
    [(0x28870000, .popc 4 7), (0x28450010, .clz 2 5), (0x28660020, .ctz 3 6), (0x28870030, .brev 4 7), (0x28450040, .bswap 2 5),
     (0x28662050, .bext 3 6 4), (0x28872860, .bins 4 7 5), (0x28450070, .sext 2 5 0), (0x28660081, .zext 3 6 1),
     (0x28870090, .phash 4 7), (0x284518A0, .rndk 2 5 3)] = true := by decide +kernel
theorem test_decode_op0B : decodesTo
    [(0x2C668067, .addi 3 6 32871)] = true := by decide +kernel
theorem test_decode_op0C : decodesTo
    [(0x30878068, .andi 4 7 32872)] = true := by decide +kernel
theorem test_decode_op0D : decodesTo
    [(0x34458069, .ori 2 5 32873)] = true := by decide +kernel
theorem test_decode_op0E : decodesTo
    [(0x3866806A, .xori 3 6 32874)] = true := by decide +kernel
theorem test_decode_op0F : decodesTo
    [(0x3C83806B, .lih 4 3 32875)] = true := by decide +kernel
theorem test_decode_op10 : decodesTo
    [(0x40450003, .slli 2 5 3)] = true := by decide +kernel
theorem test_decode_op11 : decodesTo
    [(0x44660004, .srli 3 6 4)] = true := by decide +kernel
theorem test_decode_op12 : decodesTo
    [(0x48870005, .srai 4 7 5)] = true := by decide +kernel
theorem test_decode_op13 : decodesTo
    [(0x4C45806F, .slti 2 5 32879)] = true := by decide +kernel
theorem test_decode_op14 : decodesTo
    [(0x50668070, .sltiu 3 6 32880)] = true := by decide +kernel
theorem test_decode_op15 : decodesTo
    [(0x57E51800, .cmp 3 7 5 3), (0x55A30810, .cmpw 1 5 3 1), (0x56441021, .cmpf 2 2 4 2 1)] = true := by decide +kernel
theorem test_decode_op16 : decodesTo
    [(0x5B658074, .cmpi 3 3 5 32884)] = true := by decide +kernel
theorem test_decode_op17 : decodesTo
    [(0x5D638075, .cmpiw 1 3 3 32885)] = true := by decide +kernel
theorem test_decode_op18 : decodesTo
    [(0x60100076, .j 1048694), (0x60900077, .jl 4 1048695)] = true := by decide +kernel
theorem test_decode_op19 : decodesTo
    [(0x64028078, .jr 2 32888), (0x64668079, .jlr 3 6 32889)] = true := by decide +kernel
theorem test_decode_op1A : decodesTo
    [(0x6887B27A, .ldb 4 7 5 1 634), (0x6845767B, .ldh 2 5 3 1 635), (0x68668A7C, .ldw 3 6 4 0 636),
     (0x6887BE7D, .ldd 4 7 5 1 637)] = true := by decide +kernel
theorem test_decode_op1B : decodesTo
    [(0x6C45727E, .ldbz 2 5 3 1 638), (0x6C66867F, .ldhz 3 6 4 0 639), (0x6C87BA80, .ldwz 4 7 5 1 640)] = true := by decide +kernel
theorem test_decode_op1C : decodesTo
    [(0x70457281, .stb 2 5 3 1 641), (0x70668682, .sth 3 6 4 0 642), (0x7087BA83, .stw 4 7 5 1 643),
     (0x70457E84, .std 2 5 3 1 644)] = true := by decide +kernel
theorem test_decode_op1D : decodesTo
    [(0x74668285, .vld 3 6 4 0 645)] = true := by decide +kernel
theorem test_decode_op1E : decodesTo
    [(0x7887B286, .vst 4 7 5 1 646)] = true := by decide +kernel
theorem test_decode_op1F : decodesTo
    [(0x7C457A87, .ldn 2 5 3 1 2 647)] = true := by decide +kernel
theorem test_decode_op20 : decodesTo
    [(0x80668E88, .stn 3 6 4 0 3 648)] = true := by decide +kernel
theorem test_decode_op21 : decodesTo
    [(0x84872808, .aadd 4 7 5 1 0), (0x8445181E, .aand 2 5 3 1 6), (0x84662027, .aor 3 6 4 0 7), (0x84872838, .axor 4 7 5 1 0),
     (0x8445184E, .amax 2 5 3 1 6), (0x84662057, .amin 3 6 4 0 7), (0x84872868, .amaxu 4 7 5 1 0), (0x8445187E, .aminu 2 5 3 1 6),
     (0x84662087, .aswap 3 6 4 0 7), (0x84872898, .acas 4 7 5 1 0), (0x844500A9, .lr 2 5 1 1), (0x846620B7, .sc 3 6 4 0 7),
     (0x848728C3, .aaddf 4 7 5 3), (0x840228D9, .nadd 2 5 1 1), (0x840330E4, .naddf 3 6 4), (0x840438FB, .nmax 4 7 1 3),
     (0x84022909, .nmin 2 5 1 1)] = true := by decide +kernel
theorem test_decode_op28 : decodesTo
    [(0xA0662001, .vadd 3 6 4 1), (0xA0872812, .vsub 4 7 5 2), (0xA0451820, .vmul 2 5 3 0), (0xA0662031, .vfma 3 6 4 1),
     (0xA0872842, .vfms 4 7 5 2), (0xA0451850, .vmin 2 5 3 0), (0xA0662061, .vmax 3 6 4 1), (0xA0870072, .vabs 4 7 2),
     (0xA0450080, .vneg 2 5 0), (0xA0660091, .vrcp 3 6 1), (0xA08700A0, .vrsq 4 7 0), (0xA04500B0, .vex2 2 5 0),
     (0xA06600C1, .vlg2 3 6 1), (0xA08728D2, .vcmp 4 7 5 2), (0xA04518E0, .vsel 2 5 3 0), (0xA06620F3, .vand 3 6 4 3),
     (0xA0872904, .vor 4 7 5 4), (0xA0451912, .vxor 2 5 3 2), (0xA0662123, .vshl 3 6 4 3), (0xA0872934, .vshr 4 7 5 4)] = true := by decide +kernel
theorem test_decode_op29 : decodesTo
    [(0xA4450000, .vbcast 2 5 0), (0xA4662011, .vext 3 6 4 1), (0xA4872822, .vins 4 7 5 2), (0xA4451830, .vshuf 2 5 3 0),
     (0xA4662041, .vrot 3 6 4 1), (0xA4872852, .vred 4 7 5 2), (0xA4451860, .vrmax 2 5 3 0), (0xA4662071, .vrmin 3 6 4 1),
     (0xA4872882, .vdot 4 7 5 2), (0xA4451890, .vcvt 2 5 3 0), (0xA46600A1, .vscan 3 6 1)] = true := by decide +kernel
theorem test_decode_op2A : decodesTo
    [(0xA8870000, .mshape 4 7), (0xA8450010, .mshget 2 5), (0xA8600020, .mzero 3), (0xA8872833, .mld 4 7 5 3),
     (0xA8451841, .mldt 2 5 3 1), (0xA8662052, .mst 3 6 4 2), (0xA8872860, .mrowv 4 7 5), (0xA8451870, .mvrow 2 5 3),
     (0xA8660080, .mcvt 3 6)] = true := by decide +kernel
theorem test_decode_op2B : decodesTo
    [(0xAC800000, .chb 4), (0xAC400010, .che 2), (0xAC662020, .mma 3 6 4), (0xAC872830, .mmaz 4 7 5), (0xAC451840, .mmat 2 5 3),
     (0xAC662051, .mew 3 6 4 1), (0xAC872862, .mred 4 7 5 2)] = true := by decide +kernel
theorem test_decode_op2C : decodesTo
    [(0xB0451800, .ham 2 5 3), (0xB0662010, .hamt 3 6 4), (0xB0872820, .topki 4 7 5), (0xB0450030, .topkr 2 5),
     (0xB0600040, .topkz 3), (0xB0872854, .bmf 4 7 5 4), (0xB0451860, .dip 2 5 3 0), (0xB0662071, .dcos 3 6 4 1),
     (0xB0872880, .dl2 4 7 5 0)] = true := by decide +kernel

/-- Words of the spec's own examples (R281-R292). -/
theorem test_decode_examples : decodesTo
    [(0x20642810, .sub 3 4 5), (0x20C74140, .sltu 6 7 8), (0x252A5860, .divu 9 10 11), (0x24A63840, .mad 5 6 7), (0x28640071, .sext 3 4 1),
     (0x28A60090, .phash 5 6), (0x28A638A0, .rndk 5 6 7), (0x3CE0CDEF, .lih 7 0 0xCDEF), (0x3084FFF0, .andi 4 4 0xFFF0),
     (0x34A0BEEF, .ori 5 0 0xBEEF), (0x48C6003F, .srai 6 6 63), (0x4CE8FFFF, .slti 7 8 0xFFFF), (0x57832010, .cmpw 3 4 3 4),
     (0x59C5003F, .cmpi 1 6 5 63), (0x5E46FFFB, .cmpiw 2 2 6 0xFFFB), (0x60000002, .j 2), (0x641F0000, .jr 31 0)] = true := by decide +kernel

/-- Reserved encodings (R263-R265): an OP, an FN, a reserved field and bit 4 of a vector field. -/
theorem test_reserved_words : decodeWord 0xFC000000 = .error .reservedOpcode ∧ decodeWord 0x000000E0 = .error .reservedFunction ∧
    decodeWord 0x00000800 = .error .reservedField ∧ decodeWord 0x76001000 = .error .shortFile :=
  ⟨rfl, rfl, rfl, rfl⟩

/-- A row's word is the next instruction that a step runs. -/
theorem test_fetch_word : decodeTableWord 32 0x20642810 = some (.sub 3 4 5) ∧
    (match step (State.reset.withFetchWord 32 0x20642810) with
      | .next s => (s.core 0).slots.any fun e => e.2.pc == 4
      | _ => false) = true := by decide +kernel

/-! ### States of the tests -/

/-- Partition 0 holds every core of layer 0, and its layers are awake. -/
def base : State :=
  { State.reset with
    parts := [(0, { Part.reset with base := 0, len := 1024, en := true })],
    cur := { core := 0, slot := 2, word := 0, used := false } }

/-- A thread in general mode, with every register allocated, zero and full. -/
def U : Thread := { loadedThread with mode := false, tid := 5 }

/-- The thread `t` in slot `k` of core `c`, at its attempt. -/
def onCore (c k : Nat) (t : Thread) : State :=
  { base with cores := [(c, { Core.reset with slots := [(k, t)] })], cur := { core := c, slot := k, word := 0, used := false } }

def S (t : Thread) : State := onCore 0 2 t

def withG (l : List (Nat × Word)) : Thread := { U with g := l }

theorem ready {s : State} {t : Thread} {u : Names} (h : (decide (s.mine = some t) && t.holds u && !t.blocked u) = true) : Ready s t u := by
  simp only [Bool.and_eq_true, decide_eq_true_eq, Bool.not_eq_true'] at h
  exact ⟨h.1.1, h.1.2, h.2⟩

/-! ### Hypotheses that are met -/

theorem test_meets_IntegerFormResults :
    (∃ r, aluRow U.gr (.add 31 30 0) = some r ∧ Ready (S U) U { gR := r.src, gW := [r.d] }) ∧
    (∃ r, bitRow U.gr (.bins 0 30 31) = some r ∧ Ready (S U) U { gR := r.src, gW := [r.d] }) ∧
    ∃ r, immRow U.gr (.lih 31 3 0xFFFF) = some r ∧ Ready (S U) U { gR := r.src, gW := [r.d] } :=
  ⟨⟨_, rfl, ready (by decide +kernel)⟩, ⟨_, rfl, ready (by decide +kernel)⟩, ⟨_, rfl, ready (by decide +kernel)⟩⟩

theorem test_meets_DivisionResults : ∃ r, divRow U.gr (.rem 1 2 0) = some r ∧ Ready (S U) U { gR := r.src, gW := [r.d] } :=
  ⟨_, rfl, ready (by decide +kernel)⟩

theorem test_meets_LihWritesOneLane :
    Ready (S U) U { gR := [(31 : BitVec 5).toNat], gW := [(31 : BitVec 5).toNat] } ∧
    (∀ k < 4, ∀ j < 64, (0 : Word).getLsbD j =
      if 16 * k ≤ j ∧ j < 16 * k + 16 then (0 : BitVec 16).getLsbD (j - 16 * k) else (0 : Word).getLsbD j) ∧
    (0x3CE4CDEF : BitVec 32).extractLsb' 26 6 = 0x0F ∧ (0x3CE4CDEF : BitVec 32).extractLsb' 18 3 ≠ 0 :=
  ⟨ready (by decide +kernel), by simp, by decide, by decide⟩

theorem test_meets_HashAndRandomAreInjective : (∃ x y k, phash x = phash y ∧ rndk k x = rndk k y) ∧
    Ready (S U) U { gR := [(1 : BitVec 5).toNat, (2 : BitVec 5).toNat], gW := [(0 : BitVec 5).toNat] } :=
  ⟨⟨0, 0, 0, rfl, rfl⟩, ready (by decide +kernel)⟩

theorem test_meets_ReadsOfMachineState :
    (∃ r, readRow (S U) U (.rdctl 31 7) = some r ∧ r.cond ∧ Ready (S U) U r.names) ∧
    (∃ r, readRow (S U) U (.rdctl 31 15) = some r ∧ r.cond ∧ Ready (S U) U r.names) ∧
    (∃ r, readRow (S U) U (.rdcnt 1 7) = some r ∧ r.cond ∧ Ready (S U) U r.names) ∧
    (∃ r, readRow (S U) U (.mshget 1 15) = some r ∧ r.cond ∧ Ready (S U) U r.names) ∧
    (∃ r, readRow (S U) U (.getvec 1 2) = some r ∧ r.cond ∧ Ready (S U) U r.names) ∧
    (∃ r, readRow (onCore 32768 2 U) U (.epeek 1 1) = some r ∧ r.cond ∧ Ready (onCore 32768 2 U) U r.names) ∧
    (∃ r, readRow (S U) U (.tagwany 1 0) = some r ∧ r.cond ∧ Ready (S U) U r.names) ∧
    (∃ r, readRow (S U) U (.tagwall 1 0) = some r ∧ r.cond ∧ Ready (S U) U r.names) ∧
    ∃ r, readRow (S U) U (.loadq 1) = some r ∧ r.cond ∧ Ready (S U) U r.names :=
  ⟨⟨_, rfl, trivial, ready (by decide +kernel)⟩, ⟨_, rfl, by decide +kernel, ready (by decide +kernel)⟩,
   ⟨_, rfl, trivial, ready (by decide +kernel)⟩, ⟨_, rfl, trivial, ready (by decide +kernel)⟩,
   ⟨_, rfl, by decide +kernel, ready (by decide +kernel)⟩, ⟨_, rfl, Or.inr rfl, ready (by decide +kernel)⟩,
   ⟨_, rfl, ⟨by decide +kernel, Or.inr (by decide +kernel)⟩, ready (by decide +kernel)⟩,
   ⟨_, rfl, by decide +kernel, ready (by decide +kernel)⟩,
   ⟨_, rfl, Or.inr (Or.inr (Or.inr (Or.inl (by decide +kernel)))), ready (by decide +kernel)⟩⟩

/-- A thread under an open guard window whose condition is false. -/
def guarded : Thread := { U with gcnt := 1 }

theorem test_meets_GuardWindowsOpenAndAnnul :
    (∃ n src c, cmpRow U.gr (.cmp 3 0 1 2) = some (n, src, c) ∧ Ready (S U) U { gR := src }) ∧
    (∃ n src c, cmpRow U.gr (.cmpiw 1 7 1 31) = some (n, src, c) ∧ Ready (S U) U { gR := src }) ∧
    (isCore 33023 = true ∧ (onCore 33023 15 guarded).thread 33023 15 = some guarded ∧ guarded.avail = .rotation ∧ guarded.gcnt ≠ 0 ∧
      guarded.gcond = false) :=
  ⟨⟨_, _, _, rfl, ready (by decide +kernel)⟩, ⟨_, _, _, rfl, ready (by decide +kernel)⟩, by decide +kernel⟩

/-- A thread whose `sg0` covers two words. -/
def narrowCode : Thread := { U with sg := [(0, BitVec.ofNat 128 (8 * 2 ^ 64 + 2 ^ 106))], g := [(1, 5), (2, 4)] }

theorem test_meets_JumpsReachTheirTarget :
    (∃ l t, jumpRow narrowCode (.jr 1 0) = some (l, [], t) ∧ t.toNat % 4 ≠ 0) ∧
    (∃ l t, jumpRow narrowCode (.jlr 3 2 1) = some (l, [3], t) ∧ t.toNat % 4 = 0 ∧ segLimit (narrowCode.seg 0) ≤ t.toNat) ∧
    (∃ l t, jumpRow narrowCode (.jlr 3 2 0) = some (l, [3], t) ∧ t.toNat % 4 = 0 ∧ t.toNat < segLimit (narrowCode.seg 0)) ∧
    Ready (S narrowCode) narrowCode { gR := [2], gW := [3] } :=
  ⟨⟨_, _, rfl, by decide +kernel⟩, ⟨_, _, rfl, by decide +kernel⟩, ⟨_, _, rfl, by decide +kernel⟩, ready (by decide +kernel)⟩

/-- A thread with an answer of its governor. -/
def answered : Thread := { U with asking := .answered 1, g := [(2, 0x10001)] }

/-- The zero descriptor of two zero registers gives no right. -/
theorem no_rights (i : Nat) (_ : 104 ≤ i) (_ : i ≤ 109) (h : (pairSeg (U.gr (4#5).toNat) (U.gr ((4#5).toNat + 1))).getLsbD i = true) :
    (U.seg (7#3).toNat).getLsbD i = true := by
  rw [show pairSeg (U.gr (4#5).toNat) (U.gr ((4#5).toNat + 1)) = 0 by decide +kernel] at h
  simp at h

theorem test_meets_ThreadFormsChangeTheirThread :
    (∃ r, threadRow (S U) U .nop = some r ∧ r.cond ∧ Ready (S U) U r.names) ∧
    (∃ r, threadRow (S U) U (.idem 1) = some r ∧ r.cond ∧ Ready (S U) U r.names) ∧
    (∃ r, threadRow (S U) U (.wrctl 0 1) = some r ∧ r.cond ∧ Ready (S U) U r.names) ∧
    (∃ r, threadRow (S U) U (.rdseg 30 7) = some r ∧ r.cond ∧ Ready (S U) U r.names) ∧
    (∃ r, threadRow (S U) U (.wrseg 4 7) = some r ∧ r.cond ∧ Ready (S U) U r.names) ∧
    (∃ r, threadRow (S (withG [(4, 0x1FDF)])) (withG [(4, 0x1FDF)]) (.mshape 15 4) = some r ∧ r.cond ∧
      Ready (S (withG [(4, 0x1FDF)])) (withG [(4, 0x1FDF)]) r.names) ∧
    (∃ r, threadRow (S U) U (.wres 31 0) = some r ∧ r.cond ∧ Ready (S U) U r.names) ∧
    (∃ r, threadRow (S U) U .cfence = some r ∧ r.cond ∧ Ready (S U) U r.names) ∧
    (∃ r, threadRow (S U) U .fenceSys = some r ∧ r.cond ∧ Ready (S U) U r.names) ∧
    (∃ r, threadRow (S answered) answered (.leave 1 2) = some r ∧ r.cond ∧ Ready (S answered) answered r.names) ∧ Ready (S U) U {} :=
  ⟨⟨_, rfl, trivial, ready (by decide +kernel)⟩, ⟨_, rfl, by decide +kernel, ready (by decide +kernel)⟩,
   ⟨_, rfl, by decide +kernel, ready (by decide +kernel)⟩, ⟨_, rfl, trivial, ready (by decide +kernel)⟩,
   ⟨_, rfl, Or.inr ⟨by decide +kernel, by decide +kernel, no_rights⟩,
     ready (by decide +kernel)⟩,
   ⟨_, rfl, by decide +kernel, ready (by decide +kernel)⟩, ⟨_, rfl, trivial, ready (by decide +kernel)⟩,
   ⟨_, rfl, Or.inr (by decide +kernel), ready (by decide +kernel)⟩, ⟨_, rfl, by decide +kernel, ready (by decide +kernel)⟩,
   ⟨_, rfl, by decide +kernel, ready (by decide +kernel)⟩, ready (by decide +kernel)⟩

/-- Core 0 with a set tag and a copy error. -/
def tagged (t : Thread) : State :=
  { base with cores := [(0, { Core.reset with slots := [(2, t)], tagr := 2 ^ 63, errQ := [0x101] })] }
def masked : Thread := withG [(4, 2 ^ 63), (5, 0x40)]

theorem test_meets_CoreFormsChangeTheirCore :
    (∃ r, coreRow (S U) U (.wrctl 8 1) = some r ∧ r.cond ∧ Ready (S U) U r.names) ∧
    (∃ r, coreRow (S U) U (.wrctl 15 1) = some r ∧ r.cond ∧ Ready (S U) U r.names) ∧
    (∃ r, coreRow (S U) U (.wres 7 3) = some r ∧ r.cond ∧ Ready (S U) U r.names) ∧
    (∃ r, coreRow (S U) U .ifence = some r ∧ r.cond ∧ Ready (S U) U r.names) ∧
    (∃ r, coreRow (S U) U (.tagclr 1) = some r ∧ r.cond ∧ Ready (S U) U r.names) ∧
    (∃ r, coreRow (tagged masked) masked (.tagff 1 4) = some r ∧ r.cond ∧ Ready (tagged masked) masked r.names) ∧
    (∃ r, coreRow (S masked) masked (.setvec 5 6) = some r ∧ r.cond ∧ Ready (S masked) masked r.names) ∧
    ∃ r, coreRow (tagged masked) masked (.epop 1 0) = some r ∧ r.cond ∧ Ready (tagged masked) masked r.names :=
  ⟨⟨_, rfl, by decide +kernel, ready (by decide +kernel)⟩, ⟨_, rfl, by decide +kernel, ready (by decide +kernel)⟩,
   ⟨_, rfl, by decide +kernel, ready (by decide +kernel)⟩, ⟨_, rfl, by decide +kernel, ready (by decide +kernel)⟩,
   ⟨_, rfl, by decide +kernel, ready (by decide +kernel)⟩, ⟨_, rfl, by decide +kernel, ready (by decide +kernel)⟩,
   ⟨_, rfl, by decide +kernel, ready (by decide +kernel)⟩, ⟨_, rfl, by decide +kernel, ready (by decide +kernel)⟩⟩

theorem test_meets_TrapsStopAndReport : Ready (S U) U {} ∧ Ready (onCore 33023 15 U) U {} := ⟨ready (by decide +kernel), ready (by decide +kernel)⟩

/-- A thread with eight general registers, of which `g1` is empty. -/
def small : Thread := { U with gregs := 8, gEmpty := 2 }
/-- The same, parked, once `g1` is full and while WRES has left `g7` empty. -/
def lately : Thread := { small with avail := .parked, gEmpty := 2 ^ 7 }

theorem test_meets_OperandTrapsAndParks :
    (∃ r, aluRow small.gr (.add 8 2 3) = some r ∧ (S small).mine = some small ∧ small.holds { gR := r.src, gW := [r.d] } = false) ∧
    (∃ r, aluRow small.gr (.add 7 1 3) = some r ∧ (S small).mine = some small ∧ small.holds { gR := r.src, gW := [r.d] } = true ∧
      small.avail ≠ .parked ∧ ∃ n ∈ r.src, n ≠ 0 ∧ small.gEmpty.getLsbD n = true) ∧
    (∃ r, aluRow lately.gr (.add 7 1 3) = some r ∧ (S lately).mine = some lately ∧ lately.holds { gR := r.src, gW := [r.d] } = true ∧
      lately.avail = .parked ∧ r.d ≠ 0 ∧ lately.gEmpty.getLsbD r.d = true) ∧
    Ready (S U) U { gR := [31] } ∧ isChan (onCore 32768 2 U).cur.core = true ∧ Ready (onCore 32768 2 U) U { gR := [31] } ∧
    Ready (onCore 32768 2 U) U { gW := [31] } :=
  ⟨⟨_, rfl, by decide +kernel⟩, ⟨_, rfl, by decide +kernel⟩, ⟨_, rfl, by decide +kernel⟩, ready (by decide +kernel), by decide +kernel,
   ready (by decide +kernel), ready (by decide +kernel)⟩

/-- Every line of these bytes has had its turn for the hardware's own access `key`. -/
def allHad (key : Errand) (c p : Nat) (need : Need) (bs : List (Nat × Nat)) (s : State) : State :=
  { s with net := { s.net with tickets := (s.linesOf c p need bs).map fun l =>
      { id := 0, key := key, part := p, core := c, slot := 0, port := none, home := l.1, loc := l.2, asked := 0, st := .done } } }

/-- Page 0 of partition 0 is in the first cluster's buffer, and a kernel header lies at its start. -/
def kernelAt (t : Thread) : State :=
  { S t with
    clusters := [(0, { Cluster.reset with
      tlb := [{ part := 0, epoch := 0, va := 0, leaf := 0x243, leafAt := 0, expiry := 1000, hot := 0 }] })]
    auxs := [(0, { PartAux.reset with ptroot := 1 })]
    mem := [(0, 0x96), (1, 0x0D), (2, 0x81), (8, 0x40)] }
def entering : Thread := withG [(4, 0x40), (5, 1)]
def headerHad (t : Thread) : State := allHad (.header 0 2) 0 0 .read [(0, 32)] (kernelAt t)

/-- Page 0 lies in module 1, to which `t` has a read of `n` bytes for the errand `key` under way. -/
def overByand (t : Thread) : State :=
  { kernelAt t with
    clusters := [(0, { Cluster.reset with
      tlb := [{ part := 0, epoch := 0, va := 0, leaf := 0x243 + 2 ^ 42, leafAt := 0, expiry := 1000, hot := 0 }] })]
    auxs := [(0, { PartAux.reset with ptroot := 1, bypart := 2 ^ 16 })]
    by_ := { Byand.reset with set := true } }
def farRead (key : Errand) (slot n : Nat) (st : PieceSt) (failed : Option (Status × Nat)) : Access :=
  { id := 1, core := 0, slot := slot, tid := 5, part := 0, kind := .load, marked := false, nform := false, op := none,
    pieces := [{ da := 0, n := n, off := 0, st := st }], buf := [(0, 0x96), (1, 0x0D), (2, 0x81), (8, 0x40)], cont := .errand key, pc := 0,
    word := 0, held := none, failed := failed, rights := none }
def reading (a : Access) (s : State) : State := { s with net := { s.net with accs := [a] } }

/-- The header of the thread's page is here, and has had its turn. -/
theorem header_here (t : Thread) (h : (headerHad t).unperformed t.tid = false ∧ (headerHad t).farOf (.header 0 2) 0 = none ∧
      (headerHad t).served (.header 0 2) 0 t.part .read [(0, 32)] = true ∧
      (headerHad t).readLE ((headerHad t).keyOf t.part) 0 32 = 0x400000000000810D96) (hp : t.part = 0) :
    HeaderAt (headerHad t) t 0 0x400000000000810D96 { home := .hbm 0, loc := 0, dest := 0, expiry := some 1000 } :=
  ⟨h.1, h.2.1, h.2.2.1, rfl, fun u hu => by rw [hp, hu]; with_unfolding_all rfl, ⟨Home.noConfusion, fun _ => Home.noConfusion⟩, rfl, h.2.2.2⟩

theorem test_meets_CoreFormsChangeTheirCore_setvec :
    Ready (kernelAt entering) entering { gR := [4, 5] } ∧ Ready (headerHad entering) entering { gR := [4, 5] } ∧
    (∃ w x, HeaderAt (headerHad entering) entering (entryHdr (entering.gr 5)) w x ∧ hdrForm w = true ∧ hdrRegs w = true) ∧
    (kernelAt entering).unperformed entering.tid = false ∧ (kernelAt entering).farOf (.header 0 2) (entryHdr (entering.gr 5)) = none ∧
    (kernelAt entering).isFar 0 0 (entryHdr (entering.gr 5)) 32 = false ∧
    (kernelAt entering).served (.header 0 2) 0 0 .read [(entryHdr (entering.gr 5), 32)] = false ∧
    isChan (kernelAt entering).cur.core = false ∧ tableType 0x40 = true ∧ (entering.gr 4).toNat % 256 = 0x40 ∧
    (entering.gr 5).toNat < 2 ^ 52 ∧ (entering.gr 5).getLsbD 4 = false ∧ (entering.gr 5).getLsbD 0 = true ∧ entryHdr (entering.gr 5) < 2 ^ 48 :=
  ⟨ready (by decide +kernel), ready (by decide +kernel),
   ⟨_, _, header_here entering (by decide +kernel) rfl, by decide +kernel⟩, by decide +kernel⟩

/-- A header of another module: not asked for, on its way, here, and lost. -/
theorem test_meets_CoreFormsChangeTheirCore_far :
    let s := overByand entering
    let key := Errand.header 0 2
    let here := reading (farRead key 2 32 .done none) s
    (Ready s entering { gR := [4, 5] } ∧ HeaderRead here entering 0 0x400000000000810D96 (here.dropFar key)) ∧
    (s.unperformed entering.tid = false ∧ s.farOf key 0 = none ∧ s.isFar 0 0 0 32 = true) ∧
    (let a := farRead key 2 32 .sent none
     (reading a s).farOf key 0 = some a ∧ a.back = false) ∧
    (let a := farRead key 2 32 .done (some (.bylost, 0))
     (reading a s).farOf key 0 = some a ∧ a.back = true ∧ a.failed = some (.bylost, 0)) :=
  ⟨⟨ready (by decide +kernel), .inr ⟨farRead (.header 0 2) 2 32 .done none, by decide +kernel, rfl, rfl, by decide +kernel, rfl⟩⟩,
   by decide +kernel⟩

/-- A system thread in slot 0 beside a trapped one in slot 15, which `g2` names. -/
def supervisor : Thread := { U with mode := true, g := [(2, 15 + 16 * 9)] }
def stoppedThread (halt : Bool) : Thread := { U with tid := 9, avail := .trapped 8 halt }
def besideTrapped (t : Thread) (halt : Bool) : State :=
  { base with cores := [(0, { Core.reset with slots := [(0, t), (15, stoppedThread halt)] })], cur := { base.cur with slot := 0 } }

theorem test_meets_EretResumesTrappedThreads :
    (Ready (S U) U { gR := [2], gW := [1] } ∧ ∀ halt ∈ [false, true], Ready (besideTrapped supervisor halt) supervisor { gR := [2], gW := [1] }) ∧
    U.mode = false ∧ supervisor.mode = true ∧ (supervisor.gr 2).toNat % 16 = 15 ∧
    ∀ halt ∈ [false, true], (besideTrapped supervisor halt).thread 0 15 = some (stoppedThread halt) ∧ (stoppedThread halt).avail = .trapped 8 halt ∧
      (stoppedThread halt).tid.toNat % 2 ^ 43 = (supervisor.gr 2).toNat / 16 := by
  refine ⟨⟨ready ?_, fun halt h => ready ?_⟩, ?_⟩
  · decide +kernel
  · revert halt; decide +kernel
  · decide +kernel



/-- `n` operations already wait in the queue of core 0. -/
def someOp : VmuOp :=
  { id := 0, core := 0, slot := 2, tid := 5, part := 0, ins := .vadd 3 1 2 2, a := 0, b := 0, va := 0, vb := 0, vd := 0, md := [], fm := [],
    sc := [], ref := none, chain := none, done := 0, ends := 0 }
def queued (t : Thread) (n : Nat) : State :=
  { base with cores := [(0, { Core.reset with slots := [(2, t)], disp := List.replicate n someOp })] }

theorem test_meets_VectorOperationsAreDispatched :
    (∃ r, vectorRow U (.vfma 15 0 15 1) = some r ∧ r.cond ∧ Ready (queued U 7) U r.names ∧ ((queued U 7).core 0).disp.length < 8) ∧
    (∃ r, vectorRow U (.vcvt 15 0 31 1) = some r ∧ r.cond ∧ Ready (queued U 7) U r.names) ∧
    (∃ r, vectorRow U (.dl2 0 15 14 0) = some r ∧ r.cond ∧ Ready (queued U 8) U r.names ∧ 8 ≤ ((queued U 8).core 0).disp.length) :=
  ⟨⟨_, rfl, trivial, ready (by decide +kernel), by decide +kernel⟩, ⟨_, rfl, by decide +kernel, ready (by decide +kernel)⟩,
   ⟨_, rfl, trivial, ready (by decide +kernel), by decide +kernel⟩⟩

/-- A thread whose tiles 1-3 are one row of one FP32 element, and tile 4 two rows of 64 bytes. -/
def shaped : Thread := { U with md := [(1, 0xC0), (2, 0xC0), (3, 0xC0), (4, 0xFC1)] }

theorem test_meets_TileOperationsAreDispatched :
    (∃ r, tileRow (S shaped) shaped (.mzero 15) = some r ∧ r.cond ∧ Ready (S shaped) shaped r.names) ∧
    (∃ r, tileRow (S shaped) shaped (.mrowv 15 4 0) = some r ∧ r.cond ∧ Ready (S shaped) shaped r.names) ∧
    (∃ r, tileRow (S shaped) shaped (.mvrow 4 0 0) = some r ∧ r.cond ∧ Ready (S shaped) shaped r.names) ∧
    (∃ r, tileRow (S shaped) shaped (.mcvt 1 2) = some r ∧ r.cond ∧ Ready (S shaped) shaped r.names) ∧
    (∃ r, tileRow (S shaped) shaped (.mew 1 2 3 0) = some r ∧ r.cond ∧ Ready (S shaped) shaped r.names) ∧
    (∃ r, tileRow (S shaped) shaped (.mred 1 4 31 0) = some r ∧ r.cond ∧ Ready (S shaped) shaped r.names) ∧
    (∃ r, tileRow (S shaped) shaped (.hamt 1 4 15) = some r ∧ r.cond ∧ Ready (S shaped) shaped r.names) ∧
    ((S shaped).core 0).disp.length < 8 :=
  ⟨⟨_, rfl, by decide +kernel, ready (by decide +kernel)⟩,
   ⟨_, rfl, ⟨by decide +kernel, by decide +kernel, by decide +kernel, by decide +kernel, by decide +kernel⟩, ready (by decide +kernel)⟩,
   ⟨_, rfl, ⟨by decide +kernel, by decide +kernel, by decide +kernel, by decide +kernel, by decide +kernel⟩, ready (by decide +kernel)⟩,
   ⟨_, rfl, by decide +kernel, ready (by decide +kernel)⟩,
   ⟨_, rfl, ⟨by decide +kernel, by unfold Alike; decide +kernel⟩, ready (by decide +kernel)⟩,
   ⟨_, rfl, by decide +kernel, ready (by decide +kernel)⟩,
   ⟨_, rfl, by decide +kernel, ready (by decide +kernel)⟩, by decide +kernel⟩

/-- The same thread with a chain open on tile 1, and with leave for an MMA form. -/
def chained : Thread := { shaped with chain := some { tile := 1, rows := 1, cols := 1, acc := [.fin false 0 0], leave := 7 } }
def leaved : Thread := { shaped with asking := .granted 7 }
/-- A thread whose `sg1` gives every right over 64 KiB of space 0x1. -/
def wide : Thread := { shaped with sg := [(1, BitVec.ofNat 128 (2 ^ 48 + 2 ^ 80 + 2 ^ 104 + 2 ^ 105 + 2 ^ 107 + 2 ^ 108 + 2 ^ 109))] }

def leavedTile : Thread := { shaped with asking := .granted 7 }

theorem test_meets_MatrixAndTransferDispatch : ((S shaped).core 0).disp.length < 8 ∧
    (Ready (S leavedTile) leavedTile { mR := [1] } ∧ leavedTile.chain = none ∧ leavedTile.matD (S leavedTile) 1 = true ∧
      leavedTile.asking = .granted 7) ∧
    (Ready (S chained) chained { mW := [1] } ∧ ∃ c, chained.chain = some c ∧ c.tile = 1) ∧
    (chained.mmaOk (S chained) false 1 2 3 = true ∧ Ready (S chained) chained { mR := [2, 3], mN := [1] }) ∧
    (leaved.mmaOk (S leaved) true 1 2 3 = true ∧ leaved.chain = none ∧ leaved.asking = .granted 7 ∧
      Ready (S leaved) leaved { mR := [1, 2, 3], mW := [1] }) ∧
    ((S wide).window wide.tid < 8 ∧ (∃ r, transferRow (S wide) wide (.mld 1 4 5 1) = some r ∧ r.cond ∧ Ready (S wide) wide r.names) ∧
      (∃ r, transferRow (S wide) wide (.mldt 1 4 5 1) = some r ∧ r.cond ∧ Ready (S wide) wide r.names) ∧
      ∃ r, transferRow (S wide) wide (.mst 1 4 5 1) = some r ∧ r.cond ∧ Ready (S wide) wide r.names) :=
  ⟨by decide +kernel, ⟨ready (by decide +kernel), rfl, by decide +kernel, rfl⟩, ⟨ready (by decide +kernel), _, rfl, rfl⟩,
   ⟨by decide +kernel, ready (by decide +kernel)⟩, ⟨by decide +kernel, rfl, rfl, ready (by decide +kernel)⟩, by decide +kernel,
   ⟨_, rfl, ⟨by decide +kernel, by decide +kernel, by decide +kernel⟩, ready (by decide +kernel)⟩,
   ⟨_, rfl, ⟨by decide +kernel, by decide +kernel, by decide +kernel⟩, ready (by decide +kernel)⟩,
   ⟨_, rfl, ⟨by decide +kernel, by decide +kernel⟩, ready (by decide +kernel)⟩⟩

/-- Quad 0 is about to write the result of `o`. -/
def unitBusy (t : Thread) (o : VmuOp) : State :=
  { S t with vmus := [(0, { Vmu.reset with running := [o] })], env := { Env.none with unit := 0 }, md := { Mod.reset with cyc := 200 } }
def opOf (i : Instr) : VmuOp := { someOp with ins := i, va := 1, vb := BitVec.allOnes 512, md := shaped.md }

theorem running {s : State} {q : Nat} {o : VmuOp} {rest : List VmuOp} {t : Thread}
    (h : (decide (s.env.unit = q ∧ q < 8192) && decide ((s.vmu q).running = o :: rest) && decide (s.thread o.core o.slot = some t)
      && decide (t.tid = o.tid) && decide (o.ready ≤ s.now)) = true) : Running s q o rest t := by
  simp only [Bool.and_eq_true, decide_eq_true_eq] at h
  exact ⟨h.1.1.1.1, h.1.1.1.2, h.1.1.2, h.1.2, h.2⟩

theorem test_meets_IntegerLanesAreWritten : ∀ i ∈ [Instr.vadd 15 0 1 2, .vadd 15 0 1 3, .vadd 15 0 1 4, .vfma 15 0 1 1, .vcmp 15 0 1 4,
      .vscan 15 0 4, .topki 15 0 1, .vext 0 1 31 4, .mrowv 15 4 0, .mzero 1, .mew 1 2 3 0], Running (unitBusy shaped (opOf i)) 0 (opOf i) [] shaped := by
  intro i hi
  simp only [List.mem_cons, List.not_mem_nil, or_false] at hi
  rcases hi with rfl | rfl | rfl | rfl | rfl | rfl | rfl | rfl | rfl | rfl | rfl <;> exact running (by decide +kernel)
theorem test_meets_IntegerLanesAreWritten_rows : (∃ x, intLaneRow 32 (opOf (.vadd 15 0 1 2)).ins = some x) ∧
    (∃ x, intLaneRow 16 (opOf (.vadd 15 0 1 3)).ins = some x) ∧ (∃ x, intLaneRow 8 (opOf (.vadd 15 0 1 4)).ins = some x) ∧
    (∃ x, floatLaneRow (opOf (.vfma 15 0 1 1)).ins = some x) ∧ (∃ x, otherLaneRow (opOf (.vcmp 15 0 1 4)) = some x) ∧
    (∃ x, topRow (opOf (.topki 15 0 1)) = some x) ∧ (∃ x, generalRow (opOf (.vext 0 1 31 4)) = some x) ∧
    (∃ d v n, tileResult (opOf (.mrowv 15 4 0)) shaped = some (.v, d, v, n)) ∧ (∃ d v n, tileResult (opOf (.mzero 1)) shaped = some (.m, d, v, n)) ∧
    (∃ f, elementRow (opOf (.mew 1 2 3 0)) shaped = some (1, f)) ∧ PlainTile ((opOf (.mew 1 2 3 0)).md_ 1) :=
  by refine ⟨?_, ?_, ?_, ?_, ?_, ?_, ?_, ⟨_, _, _, rfl⟩, ⟨_, _, _, rfl⟩, ⟨_, rfl⟩, by unfold PlainTile; decide +kernel⟩ <;> exact ⟨_, rfl⟩

/-- The end of a chain, its opening, and an MMA form in it and outside one. -/
def cheOp : VmuOp := { opOf (.che 1) with chain := chained.chain }
def chbOp : VmuOp := { opOf (.chb 1) with ref := some 7 }

theorem test_meets_IntegerLanesAreWritten_chain : Running (unitBusy shaped cheOp) 0 cheOp [] shaped ∧
    Running (unitBusy chained chbOp) 0 chbOp [] chained ∧ Running (unitBusy chained (opOf (.mma 1 2 3))) 0 (opOf (.mma 1 2 3)) [] chained ∧
    Running (unitBusy shaped (opOf (.mmat 1 2 3))) 0 (opOf (.mmat 1 2 3)) [] shaped ∧
    (∃ c, cheOp.chain = some c ∧ chained.chain = some c ∧ chbOp.ref = some c.leave ∧ PlainTile (cheOp.md_ 1) ∧ shFmt (cheOp.md_ 1) = 0 ∧
      c.cols = cheOp.elems 1 ∧ c.acc.length = cheOp.rows 1 * c.cols) ∧
    (∃ d a b z tr, mmaForm (opOf (.mmat 1 2 3)).ins = some (d, a, b, z, tr)) ∧ shaped.chain = none :=
  by
  refine ⟨running ?_, running ?_, running ?_, running ?_, ?_, ⟨_, _, _, _, _, rfl⟩, rfl⟩
  iterate 4 · decide +kernel
  exact ⟨{ tile := 1, rows := 1, cols := 1, acc := [.fin false 0 0], leave := 7 }, rfl, rfl, rfl, by unfold PlainTile; decide +kernel, by decide +kernel⟩

/-- A multiply of full FP32 tiles in a chain: 128 cycles, in two parts (R343). -/
def longOp : VmuOp := { someOp with ins := .mma 1 2 3, md := [(1, 0x1FDF), (2, 0x1FDF), (3, 0x1FDF)] }

theorem test_meets_UnitStartsTheHeadOfAQueue : let s := queued U 2
    s.env.unit = 0 ∧ (s.vmu 0).freeAt ≤ s.now ∧ (s.vmu 0).running = [] ∧ (s.core 0).disp = [someOp, someOp] ∧
    (∀ j < 4, 4 * 0 + j ≠ 0 → (s.core (4 * 0 + j)).disp = []) ∧ someOp.ref = none ∧
    startCycles someOp - someOp.done = 1 ∧ longOp.ref = none ∧ startCycles longOp - longOp.done = 128 ∧
    startCycles longOp - ({ longOp with done := 64 } : VmuOp).done = 64 := by decide +kernel

/-- Partition 0's module in full service, and a thread with an 8-bit integer format in `fm1` besides the rights of `wide`. -/
def narrowT : Thread := { wide with fm := [(1, 0x18)] }
def full (t : Thread) : State := { S t with md := { Mod.reset with full := true } }

theorem test_meets_LoadsIssue :
    (∃ r, loadRow (S wide) wide (.ldd 31 4 1 1 0x1FF) = some r ∧ Ready (S wide) wide r.names ∧ Quiet (S wide) wide ∧
      (S wide).loadMoves wide r.da = none ∧ Reaches (S wide) wide r .read (fun x => .read x.n)) ∧
    (∃ r, loadRow (S wide) wide (.ldbz 0 4 1 0 0) = some r ∧ Ready (S wide) wide r.names ∧ Quiet (S wide) wide ∧
      (S wide).loadMoves wide r.da = none ∧ Reaches (S wide) wide r .read (fun x => .read x.n)) ∧
    (∃ r, loadRow (S wide) wide (.vld 15 4 1 1 1) = some r ∧ Ready (S wide) wide r.names ∧ Quiet (S wide) wide ∧
      (S wide).loadMoves wide r.da = none ∧ Reaches (S wide) wide r .read (fun x => .read x.n)) ∧
    ∃ r, loadRow (full narrowT) narrowT (.ldn 15 4 1 0 1 0) = some r ∧ Ready (full narrowT) narrowT r.names ∧ Quiet (full narrowT) narrowT ∧
      (full narrowT).loadMoves narrowT r.da = none ∧ Reaches (full narrowT) narrowT r .read (fun x => .read x.n) :=
  ⟨⟨_, rfl, ready (by decide +kernel), by unfold Quiet; decide +kernel, by decide +kernel, by decide +kernel, by decide +kernel, by decide +kernel,
      fun x hx => List.mem_singleton.mp hx ▸ ⟨rfl, _, fun u hu => by rw [hu]; rfl⟩⟩,
   ⟨_, rfl, ready (by decide +kernel), by unfold Quiet; decide +kernel, by decide +kernel, by decide +kernel, by decide +kernel, by decide +kernel,
      fun x hx => List.mem_singleton.mp hx ▸ ⟨rfl, _, fun u hu => by rw [hu]; rfl⟩⟩,
   ⟨_, rfl, ready (by decide +kernel), by unfold Quiet; decide +kernel, by decide +kernel, by decide +kernel, by decide +kernel, by decide +kernel,
      fun x hx => List.mem_singleton.mp hx ▸ ⟨rfl, _, fun u hu => by rw [hu]; rfl⟩⟩,
   ⟨_, rfl, ready (by decide +kernel), by unfold Quiet; decide +kernel, by decide +kernel, by decide +kernel, by decide +kernel, by decide +kernel,
      fun x hx => List.mem_singleton.mp hx ▸ ⟨rfl, _, fun u hu => by rw [hu]; rfl⟩⟩⟩

/-- A thread whose `sg1` gives every right over 64 KiB from the start of space `n`, or from the status word of the module in space 0xE. -/
def inSpace (n : Nat) (sys : Bool) : Thread :=
  { shaped with
    mode := sys
    sg := [(1, BitVec.ofNat 128 (n * 2 ^ 48 + (if sys then 0x100 else 0) + 2 ^ 80 + 2 ^ 104 + 2 ^ 105 + 2 ^ 107 + 2 ^ 108 + 2 ^ 109))] }

theorem test_meets_LoadsIssue_own :
    (∃ r dst, loadRow (S (inSpace 5 false)) (inSpace 5 false) (.ldd 31 4 1 1 0) = some r ∧ Ready (S (inSpace 5 false)) (inSpace 5 false) r.names ∧
      Quiet (S (inSpace 5 false)) (inSpace 5 false) ∧ (S (inSpace 5 false)).loadMoves (inSpace 5 false) r.da = none ∧ r.da / 2 ^ 48 = 5 ∧
      loadDst r.cont = some dst) ∧
    (∃ r dst, loadRow (S (inSpace 3 false)) (inSpace 3 false) (.vld 15 4 1 0 0) = some r ∧ Ready (S (inSpace 3 false)) (inSpace 3 false) r.names ∧
      Quiet (S (inSpace 3 false)) (inSpace 3 false) ∧ (S (inSpace 3 false)).loadMoves (inSpace 3 false) r.da = none ∧ r.da / 2 ^ 48 = 3 ∧
      loadDst r.cont = some dst) ∧
    ∃ r d n sg, loadRow (S (inSpace 14 true)) (inSpace 14 true) (.ldd 31 4 1 0 0) = some r ∧ Ready (S (inSpace 14 true)) (inSpace 14 true) r.names ∧
      Quiet (S (inSpace 14 true)) (inSpace 14 true) ∧ (S (inSpace 14 true)).loadMoves (inSpace 14 true) r.da = none ∧ r.da / 2 ^ 48 = 14 ∧
      r.cont = .gen d n sg :=
  ⟨⟨_, _, rfl, ready (by decide +kernel), by unfold Quiet; decide +kernel, by decide +kernel, by decide +kernel, rfl⟩,
   ⟨_, _, rfl, ready (by decide +kernel), by unfold Quiet; decide +kernel, by decide +kernel, by decide +kernel, rfl⟩,
   ⟨_, _, _, _, rfl, ready (by decide +kernel), by unfold Quiet; decide +kernel, by decide +kernel, by decide +kernel, rfl⟩⟩

theorem test_meets_StoresIssue :
    (∃ r n v, storeRow (S wide) wide (.std 31 4 1 1 0x1FF) = some (r, n, v) ∧ Ready (S wide) wide r.names ∧ Quiet (S wide) wide ∧
      ∀ w, Reaches (S wide) wide r .write (fun x => .write x.n w)) ∧
    (∃ r n v, storeRow (S wide) wide (.vst 15 4 1 0 1) = some (r, n, v) ∧ Ready (S wide) wide r.names ∧ Quiet (S wide) wide ∧
      ∀ w, Reaches (S wide) wide r .write (fun x => .write x.n w)) ∧
    ∃ r n v, storeRow (full narrowT) narrowT (.stn 15 4 1 1 1 0) = some (r, n, v) ∧ Ready (full narrowT) narrowT r.names ∧
      Quiet (full narrowT) narrowT ∧ ∀ w, Reaches (full narrowT) narrowT r .write (fun x => .write x.n w) :=
  ⟨⟨_, _, _, rfl, ready (by decide +kernel), by unfold Quiet; decide +kernel, fun w => ⟨by decide +kernel, by decide +kernel, by decide +kernel,
      fun x hx => List.mem_singleton.mp hx ▸ ⟨rfl, _, fun u hu => by rw [hu]; rfl⟩⟩⟩,
   ⟨_, _, _, rfl, ready (by decide +kernel), by unfold Quiet; decide +kernel, fun w => ⟨by decide +kernel, by decide +kernel, by decide +kernel,
      fun x hx => List.mem_singleton.mp hx ▸ ⟨rfl, _, fun u hu => by rw [hu]; rfl⟩⟩⟩,
   ⟨_, _, _, rfl, ready (by decide +kernel), by unfold Quiet; decide +kernel, fun w => ⟨by decide +kernel, by decide +kernel, by decide +kernel,
      fun x hx => List.mem_singleton.mp hx ▸ ⟨rfl, _, fun u hu => by rw [hu]; rfl⟩⟩⟩⟩

/-- The Col of core 0's tower maps the pair of partition 0 and layer 0, where it does, and its queue holds `n` writes. -/
def colAt (entry : Bool) (n : Nat) : State :=
  let t := inSpace 3 false
  let w : ColWrite := { id := 0, part := 0, layer := 0, tid := 9, off := 0, n := 8, val := 0, kerf := 0 }
  { full t with towers := [(0, { (Tower.reset.setQueue 0 (List.replicate n w)) with kmap := if entry then [(0, 1)] else [] })] }

theorem test_meets_StoresIssue_own :
    (∃ r n v, storeRow (S (inSpace 5 false)) (inSpace 5 false) (.std 31 4 1 0 0) = some (r, n, v) ∧
      Ready (S (inSpace 5 false)) (inSpace 5 false) r.names ∧ Quiet (S (inSpace 5 false)) (inSpace 5 false) ∧ r.da / 2 ^ 48 = 5 ∧
      (S (inSpace 5 false)).nearOpen 0 (S (inSpace 5 false)).fresh = true ∧ ((S (inSpace 5 false)).core 0).near.length + r.pieces.length ≤ 8) ∧
    (∃ r n v, storeRow (S (inSpace 14 true)) (inSpace 14 true) (.std 31 4 1 0 0) = some (r, n, v) ∧
      Ready (S (inSpace 14 true)) (inSpace 14 true) r.names ∧ Quiet (S (inSpace 14 true)) (inSpace 14 true) ∧ r.da / 2 ^ 48 = 14) :=
  ⟨⟨_, _, _, rfl, ready (by decide +kernel), by unfold Quiet; decide +kernel, by decide +kernel, by decide +kernel, by decide +kernel⟩,
   ⟨_, _, _, rfl, ready (by decide +kernel), by unfold Quiet; decide +kernel, by decide +kernel⟩⟩

theorem test_meets_StoresIssue_col : ∀ x ∈ [(false, 0), (true, 15), (true, 16)], let s := colAt x.1 x.2
    let t := inSpace 3 false
    ∃ r n v, storeRow s t (.std 31 4 1 0 0) = some (r, n, v) ∧ Ready s t r.names ∧ Quiet s t ∧ r.da / 2 ^ 48 = 3 ∧ (s.tower 0).waiting = [] ∧
      mapHolds (s.tower 0).kmap (colPair 0 0) = x.1 ∧ ((s.tower 0).queue (colPair 0 0)).length = x.2 := by
  intro x hx
  simp only [List.mem_cons, List.not_mem_nil, or_false] at hx
  rcases hx with rfl | rfl | rfl <;>
    exact ⟨_, _, _, rfl, ready (by decide +kernel), by unfold Quiet; decide +kernel, by decide +kernel, by decide +kernel, by decide +kernel,
      by decide +kernel⟩

/-- Write `id` of a thread waits for the pair's queue. -/
def waitsFor (tid : Word) (ok : Bool) : ColWait :=
  { core := 0, slot := 2, since := 0, ok := ok, w := { id := 1, part := 0, layer := 0, tid := tid, off := 0, n := 8, val := 0, kerf := 0 } }
/-- The thread's own write waits, with an entry kept for it or none; or another thread's waits (tid 9). -/
theorem test_meets_StoresIssue_waiting : ∀ w ∈ [waitsFor 5 true, waitsFor 5 false, waitsFor 9 false],
    let s : State := { colAt true 15 with towers := [(0, { (colAt true 15).tower 0 with waiting := [w] })] }
    let t := inSpace 3 false
    ∃ r n v, storeRow s t (.std 31 4 1 0 0) = some (r, n, v) ∧ Ready s t r.names ∧ Quiet s t ∧ r.da / 2 ^ 48 = 3 ∧
      mapHolds (s.tower 0).kmap (colPair 0 0) = true ∧ 8 * w.w.part + w.w.layer = colPair 0 0 ∧
      (s.tower 0).waiting.find? (fun x => x.w.tid == t.tid) = if w.w.tid = 5 then some w else none := by
  intro w hw
  simp only [List.mem_cons, List.not_mem_nil, or_false] at hw
  rcases hw with rfl | rfl | rfl <;>
    exact ⟨_, _, _, rfl, ready (by decide +kernel), by unfold Quiet; decide +kernel, by decide +kernel, by decide +kernel, by decide +kernel,
      by decide +kernel⟩

/-- A narrow format with a block scale. -/
def scaledT : Thread := { narrowT with sc := [(1, BitVec.ofNat 64 (2 ^ 48))] }

theorem test_meets_StoresIssue_scaled : ∃ r da f b, scaledRow (full scaledT) scaledT (.stn 15 4 1 1 1 0) = some (r, da, f, b) ∧
    Ready (full scaledT) scaledT r.names ∧ Quiet (full scaledT) scaledT ∧ Reaches (full scaledT) scaledT r .read (fun x => .read x.n) ∧
    ∀ x ∈ linePieces 3 da (2 * (Fmt.ofWord f).width) 0, x.isLocal = true ∨
      ∀ w, ∃ y, Hits (full scaledT) 0 0 .write (.write x.n w) x.da y :=
  ⟨_, _, _, _, rfl, ready (by decide +kernel), by unfold Quiet; decide +kernel,
   ⟨by decide +kernel, by decide +kernel, by decide +kernel, fun x hx => List.mem_singleton.mp hx ▸ ⟨rfl, _, fun u hu => by rw [hu]; rfl⟩⟩,
   fun x hx => Or.inr fun w => List.mem_singleton.mp hx ▸ ⟨_, fun u hu => by rw [hu]; rfl⟩⟩

theorem test_meets_AtomicsIssue :
    (∃ r op, atomicRow (S wide) wide (.acas 31 4 0 1 1) = some (r, op) ∧ Ready (S wide) wide r.names ∧ Quiet (S wide) wide ∧
      Reaches (S wide) wide r .rwa (fun _ => op)) ∧
    (∃ r op, atomicRow (S wide) wide (.aswap 0 4 31 0 1) = some (r, op) ∧ Ready (S wide) wide r.names ∧ Quiet (S wide) wide ∧
      Reaches (S wide) wide r .rwa (fun _ => op)) ∧
    ∃ r op, atomicRow (S wide) wide (.aaddf 1 4 2 1) = some (r, op) ∧ Ready (S wide) wide r.names ∧ Quiet (S wide) wide ∧
      Reaches (S wide) wide r .rwa (fun _ => op) :=
  ⟨⟨_, _, rfl, ready (by decide +kernel), by unfold Quiet; decide +kernel, by decide +kernel, by decide +kernel, by decide +kernel,
      fun x hx => List.mem_singleton.mp hx ▸ ⟨rfl, _, fun u hu => by rw [hu]; rfl⟩⟩,
   ⟨_, _, rfl, ready (by decide +kernel), by unfold Quiet; decide +kernel, by decide +kernel, by decide +kernel, by decide +kernel,
      fun x hx => List.mem_singleton.mp hx ▸ ⟨rfl, _, fun u hu => by rw [hu]; rfl⟩⟩,
   ⟨_, _, rfl, ready (by decide +kernel), by unfold Quiet; decide +kernel, by decide +kernel, by decide +kernel, by decide +kernel,
      fun x hx => List.mem_singleton.mp hx ▸ ⟨rfl, _, fun u hu => by rw [hu]; rfl⟩⟩⟩

/-- A thread without vector registers and tiles. -/
def light : Thread := { wide with vregs := 0, tiles := 0 }

/-- A migrating one: its load from core 0's scratchpad moves it, once nothing is due to it. -/
def roaming (due : Bool) : Thread := { light with migrate := true, gDue := if due then 2 else 0 }
theorem test_meets_LoadsIssue_move : ∀ b ∈ [true, false], let s := onCore 1 2 (roaming b)
    ∃ r, loadRow s (roaming b) (.ldd 31 4 1 1 0) = some r ∧ Ready s (roaming b) r.names ∧ Quiet s (roaming b) ∧
      s.loadMoves (roaming b) r.da = some 0 ∧ (roaming b).due = b := by
  intro b hb
  simp only [List.mem_cons, List.not_mem_nil, or_false] at hb
  rcases hb with rfl | rfl <;>
    exact ⟨_, rfl, ready (by decide +kernel), by unfold Quiet; decide +kernel, by decide +kernel, by decide +kernel⟩

theorem test_meets_ReservedFormsIssueAtTheirHome :
    (∃ da x, Quiet (S wide) wide ∧ Ready (S wide) wide { gR := [4], gW := [31] } ∧ (S wide).checkAccess wide 0 1 (wide.gr 4) 8 8 .lr .lrsc = .ok da ∧
      da / 2 ^ 48 ≠ 3 ∧ da / 2 ^ 48 ≠ 5 ∧ Hits (S wide) 0 0 .lr (.lr 8) da x ∧ homeCore x.loc = some 0) ∧
    (∃ da x, Quiet (onCore 1 2 light) light ∧ Ready (onCore 1 2 light) light { gR := [4, 5], gW := [31] } ∧
      (onCore 1 2 light).checkAccess light 1 1 (light.gr 4) 4 4 .sc .lrsc = .ok da ∧ da / 2 ^ 48 ≠ 3 ∧ da / 2 ^ 48 ≠ 5 ∧
      Hits (onCore 1 2 light) 1 0 .sc (.sc 4 (light.gr 5)) da x ∧ homeCore x.loc = some 0 ∧ light.vregs = 0 ∧ light.tiles = 0 ∧
      light.due = false) :=
  ⟨⟨_, _, by unfold Quiet; decide +kernel, ready (by decide +kernel), rfl, by decide +kernel, by decide +kernel, fun u hu => by rw [hu]; rfl,
      by decide +kernel⟩,
   ⟨_, _, by unfold Quiet; decide +kernel, ready (by decide +kernel), rfl, by decide +kernel, by decide +kernel, fun u hu => by rw [hu]; rfl,
      by decide +kernel, rfl, rfl, by decide +kernel⟩⟩

theorem test_meets_RemoteUpdatesRetireAtOnce :
    ∃ da x, Ready (S wide) wide { gR := [4, 31] } ∧ Quiet (S wide) wide ∧ (S wide).checkAccess wide 0 1 (wide.gr 4) 4 4 .amo .nform = .ok da ∧
      da / 2 ^ 48 ≠ 3 ∧ da / 2 ^ 48 ≠ 5 ∧ Hits (S wide) 0 0 .rwa (.upd .fadd 4 (wide.gr 31)) da x ∧ homeCore x.loc = some 0 :=
  ⟨_, _, ready (by decide +kernel), by unfold Quiet; decide +kernel, rfl, by decide +kernel, by decide +kernel, fun u hu => by rw [hu]; rfl,
    by decide +kernel⟩

/-- An operation waits at the scratchpad of core 0, at its word 1. -/
def atHome (op : MemOp) : Header :=
  { id := 9, part := 0, op := op, loc := spadLoc 0 8, home := .spad 0, dest := 0, expiry := none, uncmb := false, mems := [], extra := 0,
    src := .cluster }
/-- The thread that asked for it stands in slot 2 of core 0. -/
def homeState (op : MemOp) (t : Thread) : State :=
  { S t with
    net := { Net.reset with
             homeQ := [atHome op]
             reqs := [{ id := 9, acc := 1, piece := 0, part := 0, cluster := 0, slice := .spad 0, core := 0, slot := 2, asked := 0 }] }
    env := { Env.none with home := .spad 0, sub := 1 } }

theorem performable {s : State} {h : Header} (hn : (decide (s.nextAt s.env.home = some h) && decide (h.src = .cluster) && isSpad h.loc
    && decide (s.env.home = .spad 0) && !h.expired s && !s.refreshing s.env.home && !s.env.bad && s.homeLive s.env.home) = true) :
    Performable s h := by
  simp only [Bool.and_eq_true, decide_eq_true_eq, Bool.not_eq_true'] at hn
  obtain ⟨⟨⟨⟨⟨⟨⟨h1, h2⟩, h3⟩, h4⟩, h5⟩, h6⟩, h7⟩, h8⟩ := hn
  exact ⟨h1, h2, Or.inr (Or.inl h3), fun q hq => Home.noConfusion (h4.symm.trans hq), fun hq => Home.noConfusion (h4.symm.trans hq), h5, h6,
    h7, h8⟩

theorem test_meets_HomesPerformInOrder : ∀ op ∈ [MemOp.read 64, .write 1 0xFF, .amo .swap 8 5, .cas 4 0 5, .fadd 1],
    Performable (homeState op U) (atHome op) := by
  intro op h
  simp only [List.mem_cons, List.not_mem_nil, or_false] at h
  rcases h with rfl | rfl | rfl | rfl | rfl <;> exact performable (by decide +kernel)
/-- Two writes of one scratchpad, the later at word `k`; the event is for the bank of that word. -/
def laterAt (k : Nat) : Header := { atHome (.write 8 2) with id := 10, loc := spadLoc 0 (8 * k) }
def twoAtHome (k : Nat) : State :=
  { base with net := { Net.reset with homeQ := [atHome (.write 64 1), laterAt k] }, env := { Env.none with home := .spad 0, sub := k % 384 } }
theorem test_meets_HomesPerformInOrder_banks : ∀ e ∈ [(9, true), (384, true), (8, false), (385, false)], let s := twoAtHome e.1
    s.net.homeQ = [atHome (.write 64 1), laterAt e.1] ∧ s.env.sub ∈ (laterAt e.1).banks ∧ (atHome (.write 64 1)).part = (laterAt e.1).part ∧
      atHome (.write 64 1) ≠ laterAt e.1 ∧
      if e.2 then ∀ x ∈ (laterAt e.1).banks, x ∉ (atHome (.write 64 1)).banks else ∃ x ∈ (laterAt e.1).banks, x ∈ (atHome (.write 64 1)).banks := by
  decide +kernel
/-- R203: words 385 and 1 lie in one bank, word 9 in another. -/
theorem test_banks : (twoAtHome 9).nextAt (.spad 0) = some (laterAt 9) ∧ (twoAtHome 385).nextAt (.spad 0) = some (atHome (.write 64 1)) := by decide +kernel
/-- A thread that holds a reservation on word 1 of its scratchpad: the byte written is the word's last. -/
def reserving : Thread := { U with resv := some (spadLoc 0 8, 0) }
theorem test_meets_HomesPerformInOrder_reserved : ∀ x ∈ [(MemOp.lr 8, U), (.sc 8 5, reserving), (.sc 4 5, U)],
    Performable (homeState x.1 x.2) (atHome x.1) ∧ (homeState x.1 x.2).requester 9 = some (0, 2) ∧
      (homeState x.1 x.2).thread 0 2 = some x.2 := by
  intro x h
  simp only [List.mem_cons, List.not_mem_nil, or_false] at h
  rcases h with rfl | rfl | rfl <;> exact ⟨performable (by decide +kernel), by decide +kernel⟩

theorem test_meets_WritesClearReservations :
    homeCore (spadLoc 0 15) = some 0 ∧ [(0 : Byte)] ≠ [] ∧ (S reserving).thread 0 2 = some reserving ∧
    reserving.resv = some (spadLoc 0 8, 0) ∧ spadLoc 0 8 < spadLoc 0 15 + [(0 : Byte)].length ∧ spadLoc 0 15 < spadLoc 0 8 + 8 := by
  decide +kernel

/-- The thread waits for an unmarked access, whose last reply has come beside another thread's. -/
def waiting : Thread := { U with avail := .memory }
def loading (k : Cont) (n off : Nat) : Access :=
  { id := 1, core := 0, slot := 2, tid := 5, part := 0, kind := .load, marked := false, nform := false, op := none,
    pieces := [{ da := 2 ^ 48, n := n, off := off, st := .performed }], buf := [], cont := k, pc := 0, word := 0, held := none,
    failed := none, rights := none }
def otherLoad : Access := { loading (.vec 0) 64 0 with id := 2, tid := 6 }
def requestOf (id acc : Nat) : Req :=
  { id := id, acc := acc, piece := 0, part := 0, cluster := 0, slice := .spad 0, core := 0, slot := 2, asked := 0 }
def repliedState (a : Access) : State :=
  { S waiting with
    net := { Net.reset with
             accs := [otherLoad, a]
             reqs := [requestOf 8 2, requestOf 9 1]
             replies := [{ id := 8, status := .ok, val := 0 }, { id := 9, status := .ok, val := 0x80 }] },
    env := { Env.none with unit := 9 }
    rotor := { core := 2 ^ 16, tried := 0 } }

theorem replied {a : Access} {p : Piece} (h : a.id = 1 ∧ a.held = none ∧ a.failed = none ∧ a.nform = false ∧ a.core = 0 ∧ a.slot = 2 ∧ a.tid = 5)
    (hp : a.pieces[0]? = some p) (hn : p.n ≠ 0) (ht : (repliedState a).thread 0 2 = some waiting) :
    Replied (repliedState a) 9 (requestOf 9 1) { id := 9, status := .ok, val := 0x80 } a p waiting := by
  obtain ⟨h1, h2, h3, h4, h5, h6, h7⟩ := h
  refine ⟨rfl, ⟨rfl, h1.symm, ?_⟩, ⟨rfl, rfl⟩, ⟨?_, ?_, h2, h3, h4⟩, ⟨hp, hn⟩, ⟨?_, ?_, ?_⟩, ⟨by rw [h5, h6]; exact ht, by rw [h7]; rfl⟩⟩
  · intro q hq
    simp only [repliedState, List.mem_cons, List.not_mem_nil, or_false] at hq
    rcases hq with rfl | rfl <;> simp [requestOf]
  · simp [State.acc, repliedState, h1, otherLoad]
  · intro b hb
    simp only [repliedState, List.mem_cons, List.not_mem_nil, or_false] at hb
    rcases hb with rfl | rfl <;> simp [h1, otherLoad]
  all_goals intro x hx; exact absurd hx List.not_mem_nil

theorem test_meets_RepliesDeliverLoads :
    ∀ k ∈ [(Cont.gen 31 1 true, 1, 0), (.vec 15, 64, 0), (.ldn 15 0x18 none, 8, 0), (.stn (2 ^ 48) 0x18 (some 0) 0, 3, scaleAt)],
    ∃ r x p, Replied (repliedState (loading k.1 k.2.1 k.2.2)) 9 r x (loading k.1 k.2.1 k.2.2) p waiting ∧
      LastPiece r (loading k.1 k.2.1 k.2.2) ∧ p.n = k.2.1 ∧ p.off = k.2.2 ∧ (repliedState (loading k.1 k.2.1 k.2.2)).behind (loading k.1 k.2.1 k.2.2) = false ∧
      (repliedState (loading k.1 k.2.1 k.2.2)).eventsRun = true := by
  intro k h
  simp only [List.mem_cons, List.not_mem_nil, or_false] at h
  rcases h with rfl | rfl | rfl | rfl <;>
    exact ⟨_, _, _, replied ⟨rfl, rfl, rfl, rfl, rfl, rfl, rfl⟩ rfl (by decide) (by decide +kernel),
      fun i y hy hi => (match i, hi, hy with
        | 0, hi, _ => absurd rfl hi
        | _ + 1, _, hy => by simp [loading] at hy), rfl, rfl, by decide +kernel, rfl⟩
/-- Another piece of the access has still to come. -/
def halfLoad : Access :=
  { loading (.ldn 15 0x18 (some 0)) 8 0 with
    pieces := [{ da := 2 ^ 48, n := 8, off := 0, st := .performed }, { da := 2 ^ 48 + 64, n := 3, off := scaleAt, st := .sent }] }
theorem test_meets_RepliesDeliverLoads_half : ∃ r x p, Replied (repliedState halfLoad) 9 r x halfLoad p waiting ∧ halfLoad.stores = false ∧
    (∃ i y, halfLoad.pieces[i]? = some y ∧ i ≠ r.piece ∧ y.st ≠ .done) ∧ ∀ y ∈ halfLoad.pieces, y.st ≠ .todo :=
  ⟨_, _, _, replied ⟨rfl, rfl, rfl, rfl, rfl, rfl, rfl⟩ rfl (by decide) (by decide +kernel), rfl, ⟨1, _, rfl, by decide, by decide⟩, by decide⟩
theorem test_meets_RepliesDeliverLoads_scale : 0 < (Fmt.ofWord 0x18).width ∧
    ∀ y ∈ linePieces 3 (2 ^ 48) (2 * (Fmt.ofWord 0x18).width) 0, y.isLocal = false ∧
      ∀ w, ∃ z, Hits (repliedState (loading (.stn (2 ^ 48) 0x18 (some 0) 0) 3 scaleAt)) 0 0 .write (.write y.n w) y.da z :=
  ⟨by decide +kernel, fun x hx => List.mem_singleton.mp hx ▸ ⟨rfl, fun w => ⟨_, fun u hu => by rw [hu]; rfl⟩⟩⟩

/-- A marked load whose last reply has failed, and a tile store of which a piece waits at its home. -/
def failing (k : Cont) (ps : List Piece) : State :=
  let r : Req := { requestOf 10 1 with piece := 1 }
  let h : Header := { id := 10, part := 0, op := .write 8 1, loc := 64, home := .hbm 0, dest := 0, expiry := none, uncmb := true, mems := [10],
                      extra := 0, src := .cluster }
  { repliedState { loading k 8 0 with marked := true, pieces := ps } with
    net := { Net.reset with
      accs := [otherLoad, { loading k 8 0 with marked := true, pieces := ps }]
      reqs := [requestOf 9 1] ++ (if ps.length = 2 then [r] else [])
      homeQ := [h]
      replies := [{ id := 9, status := .bylost, val := 0 }] } }

theorem fails {k : Cont} {ps : List Piece} {p : Piece} (hp : ps[0]? = some p) (hn : p.n ≠ 0) :
    ReplyFails (failing k ps) 9 (requestOf 9 1) { id := 9, status := .bylost, val := 0 } { loading k 8 0 with marked := true, pieces := ps } p
      waiting := by
  refine ⟨rfl, ⟨rfl, rfl, ?_⟩, ⟨rfl, by decide⟩, ⟨rfl, ?_, rfl, rfl, rfl, rfl⟩, ⟨hp, hn⟩, ⟨?_, ?_, ?_⟩, ⟨?_, rfl⟩⟩
  · intro q hq
    simp only [failing, List.cons_append, List.nil_append, List.mem_cons] at hq
    rcases hq with rfl | hq
    · simp
    · split at hq <;> simp at hq
      subst hq; simp [requestOf]
  · intro b hb
    simp only [failing, List.mem_cons, List.not_mem_nil, or_false] at hb
    rcases hb with rfl | rfl <;> simp [otherLoad, loading]
  · exact fun _ h => absurd h List.not_mem_nil
  · exact fun _ h => absurd h List.not_mem_nil
  · exact fun _ h => absurd h List.not_mem_nil
  · rfl

def failedPiece : Piece := { da := 2 ^ 48, n := 8, off := 0, st := .performed }
def unsentPiece : Piece := { da := 2 ^ 48 + 64, n := 8, off := 8, st := .sent }

theorem test_meets_RepliesDeliverLoads_failure :
    (∀ k ∈ [Cont.gen 31 8 false, .vec 15], ∃ r x a p, ReplyFails (failing k [failedPiece]) 9 r x a p waiting ∧ a.cont = k ∧ a.pieces = [failedPiece] ∧ r.piece = 0) ∧
    (∃ r x a p, ReplyFails (failing .mst [failedPiece, unsentPiece]) 9 r x a p waiting ∧ a.cont = .mst ∧ a.pieces = [failedPiece, unsentPiece] ∧ r.piece = 0) ∧
    (∃ q ∈ (failing .mst [failedPiece, unsentPiece]).net.reqs, q.acc = 1 ∧ q.piece = 1) ∧ (failing .mst [failedPiece, unsentPiece]).by_.out = [] :=
  ⟨fun _ _ => ⟨_, _, _, _, fails rfl (by decide), rfl, rfl, rfl⟩, ⟨_, _, _, _, fails rfl (by decide), rfl, rfl, rfl⟩, by decide +kernel, rfl⟩

/-- Of the failed tile store, the piece that waits at its home is not written. -/
theorem test_failed_tile_store_is_recalled :
    (match exec .accessReply (failing .mst [failedPiece, unsentPiece]) with
    | .next s => decide ((s.net.homeQ, s.net.reqs, (s.acc 1).isNone, (s.thread 0 2).map (·.reports.length)) = ([], [], true, some 1))
    | _ => false) = true := by decide +kernel

/-- A descriptor of two general and one vector register, a core address, and a FILL descriptor. -/
def sender : Thread := withG [(4, 1023), (5, 0xF2240), (6, 0x31), (7, 0x47 + 31 * 2 ^ 48)]

theorem test_meets_SendAndFillSendMessages :
    (∃ u v addr body target away, messageRow sender (.send 30 4 5) = some (true, u, v, addr, body) ∧ Ready (S sender) sender u ∧
      sender.blocked v = false ∧ (S sender).msgTarget 0 addr = .ok (target, away) ∧
      Fresh (S sender)) ∧
    (∃ u v addr body target away, messageRow sender (.fill 0 4 7 0) = some (true, u, v, addr, body) ∧ Ready (S sender) sender u ∧
      sender.blocked v = false ∧ (S sender).msgTarget 0 addr = .ok (target, away) ∧
      Fresh (S sender)) ∧
    (∃ u v addr body, messageRow sender (.send 31 4 5) = some (false, u, v, addr, body) ∧ Ready (S sender) sender u) ∧
    (S sender).eventsRun = false :=
  ⟨⟨_, _, _, _, _, _, rfl, ready (by decide +kernel), by decide +kernel, rfl, by unfold Fresh; decide +kernel⟩,
   ⟨_, _, _, _, _, _, rfl, ready (by decide +kernel), by decide +kernel, rfl, by unfold Fresh; decide +kernel⟩,
   ⟨_, _, _, _, rfl, ready (by decide +kernel)⟩, by decide +kernel⟩

/-- A thread without vector registers whose `g4` names channel core 255 and whose `g5` names core 0. -/
def mover : Thread := { light with g := [(4, 0x80FF), (5, 0)] }
/-- Core 0 knows of a neighbour with two threads fewer. -/
def crowded : State := { base with cores := [(0, { Core.reset with slots := [(2, mover)], loadq := 2 + 2 ^ 40 })] }

theorem test_meets_GoAndLoadqCarryTheThread :
    (Ready (S U) U { gR := [4] } ∧ (S U).goTarget 0 (U.gr 4) = some 0 ∧ U.vregs ≠ 0) ∧
    (Ready (S mover) mover { gR := [5] } ∧ (S mover).goTarget 0 (mover.gr 5) = some 0 ∧ mover.vregs = 0 ∧ mover.tiles = 0) ∧
    (Ready (S mover) mover { gR := [4] } ∧ (S mover).goTarget 0 (mover.gr 4) = some 33023 ∧ mover.due = false ∧ Quiet (S mover) mover) ∧
    (Ready crowded mover { gW := [31] } ∧ ¬Stays crowded mover) :=
  ⟨⟨ready (by decide +kernel), by decide +kernel, by decide +kernel⟩,
   ⟨ready (by decide +kernel), by decide +kernel, by decide +kernel, by decide +kernel⟩,
   ⟨ready (by decide +kernel), by decide +kernel, by decide +kernel, by unfold Quiet; decide +kernel⟩,
   ⟨ready (by decide +kernel), by unfold Stays; decide +kernel⟩⟩

theorem test_meets_SpawnStartsAChild :
    Ready (kernelAt U) U { gR := [4, 5], gW := [31] } ∧ Ready (headerHad U) U { gR := [4, 5], gW := [31] } ∧
    (∃ w x, HeaderAt (headerHad U) U (U.gr 4).toNat w x ∧ hdrForm w = true ∧ hdrRegs w = true ∧ (hdrOf w).supv = false) ∧
    (U.gr 4).toNat < 2 ^ 48 ∧ (U.gr 4).toNat % 32 = 0 ∧ (kernelAt U).unperformed U.tid = false ∧
    (kernelAt U).farOf (.header 0 2) (U.gr 4).toNat = none ∧ (kernelAt U).isFar 0 0 (U.gr 4).toNat 32 = false ∧
    (kernelAt U).served (.header 0 2) 0 0 .read [((U.gr 4).toNat, 32)] = false ∧
    ((headerHad U).life U.tid).ord < 15 ∧ ((headerHad U).life U.tid).path.toNat < 2 ^ 60 :=
  ⟨ready (by decide +kernel), ready (by decide +kernel), ⟨_, _, header_here U (by decide +kernel) rfl, by decide +kernel⟩, by decide +kernel⟩

theorem test_meets_SpawnStartsAChild_far :
    let here := reading (farRead (.header 0 2) 2 32 .done none) (overByand U)
    Ready here U { gR := [4, 5], gW := [31] } ∧ (U.gr 4).toNat = 0 ∧
      HeaderRead here U 0 0x400000000000810D96 (here.dropFar (.header 0 2)) :=
  ⟨ready (by decide +kernel), by decide +kernel,
    .inr ⟨farRead (.header 0 2) 2 32 .done none, by decide +kernel, rfl, rfl, by decide +kernel, rfl⟩⟩

/-- The thread's life beside its record. -/
def living (t : Thread) (l : Life) : State := { S t with lives := [(5, l)] }

theorem test_meets_JoinAndExitEndWaiting :
    Ready (S U) U {} ∧ ((S U).life U.tid).kids &&& U.gEmpty = 0 ∧ PushFree (S U) U ∧ U.due = false ∧
    (let t := { U with gEmpty := 2 ^ 31 }
     let s := living t { Life.reset with kids := 2 ^ 31 }
     Ready s t {} ∧ (s.life t.tid).kids &&& t.gEmpty ≠ 0) :=
  ⟨ready (by decide +kernel), by decide +kernel, ⟨by decide +kernel, by decide +kernel, by decide +kernel⟩, by decide +kernel,
   ready (by decide +kernel), by decide +kernel⟩

/-- A launch of one work unit, unit 0 of which is the thread, and group 255, of which unit 0 is the one member. -/
def oneUnit : Launch :=
  { id := 7, prio := 0, cdest := 0, mtype := 0, ncore := 0, count := 1, gang := 0, tag := 0, arg0 := 0, arg1 := 0, khdr := 0,
    hdr := { gregs := 8, vregs := 0, tiles := 0, migrate := false, supv := false, entry := 0 }, ctx := .reset, glist := [255], placed := 1,
    ended := [], bad := 0 }
def grouped : Thread := withG [(4, 255)]
def inGroup (bar : Option (Nat × Nat)) (x : PartAux) : State :=
  { living grouped { Life.reset with launch := some 7, unit := some 0, bar := bar } with
    parts := [(0, { Part.reset with base := 0, len := 1024, en := true, launches := [oneUnit], gtab := [(255, 3 + 2 ^ 52)] })],
    auxs := [(0, x)], env := { Env.none with unit := 0, sub := 7, third := 255 } }
def arrivedOnce (fuzzy : Option Nat) (phases : List (Nat × Nat × Nat)) : PartAux :=
  { PartAux.reset with members := [{ launch := 7, group := 255, unit := 0, made := 1, left := 1, fuzzy := fuzzy }], phases := phases }

/-- Slot 2 waits in a barrier of group 255, which its register names still; and one of a launch that has ended. -/
theorem test_meets_BarriersArriveAndRelease :
    Ready (inGroup none .reset) grouped { gR := [4] } ∧ Joins (inGroup none .reset) grouped oneUnit 255 0 ∧
    gtabFuzzy (((inGroup none .reset).part 0).group 255) = true ∧ (((inGroup none .reset).aux 0).member 7 255 0).fuzzy = none ∧
    ((inGroup none .reset).life grouped.tid).bar = none ∧
    (let s := inGroup none (arrivedOnce (some 0) [(7, 255, 1)])
     Ready s grouped { gR := [4] } ∧ s.launchOf grouped = some oneUnit ∧ s.memberUnit grouped oneUnit 255 = some 0 ∧
       (s.life grouped.tid).bar = none ∧ ((s.aux 0).member 7 255 0).fuzzy = some 0 ∧ 0 < (s.aux 0).releasedPhases 7 255) ∧
    (let s := inGroup none (arrivedOnce (some 1) [(7, 255, 1)])
     Ready s grouped { gR := [4] } ∧ ((s.aux 0).member 7 255 0).fuzzy = some 1 ∧ (s.aux 0).releasedPhases 7 255 ≤ 1) :=
  ⟨ready (by decide +kernel), ⟨by decide +kernel, by decide +kernel, by decide +kernel, by decide +kernel⟩, by decide +kernel,
   by decide +kernel, by decide +kernel, ⟨ready (by decide +kernel), by decide +kernel, by decide +kernel, by decide +kernel, by decide +kernel⟩,
   ⟨ready (by decide +kernel), by decide +kernel, by decide +kernel⟩⟩
theorem test_meets_BarriersArriveAndRelease_parked :
    (let s := inGroup (some (255, 0)) (arrivedOnce none [(7, 255, 1)])
     Ready s grouped { gR := [4] } ∧ s.launchOf grouped = some oneUnit ∧ (s.life grouped.tid).unit = some 0 ∧
       (s.life grouped.tid).bar = some (255, 0) ∧ 0 < (s.aux 0).releasedPhases 7 255) ∧
    (let s := inGroup (some (255, 1)) (arrivedOnce none [(7, 255, 1)])
     Ready s grouped { gR := [4] } ∧ s.launchOf grouped = some oneUnit ∧ (s.life grouped.tid).bar = some (255, 1) ∧
       (s.aux 0).releasedPhases 7 255 ≤ 1) ∧
    (let s := living grouped { Life.reset with launch := some 7, unit := some 0, bar := some (255, 0) }
     Ready s grouped { gR := [4] } ∧ s.launchOf grouped = none ∧ (s.life grouped.tid).bar = some (255, 0)) ∧
    (let s := living { grouped with tid := 6 } { Life.reset with bar := none }
     (s.life 6).bar = none) ∧
    (let s := inGroup none (arrivedOnce none [])
     s.env.unit = 0 ∧ s.env.third = 255 ∧ (s.part 0).launches.find? (·.id == s.env.sub) = some oneUnit ∧ oneUnit.glist.contains 255 = true ∧
       (s.aux 0).arrivals = [] ∧ ∀ w < oneUnit.count, gtabMember ((s.part 0).group 255) w = true → oneUnit.ended.contains w = false →
         (s.aux 0).releasedPhases 7 255 < ((s.aux 0).member 7 255 w).left) :=
  ⟨⟨ready (by decide +kernel), by decide +kernel, by decide +kernel, by decide +kernel, by decide +kernel⟩,
   ⟨ready (by decide +kernel), by decide +kernel, by decide +kernel, by decide +kernel⟩,
   ⟨ready (by decide +kernel), by decide +kernel, by decide +kernel⟩, by decide +kernel, by decide +kernel⟩

/-- A thread whose `v1` is the least copy command with tag 63, and whose `v2` is a governor request. -/
def pusher : Thread := { U with v := [(1, BitVec.ofNat 512 (63 + (8 + 2 ^ 16 + 2 ^ 32) * 2 ^ 192)), (2, 0x10001)] }
def enginesWait : State :=
  { S U with
    cores := [(0, { Core.reset with slots := [(2, U)], govQ := [1] })],
    parts := [(0, { Part.reset with base := 0, len := 1024, en := true, cq := [3] })] }

theorem test_meets_EngineQueuesTakeAndGive :
    (Ready (S pusher) pusher { vR := [1] } ∧ PushFree (S pusher) pusher ∧
      (let cmd : CopyCmd := { core := 0, part := 0, cmd := pusher.vr 1, ctx := { sg := pusher.sg, fm := pusher.fm, sc := pusher.sc }, own := false, void := false }
       cmd.ok (S pusher).md.full = true ∧ cmd.tag = 63 ∧ ((S pusher).core 0).busy.getLsbD cmd.tag = false ∧
         pusher.owesReg (cmd.ownReg pusher 2) = false ∧ ((S pusher).cluster (clusterOf 0)).fifo.length < 16)) ∧
    (((S pusher).part 0).lq.length + ((S pusher).part 0).lqIn.length < 64 ∧ ((S pusher).part 0).en = true ∧ ((S pusher).part 0).busy = false) ∧
    (Ready (S pusher) pusher { vR := [2] } ∧ (pusher.vr 2).toNat < 2 ^ 64 ∧ leaveOk ((pusher.vr 2).setWidth 64) = true ∧
      ((S pusher).core 0).govIn.length < 4) ∧
    Ready enginesWait U { gW := [31] } ∧ (enginesWait.part 0).cq = [] ++ [3] ∧ ([] : List Word).length = enginesWait.cqPlace 0 16 ∧ (enginesWait.core 0).govQ = [1] ∧ (enginesWait.core 0).govHeld = [] :=
  ⟨⟨ready (by decide +kernel), ⟨by decide +kernel, by decide +kernel, by decide +kernel⟩, by decide +kernel⟩, by decide +kernel,
   ⟨ready (by decide +kernel), by decide +kernel, by decide +kernel, by decide +kernel⟩, ready (by decide +kernel), by decide +kernel,
   by decide +kernel, by decide +kernel, by decide +kernel⟩

/-- A thread whose `sg2` covers page 0 of space 0x0, with a page table that maps it with the rights `hi`. -/
def paging : Thread := { wide with sg := wide.sg ++ [(2, BitVec.ofNat 128 (2 ^ 80 + 2 ^ 104))] }
def mapped (hi : Byte) : State :=
  { S paging with auxs := [(0, { PartAux.reset with ptroot := 0x2001 })],
                  mem := [(0x2000, 0x01), (0x2001, 0x80), (0x8000, 0x1F), (0x8001, hi)] }

/-- The reads of its walk of address 0 have had their turns. -/
def walkHad (hi : Byte) : State :=
  { mapped hi with net := { Net.reset with tickets := ((mapped hi).walkLines 0 0).map fun l =>
      { id := 0, key := .lease 0 2, part := 0, core := 0, slot := 2, port := none, home := l.1, loc := l.2, asked := 0, st := .done } } }

theorem test_meets_LeaseRenewsATranslation : Ready (mapped 0x02) paging { gR := [4] } ∧ Ready (walkHad 0x02) paging { gR := [4] } ∧
    (∃ da, segCheck (paging.seg 1) (paging.gr 4) 1 1 .lease = .ok da ∧ 2 ^ 48 ≤ da) ∧
    segCheck (paging.seg 2) (paging.gr 4) 1 1 .lease = .ok 0 ∧
    (∀ s ∈ [mapped 0x02, walkHad 0x02], s.unperformed paging.tid = false) ∧
    (mapped 0x02).turnsHad (.lease 0 2) ((mapped 0x02).walkLines 0 0) = false ∧
    ∀ hi ∈ [(0 : Byte), 0x02], (walkHad hi).turnsHad (.lease 0 2) ((walkHad hi).walkLines 0 0) = true ∧
      ∃ leaf x s1, ((((walkHad hi).dropTicket (.lease 0 2)).here Thread.noResv).forget 0 0 0).walk 0 0 = (.ok (leaf, x), s1) ∧
        (pteR leaf || pteW leaf) = decide (hi = 0x02) := by
  refine ⟨ready ?_, ready ?_, ⟨_, rfl, ?_⟩, rfl, ?_, ?_, fun hi h => ?_⟩
  iterate 5 · decide +kernel
  simp only [List.mem_cons, List.not_mem_nil, or_false] at h
  rcases h with rfl | rfl
  · exact ⟨by decide +kernel, 0x01F, _, _, rfl, by decide +kernel⟩
  · exact ⟨by decide +kernel, 0x21F, _, _, rfl, by decide +kernel⟩

theorem test_meets_EmissionSendsATransfer :
    Ready (S U) U { vR := [15] } ∧ ((S U).life U.tid).body = none ∧ ((S U).aux 0).run.strict = false ∧ MayEmit (S U) U (U.vr 15) ∧
    (let s := living U { Life.reset with body := some (127, 3, 15, 1) }
     Ready s U { vR := [15] } ∧ (s.life U.tid).body = some (127, 3, 15, 1) ∧ MayEmit s U (U.vr 15)) ∧
    Ready (S U) U { vR := [15], gR := [31] } ∧ (U.gr 31).toNat < 2 ^ 39 :=
  ⟨ready (by decide +kernel), by decide +kernel, by decide +kernel, by unfold MayEmit Fresh; decide +kernel,
   ⟨ready (by decide +kernel), by decide +kernel, by unfold MayEmit Fresh; decide +kernel⟩, ready (by decide +kernel), by decide +kernel⟩

/-- A thread with a selector of the last slice, a rule number, an RSTAT selector, a log word and a well-formed rule. -/
def reactor : Thread := { withG [(4, 0x7F1000), (5, 255), (6, 0x7F0006), (7, 0x7F)] with v := [(1, 0x4003)] }

def sliceLine (k : Nat) : List (Home × Nat) := [(.spad ((S U).sliceCore 0 k), spadLoc ((S U).sliceCore 0 k) 0)]
/-- The thread's access to slice `k` has had its turn. -/
def sliceHad (t : Thread) (k : Nat) : State :=
  { S t with net := { Net.reset with tickets := (sliceLine k).map fun l =>
      { id := 0, key := .slice 0 2, part := 0, core := 0, slot := 2, port := none, home := l.1, loc := l.2, asked := 0, st := .done } } }

theorem test_meets_ReactionFormsActAtTheirSlice_slice :
    Ready (sliceHad reactor 127) reactor { gR := [4, 6, 7, 0], gW := [31], vW := [15] } ∧
    (∀ i ∈ [Instr.tpeek 15 0 4, .tgrab 15 0 4, .rstat 31 6, .rlogm 7 0], ∀ s ∈ [S reactor, sliceHad reactor 127],
      (rxnRow s reactor i).map (·.slice) = some (some 127)) ∧
    (∀ i ∈ [Instr.rstat 31 0, .rulew 5 1, .rhalt, .rbudg 5, .stabq 31], ∀ s ∈ [S reactor, sliceHad reactor 0],
      (rxnRow s reactor i).map (·.slice) = some (some 0)) ∧
    (rxnRow { S reactor with parts := [] } reactor .rhalt).map (·.slice) = some none ∧
    ∀ k ∈ [0, 127], (S reactor).turnsHad (.slice 0 2) (sliceLine k) = false ∧ (sliceHad reactor k).turnsHad (.slice 0 2) (sliceLine k) = true ∧
      (sliceHad reactor k).unperformed reactor.tid = false :=
  ⟨ready (by decide +kernel), by decide +kernel⟩

theorem test_meets_ReactionFormsActAtTheirSlice : (S reactor).unperformed reactor.tid = false ∧
    (∃ r, rxnRow (S reactor) reactor (.tpeek 15 0 4) = some r ∧ r.cond ∧ Ready (S reactor) reactor r.names) ∧
    (∃ r, rxnRow (S reactor) reactor (.tgrab 15 0 4) = some r ∧ r.cond ∧ Ready (S reactor) reactor r.names) ∧
    (∃ r, rxnRow (S reactor) reactor (.rulew 5 1) = some r ∧ r.cond ∧ Ready (S reactor) reactor r.names) ∧
    (∃ r, rxnRow (S reactor) reactor .rhalt = some r ∧ r.cond ∧ Ready (S reactor) reactor r.names) ∧
    (∃ r, rxnRow (S reactor) reactor (.rstat 31 6) = some r ∧ r.cond ∧ Ready (S reactor) reactor r.names) ∧
    (∃ r, rxnRow (S reactor) reactor (.rbudg 5) = some r ∧ r.cond ∧ Ready (S reactor) reactor r.names) ∧
    (∃ r, rxnRow (S reactor) reactor (.rlogm 7 0) = some r ∧ r.cond ∧ Ready (S reactor) reactor r.names) ∧
    ∃ r, rxnRow (S reactor) reactor (.stabq 31) = some r ∧ r.cond ∧ Ready (S reactor) reactor r.names :=
  ⟨by decide +kernel, ⟨_, rfl, by decide +kernel, ready (by decide +kernel)⟩, ⟨_, rfl, by decide +kernel, ready (by decide +kernel)⟩,
   ⟨_, rfl, by decide +kernel, ready (by decide +kernel)⟩, ⟨_, rfl, by decide +kernel, ready (by decide +kernel)⟩,
   ⟨_, rfl, by decide +kernel, ready (by decide +kernel)⟩, ⟨_, rfl, by decide +kernel, ready (by decide +kernel)⟩,
   ⟨_, rfl, by decide +kernel, ready (by decide +kernel)⟩, ⟨_, rfl, trivial, ready (by decide +kernel)⟩⟩

/-- A run is active in partition 0. -/
def runIs (st : RunState) (l : Life) (t : Thread) : State :=
  { living t l with auxs := [(0, { PartAux.reset with run := { Run.reset with st := st, number := 4 } })] }
def runner : Thread := withG [(4, 0x300)]

theorem test_meets_RunsStartHaltAndReport_slice :
    (Ready (sliceHad runner 0) runner { gR := [5], gW := [31] } ∧ Ready (sliceHad runner 0) runner { gR := [4], gW := [31] } ∧
      Ready (sliceHad runner 0) runner {}) ∧
    (∀ s ∈ [S runner, sliceHad runner 0], runSlice s runner = some 0 ∧ s.unperformed runner.tid = false ∧ s.refuseRun 0 0 = 0 ∧ s.refuseRun 0 3 ≠ 0) ∧
    runSlice { S runner with parts := [] } runner = none :=
  ⟨⟨ready (by decide +kernel), ready (by decide +kernel), ready (by decide +kernel)⟩, by decide +kernel⟩

theorem test_meets_RunsStartHaltAndReport :
    (S runner).unperformed runner.tid = false ∧ Ready (S runner) runner { gR := [5], gW := [31] } ∧ (S runner).refuseRun 0 0 = 0 ∧
    Ready (S runner) runner { gR := [4], gW := [31] } ∧ (runner.gr 4).toNat < 2 ^ 10 ∧ (S runner).refuseRun 0 3 ≠ 0 ∧
    Ready (runIs .running .reset U) U {} ∧ ((runIs .running .reset U).aux 0).run.st = .running ∧
    Ready (runIs .stopped .reset U) U {} ∧ ((runIs .stopped .reset U).aux 0).run.st = .stopped ∧
    (let s := runIs .running { Life.reset with stab := some 9, inStabw := true } U
     Ready s U { gW := [31] } ∧ (s.life U.tid).stab = some 9 ∧ (s.life U.tid).inStabw = true) ∧
    Ready (runIs .stable .reset U) U { gW := [31] } ∧ ((runIs .stable .reset U).life U.tid).stab = none :=
  ⟨by decide +kernel, ready (by decide +kernel), by decide +kernel, ready (by decide +kernel), by decide +kernel, by decide +kernel,
   ready (by decide +kernel), by decide +kernel, ready (by decide +kernel), by decide +kernel, ⟨ready (by decide +kernel), by decide +kernel⟩,
   ready (by decide +kernel), by decide +kernel⟩

/-- A message with its permit has come to core 0 (or `c`), where the thread is. -/
def arrivingAt (c : Nat) (body : MsgBody) : Msg :=
  { id := 3, part := 0, from_ := none, src := none, via := some 0, slot := 0, permit := true, asked := 0, way := .come 1, frm := .core, target := c,
    away := none, rel := none, body := body, dom := 0, lost := false }
def messageAt (c : Nat) (body : MsgBody) (k : Core) : State :=
  { base with cores := [(c, k)], net := { Net.reset with msgs := [arrivingAt c body] }, env := { Env.none with unit := 3 }, fresh := 9 }
def holding (t : Thread) : Core := { Core.reset with slots := [(2, t)] }
/-- Core 0 has a handler for messages of type 0x40 and no other. -/
def handler : KHdr := { gregs := 8, vregs := 4, tiles := 0, migrate := false, supv := false, entry := 64 }
def handling : Core := { Core.reset with vec := [(0x40, 1)], vhdr := [(0x40, handler)] }
def droppedThread : Thread := { U with avail := .dropped 6 }

theorem test_meets_MessagesActAtTheirCore :
    (let s := messageAt 0 (.fill 15 0 .c 7 1) .reset
     s.arriving s.env.unit = some (arrivingAt 0 (.fill 15 0 .c 7 1)) ∧ Fresh s ∧ isChan 0 = false) ∧
    (let s := messageAt 0 (.fill 2 5 .g 31 1) (holding U)
     s.arriving s.env.unit = some (arrivingAt 0 (.fill 2 5 .g 31 1)) ∧ Fresh s ∧ s.net.spills = [] ∧ s.thread 0 2 = some U ∧ 31 < U.gregs) ∧
    (let s := messageAt 0 (.table 0x40 [1] [2]) handling
     s.arriving s.env.unit = some (arrivingAt 0 (.table 0x40 [1] [2])) ∧ Fresh s ∧ (s.core 0).entry 0x40 = some (1, handler) ∧
       [(1 : Word)].length + 1 ≤ handler.gAlloc ∧ [(2 : Vec)].length ≤ handler.vAlloc ∧ (s.core 0).room = true) ∧
    (let s := messageAt 0 (.table 0xFF [1] [2]) handling
     s.arriving s.env.unit = some (arrivingAt 0 (.table 0xFF [1] [2])) ∧ Fresh s ∧ (s.core 0).entry 0xFF = none) := by
  unfold Fresh
  decide +kernel

theorem test_meets_MessagesActAtTheirCore_rest :
    (let s := messageAt 33023 (.thread mover) .reset
     s.arriving s.env.unit = some (arrivingAt 33023 (.thread mover)) ∧ Fresh s ∧ s.takesThread 33023 mover = true) ∧
    (let s := messageAt 0 (.wake 6) (holding droppedThread)
     s.arriving s.env.unit = some (arrivingAt 0 (.wake 6)) ∧ Fresh s ∧ s.net.accs = [] ∧ s.droppedBy 6 = some (0, 2) ∧
       s.thread 0 2 = some droppedThread) ∧
    (let s := messageAt 0 (.update (spadLoc 0 8) .min 8 1 none 1) .reset
     s.arriving s.env.unit = some (arrivingAt 0 (.update (spadLoc 0 8) .min 8 1 none 1)) ∧ Fresh s ∧ isSpad (spadLoc 0 8) = true ∧
       s.env.bad = false) ∧
    (let s := { messageAt 32768 (.update 0 .add 4 1 (some 9) 1) .reset with env := { Env.none with unit := 3, bad := true } }
     s.arriving s.env.unit = some (arrivingAt 32768 (.update 0 .add 4 1 (some 9) 1)) ∧ Fresh s ∧ s.env.bad = true ∧ isHbm 0 = true ∧
       s.md.ltc.toNat < 9) ∧
    (let s := messageAt 32768 (.update 0 .add 4 1 (some 0) 1) .reset
     s.arriving s.env.unit = some (arrivingAt 32768 (.update 0 .add 4 1 (some 0) 1)) ∧ Fresh s ∧ 0 ≤ s.md.ltc.toNat ∧ s.acc 1 = none) ∧
    (let s := { messageAt 0 (.result 5 31 7) (holding U) with lives := [(5, { Life.reset with kids := 2 ^ 31 })] }
     s.arriving s.env.unit = some (arrivingAt 0 (.result 5 31 7)) ∧ Fresh s ∧ (Sparse.find? s.lives 5).isSome = true ∧ s.net.spills = [] ∧
       s.findThread 5 = some (0, 2) ∧ s.thread 0 2 = some U) ∧
    { base with env := { Env.none with unit := 63 } }.env.unit < 64 := by
  unfold Fresh
  refine ⟨?_, ?_, ?_, ?_, ?_, ?_, ?_⟩ <;> decide +kernel

/-- A copy command of core 32760 with tag 63 (to address, or register named by, `dst`): `rows` runs of `len` bytes from the start of segment 1. -/
def copyOf (rows len dst flags : Nat) : CopyCmd :=
  { core := 32760, part := 0, ctx := { Ctx.reset with sg := wide.sg }, own := false, void := false,
    cmd := BitVec.ofNat 512 (63 + 0x12000 + flags + dst * 2 ^ 128 + (len + rows * 2 ^ 16 + 2 ^ 32) * 2 ^ 192) }
/-- The command's run when its last piece is under way in stage `n`, and when every run has been considered. -/
def lastPiece (c : CopyCmd) (n : Nat) : CopyRun := { taken c with acc := some 4, stage := n }
def considered (c : CopyCmd) (failed : Option Nat) : CopyRun := { taken c with j := c.n1 * c.n2, k := c.n1 * c.n2, failed := failed }
def arrived : Access :=
  { id := 4, core := 32760, slot := 0, tid := 0, part := 0, kind := .copyRead, marked := false, nform := false, op := none,
    pieces := [{ da := 2 ^ 48, n := 64, off := 0, st := .done }], buf := [(63, 7)], cont := .copy 4095, pc := 0, word := 0, held := none,
    failed := none, rights := none }
def copying (f : List CopyCmd) (r : Option CopyRun) : State :=
  { onCore 32760 2 U with clusters := [(4095, { Cluster.reset with fifo := f, run := r })], net := { Net.reset with accs := [arrived] },
                          env := { Env.none with unit := 4095 }, fresh := 9 }
/-- `v15` of the thread in slot 2, with 64 bytes and with one byte too few or too many. -/
def toV15 : Nat := 2 + 5 * 16 + 15 * 2 ^ 48
def bigCopy : CopyCmd := copyOf 17 4096 0 0
def rowCopy : CopyCmd := copyOf 1 64 0 0
def delivery : CopyCmd := copyOf 1 64 toV15 0x40

theorem test_meets_CopyUnitTakesAndCompletes_start :
    (let s := copying [bigCopy] none
     s.env.unit = 4095 ∧ (s.cluster 4095).run = none ∧ (s.cluster 4095).fifo = [bigCopy] ∧ bigCopy.asksLeave = true) ∧
    (let s := copying [rowCopy] none
     (s.cluster 4095).fifo = [rowCopy] ∧ rowCopy.asksLeave = false ∧ 0 < rowCopy.n1 * rowCopy.n2 ∧
       (∀ a ∈ s.net.accs, a.id ≠ s.fresh ∧ (a.kind = .copyRead ∨ a.kind = .copyWrite ∨ a.tid ≠ BitVec.allOnes 64)) ∧
       ∃ ps, firstAccess s rowCopy = some (2, ps) ∧ ps ≠ [] ∧ ∀ x ∈ ps, x.isLocal = false ∧ Steady s 4095 rowCopy.part (.read x.n) x.da) := by
  refine ⟨by decide +kernel, by decide +kernel, by decide +kernel, by decide +kernel, by decide +kernel,
    [{ da := 2 ^ 48, n := 64, off := 0, st := .todo }], by decide +kernel, List.cons_ne_nil _ _, fun x hx => ?_⟩
  rw [List.mem_singleton.mp hx]
  exact ⟨rfl, _, fun u hu _ => ⟨by rw [State.renew, if_neg fun h => absurd h.1 (by decide)], by rw [hu]; with_unfolding_all rfl⟩⟩

/-- The thread's record is being read back. -/
def beingRead : Spill :=
  { tid := 5, part := 0, prio := 0, off := 0, core := 32760, slot := 2, phase := 2, t := U, ltc := 0, held := none, fills := [], seen := 0, buf := [] }

theorem test_meets_CopyUnitTakesAndCompletes_pieces :
    (let r := lastPiece rowCopy 3
     let s := copying [] (some r)
     (s.cluster 4095).run = some r ∧ r.failed = none ∧ r.acc = some arrived.id ∧ s.acc arrived.id = some arrived ∧ arrived.held = none ∧
       arrived.failed = none ∧ (∀ x ∈ arrived.pieces, x.st = .done) ∧ r.stage = 3) ∧
    (let r := lastPiece delivery 2
     let s := { copying [] (some r) with cores := [] }
     (s.cluster 4095).run = some r ∧ r.acc = some arrived.id ∧ s.acc arrived.id = some arrived ∧ r.stage = 2 ∧ delivery.deliv = true ∧
       s.delivThread delivery = none) ∧
    (let r := lastPiece delivery 2
     let s := copying [] (some r)
     (s.cluster 4095).run = some r ∧ s.acc arrived.id = some arrived ∧ delivery.void = false ∧ s.delivThread delivery = some U ∧ NotAway s delivery) ∧
    (let r := lastPiece delivery 2
     let s := { copying [] (some r) with net := { Net.reset with accs := [arrived], spills := [beingRead] } }
     (s.cluster 4095).run = some r ∧ s.acc arrived.id = some arrived ∧ delivery.void = false ∧ s.delivThread delivery = some U ∧
       s.net.spills.find? (fun x => x.core == delivery.core && x.slot == delivery.slot && x.phase != 1) = some beingRead ∧ beingRead.phase = 2) := by
  unfold NotAway
  decide +kernel

theorem test_meets_CopyUnitTakesAndCompletes_end :
    (let r := considered bigCopy (some 7)
     let s := copying [] (some r)
     (s.cluster 4095).run = some r ∧ r.acc = none ∧ r.failed = some 7 ∧ (s.core bigCopy.core).errQ.length < 8) ∧
    8 ≤ ({ copying [] (some (considered bigCopy (some 7))) with
            cores := [(32760, { Core.reset with errQ := List.replicate 8 0 })] }.core bigCopy.core).errQ.length ∧
    (let r := considered rowCopy none
     let s := copying [] (some r)
     (s.cluster 4095).run = some r ∧ r.acc = none ∧ r.failed = none ∧ rowCopy.n1 * rowCopy.n2 ≤ r.j ∧ rowCopy.deliv = false) ∧
    (∀ c ∈ [copyOf 1 64 toV15 0xC0, copyOf 2 64 toV15 0xC0], let r := considered c none
     let s := copying [] (some r)
     (s.cluster 4095).run = some r ∧ c.n1 * c.n2 ≤ r.j ∧ c.deliv = true ∧ c.filt = true ∧ c.void = false ∧ s.delivThread c = some U ∧ NotAway s c) ∧
    (considered (copyOf 1 64 toV15 0xC0) none).k * (copyOf 1 64 toV15 0xC0).dlen = 64 ∧
    (considered (copyOf 2 64 toV15 0xC0) none).k * (copyOf 2 64 toV15 0xC0).dlen ≠ 64 := by
  unfold NotAway
  decide +kernel

/-- A thread in its third restart of a region, with `g1` live in. -/
def lastRestart : Region := { rstart := 8, mask := 2, g := [(1, 7)], v := [] }
def restarted (n : Nat) (s : State) : State := { s with lives := [(5, { Life.reset with softs := n })] }
def protected_ : Thread := { U with region := some lastRestart }
def struck (t : Thread) (h : SoftHit) : State := { S t with env := { Env.none with unit := 0, hit := h } }
/-- A thread whose code lies at the start of page 0; it waits for its line, which has had its turn. -/
def fetcher : Thread := { U with avail := .memory, sg := [(0, BitVec.ofNat 128 (64 * 2 ^ 64 + 2 ^ 106))] }
def lineComes : State :=
  { kernelAt U with cores := [(0, { Core.reset with slots := [(15, fetcher)], fetching := [(15, 0)] })], env := { Env.none with unit := 0, sub := 15 } }
def lineHad : State := allHad (.line 0 15) 0 0 .read [(segBase (fetcher.seg 0), 64)] lineComes

theorem test_meets_SoftErrorsAndLineFills :
    (let s := struck U (.reg 2 .g 31)
     s.env.unit = 0 ∧ isCore 0 = true ∧ s.env.hit = .reg 2 .g 31 ∧ s.thread 0 2 = some U ∧ 31 < U.gregs ∧ U.avail ≠ .spilling ∧
       U.region = none ∧ U.chain = none) ∧
    (∀ n ∈ [2, 3], let s := restarted n (struck protected_ (.reg 2 .g 31))
     s.thread 0 2 = some protected_ ∧ protected_.avail ≠ .spilling ∧ protected_.region = some lastRestart ∧
       (s.life protected_.tid).softs = n) ∧
    (let s := struck U (.common 7)
     s.env.hit = .common 7 ∧ s.partOf 0 = some 0) ∧
    (lineComes.served (.line 0 15) 0 0 .read [(segBase (fetcher.seg 0) + 0, 64)] = false) ∧
    (lineHad.env.sub = 15 ∧ (segBase (fetcher.seg 0) + 0) / 2 ^ 48 = 0 ∧ Sparse.find? (lineHad.core 0).fetching 15 = some 0 ∧ lineHad.thread 0 15 = some fetcher ∧
      lineHad.env.bad = false ∧ lineHad.served (.line 0 15) 0 0 .read [(segBase (fetcher.seg 0) + 0, 64)] = true) ∧
    ∃ x, Hits lineHad 0 0 .read (.read 64) (segBase (fetcher.seg 0) + 0) x ∧ x.home ≠ .host ∧ ∀ q, x.home ≠ .egress q :=
  ⟨by decide +kernel, by decide +kernel, by decide +kernel, by decide +kernel, by decide +kernel,
   ⟨_, fun u hu => by rw [hu]; with_unfolding_all rfl, by decide +kernel, fun _ => Home.noConfusion⟩⟩

/-- A line of another module: not asked for, on its way, here, and lost. -/
theorem test_meets_SoftErrorsAndLineFills_far :
    let s : State := { overByand U with cores := lineComes.cores, env := lineComes.env }
    let key := Errand.line 0 15
    (s.thread 0 15 = some fetcher ∧ segBase (fetcher.seg 0) + 0 = 0 ∧ s.farOf key 0 = none ∧ s.isFar 0 0 0 64 = true) ∧
    (lineComes.farOf key 0 = none ∧ lineComes.isFar 0 0 0 64 = false ∧ lineHad.farOf key 0 = none) ∧
    (let a := farRead key 15 64 .sent none
     (reading a s).farOf key 0 = some a ∧ a.back = false) ∧
    (let a := farRead key 15 64 .done none
     (reading a s).farOf key 0 = some a ∧ a.back = true ∧ a.failed = none) ∧
    (let a := farRead key 15 64 .done (some (.bylost, 0))
     (reading a s).farOf key 0 = some a ∧ a.back = true ∧ a.failed = some (.bylost, 0)) := by
  decide +kernel

/-- A slice of partition 0 and its run. -/
def sliceIs (i : Nat) (r : RunState) (x : Slice) : State :=
  { S U with auxs := [(0, { PartAux.reset with run := { Run.reset with st := r, number := 1 }, rules := [(255, 0x4003)], slices := [(i, x)] })],
             env := { Env.none with unit := 0, sub := i } }
def comes (n : Nat) : Transfer := { word := 0, core := 0, slot := 2, tid := 5, req := 1, waited := n, at_ := 0 }

theorem test_meets_SlicesTakeTokens :
    (let s := sliceIs 4095 .running { Slice.reset with inbox := [comes 0] }
     s.env.unit = 0 ∧ s.env.sub = 4095 ∧ ((s.aux 0).slice 4095).inbox = [comes 0] ∧ ((s.aux 0).slice 4095).tokens.length < 4096 ∧
       s.thread (comes 0).core (comes 0).slot = some U ∧ U.tid = (comes 0).tid) ∧
    4096 ≤ ((sliceIs 0 .running { Slice.reset with tokens := List.replicate 4096 { word := 0, stamp := 0 } }).aux 0 |>.slice 0).tokens.length ∧
    (let s := sliceIs 0 .running { Slice.reset with inbox := [comes 65536] }
     comes 65536 ∈ ((s.aux 0).slice 0).inbox ∧ 65536 ≤ (comes 65536).waited ∧ (s.aux 0).run.st = .running) ∧
    ∀ t ∈ ((sliceIs 0 .running { Slice.reset with inbox := [comes 65535] }).aux 0 |>.slice 0).inbox, t.waited < 65536 := by
  decide +kernel

/-- One token of kind 0, which rule 255 takes; its firing waits, with a body for it on core 7 or on no core. -/
def oneToken : Slice := { Slice.reset with tokens := [{ word := 0, stamp := 1 }], rho := 255, due := true }
def fireWaits : Fire := { rule := 255, mtype := 0x40, prio := 0, run := 1, ordinal := 0, toks := [0], ctx := .reset }

theorem test_meets_PassesPickAndFire :
    (let s := sliceIs 0 .running oneToken
     s.env.unit = 0 ∧ s.env.sub = 0 ∧ s.mayPass 0 0 = true ∧ (s.aux 0).run.mode = 0 ∧ (s.aux 0).run.left = none ∧ s.validRules 0 = [255] ∧
       ((s.aux 0).slice 0).rho = 255 ∧ ((s.aux 0).slice 0).ordinal + 1 < 2 ^ 23 ∧ ((s.aux 0).slice 0).fire.length < 15 ∧
       firstGroup (s.rule 0 255) oneToken.tokens = some oneToken.tokens ∧
       firstGroup (s.rule 0 255) (oneToken.tokens.filter fun t => !oneToken.tokens.contains t) = none) ∧
    (let s := sliceIs 127 .running { oneToken with fire := [fireWaits] }
     ((s.aux 0).slice 127).fire = [fireWaits] ∧ 127 < s.sliceCount 0 ∧
       (((List.range 8).map (s.sliceCore 0 127 + ·)).filter fun c => ((s.core c).bodyEntry fireWaits.mtype).isSome) = [] ∧
       (s.aux 0).run.st = .running) ∧
    { Run.reset with st := .stopped, cause := 3, slice := 127 }.keepsHead 127 = true ∧
    (let s := { sliceIs 0 .running { oneToken with fire := [fireWaits] } with cores := [(7, handling)] }
     let able := ((List.range 8).map (s.sliceCore 0 0 + ·)).filter fun c => ((s.core c).bodyEntry fireWaits.mtype).isSome
     able ≠ [] ∧ s.lowestLoad (able.filter fun c => ((s.core c).bodyEntry fireWaits.mtype).any fun h => s.freeSlotOf c h.supv) = some 7 ∧
       (s.aux 0).run.keepsHead 0 = false ∧ Fresh s) := by
  unfold Fresh
  decide +kernel

/-- The last record of its log and the last group of its budget: the slice stops on log full, and the run stays RUNNING (R398); with a record
more it stops with cause 0 (R164). -/
def lastRecord (n : Nat) : State :=
  let r : Run := { Run.reset with st := .running, number := 1, mode := 1, left := some 1 }
  { kernelAt U with
    clusters := [(0, { Cluster.reset with
      tlb := [{ part := 0, epoch := 0, va := 0, leaf := 0x643, leafAt := 0, expiry := 1000, hot := 0 }] })]
    auxs := [(0, { PartAux.reset with
      ptroot := 1, run := r, rules := [(255, 0x4003)], slices := [(0, { oneToken with cur := some { base := 0x100, len := n, used := 0 } })] })] }
theorem test_log_full_keeps_the_run :
    (let a := ((lastRecord 1).pass 0 0).aux 0
     a.run.st = .running ∧ a.run.left = some 0 ∧ (a.slice 0).logStop = true ∧ (a.slice 0).ordinal = 1) ∧
    (let a := ((lastRecord 2).pass 0 0).aux 0
     a.run.st = .stopped ∧ a.run.cause = 0 ∧ (a.slice 0).logStop = false ∧ (a.slice 0).ordinal = 1) := by decide +kernel

/-- The log lies in module 1: its one record goes over Byand, and what comes back for it decides (R65, R172). -/
def farLog (got : Option (Status × Vec)) : State :=
  let s := { (lastRecord 1).modAux 0 (fun a => { a with bypart := 2 ^ 16 }) with
    clusters := [(0, { Cluster.reset with
      tlb := [{ part := 0, epoch := 0, va := 0, leaf := 0x643 + 2 ^ 42, leafAt := 0, expiry := 1000, hot := 0 }] })]
    by_ := { Byand.reset with set := true } }
  { s with net := { s.net with tickets := (s.logAways 0 0).map fun x =>
      { id := 0, key := .log 0 0, part := 0, core := 0, slot := 0, port := none, home := x.home, loc := x.loc, asked := 0, st := .done,
        op := x.op, dest := x.dest, got := got } } }
theorem test_far_log :
    ((farLog none).net.tickets.map fun k => (k.home, k.loc, k.dest, opBytes k.op)) = [(.egress 5, 0x100, 1, 32)] ∧
    ((((farLog (some (.ok, 0))).pass 0 0).aux 0).slice 0).ordinal = 1 ∧
    (let x := ((((farLog (some (.byrefuse, 0))).pass 0 0).aux 0).slice 0)
     x.ordinal = 0 ∧ x.logStop = true) := by decide +kernel

def waved (w p : Option Wave) : State :=
  { S U with auxs := [(63, { PartAux.reset with run := { Run.reset with st := .running, wave := w, prev := p } })],
             env := { Env.none with unit := 63 } }
def passive_ : Wave := { sent := 4, recv := 4, passive := true, quiet := false, waits := [] }

theorem test_meets_WavesDetectStability :
    (let s := waved none none
     s.env.unit = 63 ∧ (s.aux 63).run.st = .running ∧ (s.aux 63).run.wave = none ∧ (s.aux 63).run.waveDue ≤ s.now ∧
       (s.aux 63).run.mode ≠ 2) ∧
    (let s : State := { waved none none with auxs := [(63, { PartAux.reset with run := { Run.reset with st := .running, mode := 2 } })] }
     s.env.unit = 63 ∧ (s.aux 63).run.st = .running ∧ (s.aux 63).run.wave = none ∧ (s.aux 63).run.waveDue ≤ s.now ∧ (s.aux 63).run.mode = 2) ∧
    (let s := waved (some passive_) none
     (s.aux 63).run.wave = some passive_ ∧ (s.aux 63).run.prev = none) ∧
    (let s := waved (some passive_) (some passive_)
     (s.aux 63).run.wave = some passive_ ∧ (s.aux 63).run.prev = some passive_ ∧ passive_.sent = passive_.recv ∧ passive_.passive = true ∧
       s.calm 63 = true ∧ ((s.modAux 63 fun a => { a with sent := 1 }).calm 63) = false) := by
  decide +kernel
/-- R166: a token that is on its way as the second wave completes holds STABLE back. -/
theorem test_no_stable_in_flight : (((waved (some passive_) (some passive_)).endWave 63).aux 63).run.st = .stable ∧
    ((((waved (some passive_) (some passive_)).modAux 63 fun a => { a with sent := 1 }).endWave 63).aux 63).run.st = .running := by decide +kernel

/-- Every condition of full service holds (R21). -/
def ready_ : State := { base with md := { Mod.reset with layerUp := BitVec.allOnes 32, hbmRdy := true, edRdy := true, colRdy := true } }
def withEnv (s : State) (e : Env) : State := { s with env := e }

theorem test_meets_BringUpReachesFullService :
    State.reset.md.image = none ∧ { Mod.reset with image := some [] }.image ≠ none ∧
    (withEnv base { Env.none with unit := 31 }).env.unit = 31 ∧ base.md.fail = false ∧ base.md.full = false ∧ base.md.edRdy = false ∧
    { Mod.reset with fail := true }.fail = true ∧ { Mod.reset with full := true }.full = true ∧
    (ready_.md.full = false ∧ ready_.md.fail = false ∧ ready_.md.layerUp = BitVec.allOnes 32 ∧ ready_.md.hbmRdy = true ∧
      ready_.md.edRdy = true ∧ ready_.md.colRdy = true) ∧
    ¬(base.md.fail = false ∧ base.md.layerUp = BitVec.allOnes 32 ∧ base.md.hbmRdy = true ∧ base.md.edRdy = true ∧ base.md.colRdy = true) := by
  decide +kernel

theorem test_meets_HostRequestsAreAnswered :
    (withEnv base { Env.none with unit := 1 }).env.unit = 1 ∧ (withEnv base { Env.none with unit := 16 + 63 }).env.unit = 16 + 63 ∧
    (base.part 63).closing = none ∧
    (let s := withEnv base { Env.none with addr := 0xFFFFFFFF, size := 2 }
     1 ≤ s.env.size ∧ s.env.size ≤ 8 ∧ 2 ^ 32 < s.env.addr.toNat + s.env.size) ∧
    (let s := withEnv base { Env.none with addr := 0xFFFFFFF8, size := 8 }
     1 ≤ s.env.size ∧ s.env.size ≤ 64 ∧ s.env.addr.toNat + s.env.size ≤ 2 ^ 32 ∧
       isHbm (s.md.apbase.toNat + s.env.addr.toNat + s.env.size - 1) = true ∧ s.env.write = false) ∧
    (∀ n ∈ [1, 64], let s := withEnv base { Env.none with addr := 0xFFFFFFC0, size := n, write := true }
     s.env.write = true ∧ s.env.size ≤ 64 ∧ s.env.addr.toNat + s.env.size ≤ 2 ^ 32 ∧
       isHbm (s.md.apbase.toNat + s.env.addr.toNat + s.env.size - 1) = true) ∧
    ∀ op ∈ [MemOp.read 8, .read 64, .write 1 5, .write 64 5],
      let h : Header := { id := 9, part := 0, op := op, loc := 0xC000000000 - 64, home := .hbm 255, dest := 0, expiry := none, uncmb := true, mems := [],
                          extra := 0, src := .aperture }
      let s := { base with net := { Net.reset with homeQ := [h] }, env := { Env.none with home := .hbm 255 } }
      s.nextAt (.hbm 255) = some h ∧ h.src = .aperture ∧ h.expiry = none ∧ s.env.bad = false ∧ isHbm (h.loc + 64 - 1) = true := by decide +kernel

/-- A thread that waits for the answer of its governor. -/
def asking_ : Thread := { U with asking := .asked }
def ask (who : Asker) : GovReq := { who := who, core := 0, part := 0, charge := 8, dur := 1 }
def governed (l : Nat) (y : Layer) (v : Word) : State :=
  { S asking_ with layers := [(l, y)], env := { Env.none with unit := l, val := v } }

theorem test_meets_GovernorsKeepTheLimits :
    (let r := ask (.leave 0 2 5)
     let s := governed 0 { Layer.reset with asks := [r] } 0
     s.env.unit = 0 ∧ (s.layer 0).asks = [r] ∧ s.engineCore 0 = none ∧ s.thread 0 2 = some asking_ ∧ asking_.tid = 5 ∧ asking_.asking = .asked ∧ s.reason 0 r = 0) ∧
    (let r := ask (.leave 0 2 5)
     let s := governed 31 { Layer.reset with asks := [r] } 0
     s.env.unit = 31 ∧ (s.layer 31).asks = [r] ∧ s.engineCore 31 = none ∧ s.thread 0 2 = some asking_ ∧ s.reason 31 r ≠ 0) ∧
    (let s := { governed 0 .reset 0 with cores := [(5, { Core.reset with govIn := [(0, 0x10001)] })] }
     s.engineCore 0 = some 5 ∧ (s.layer 0).asks = [] ∧ (s.core 5).govIn = [(0, 0x10001)] ∧ (s.core 5).govHeld = [] ∧
       (s.core 5).govQ.length < 8 ∧ s.reason 0 { who := .engine 5, core := 5, part := 0, charge := 1, dur := 1 } = 0) ∧
    (let r := ask (.engine 5)
     let s := governed 0 { Layer.reset with queue := [r] } 0
     (s.layer 0).queue.find? (fun r => s.reason 0 r == 0) = some r ∧ (s.core 5).govHeld = [] ∧ (s.core 5).govQ.length < 8) ∧
    (let s : State := { governed 31 .reset 2400 with layers := [(0, { Layer.reset with ceil := 0 })] }
     s.env.val.toNat % 4096 ≤ 2400 ∧ s.ceilSum - (s.layer 31).ceil.toNat + s.env.val.toNat % 4096 ≤ 60000) ∧
    2400 < (governed 31 .reset 2401).env.val.toNat % 4096 := by decide +kernel

def colStore (n : Nat) : ColWrite := { id := 1, part := 0, layer := 0, tid := 5, off := 2 ^ 20 - n, n := n, val := 7, kerf := 0 }
def towerIs (y : Tower) (sub : Nat) : State := { S U with towers := [(3, y)], env := { Env.none with unit := 3, sub := sub } }

theorem test_meets_TheColCarriesWrites :
    (towerIs .reset 63).env.unit = 3 ∧ (towerIs .reset 63).env.sub = 63 ∧
    (let y := { Tower.reset with pending := [(63, 1)] }
     ((towerIs y 0).tower 3).pending = [(63, 1)] ∧ y.kerf % 64 = 0 ∧ kmapValid (y.entry 63) = false) ∧
    (let y := { Tower.reset with kmap := [(63, 1)], pending := [(63, 0)], queues := [(0, [colStore 1])] }
     kmapValid (y.entry 63) = true ∧ y.queue (kmapPair (y.entry 63)) ≠ [] ∧ kmapValid (0 : BitVec 10) = false ∧
       mapHolds (applyMap y.kmap y.pending) (kmapPair (y.entry 63)) = false) ∧
    (let w := waitsFor 5 false
     let y := { Tower.reset with waiting := [w, { waitsFor 9 true with slot := 3 }], queues := [(0, List.replicate 14 (colStore 1))] }
     w.ok = false ∧ w ∉ y.waiting.tail ∧ (∀ x ∈ y.waiting.tail, x.before w = false) ∧ 8 * w.w.part + w.w.layer = 0 ∧
       (y.queue 0).length + (y.waiting.tail.filter fun x => x.ok && x.w.pair == 0).length < 16) ∧
    (let y := { Tower.reset with waiting := [waitsFor 5 false], queues := [(0, List.replicate 16 (colStore 1))] }
     16 ≤ (y.queue 0).length) ∧
    (let y := { Tower.reset with kerf := 63 }
     y.kerf % 64 ≠ 0 ∧ y.order = [] ∧ y.replay = 0 ∧ kmapValid (y.entry 63) = false) ∧
    (let y := { Tower.reset with kerf := 1, kmap := [(1, 1)], queues := [(0, [colStore 1])] }
     y.kerf % 64 ≠ 0 ∧ y.order = [] ∧ y.replay = 0 ∧ kmapValid (y.entry 1) = true ∧ y.queue (kmapPair (y.entry 1)) = [colStore 1]) ∧
    (let y := { Tower.reset with order := [colStore 64] }
     y.order[y.taken 8]? = some (colStore 64) ∧ y.order[y.taken 7]? = some (colStore 64) ∧ y.awake.getLsbD 7 = true ∧
       y.reload.getLsbD 7 = false ∧ y.stale.getLsbD 7 = false ∧ y.replay.getLsbD 7 = false) ∧
    (∀ w ∈ [(0x7F : BitVec 8), 0xFF], let y := { Tower.reset with order := [colStore 64], awake := w, stale := 0x80, reload := 0x80 }
     y.order[y.taken 7]? = some (colStore 64) ∧ y.reload.getLsbD 7 = true) ∧
    (let y := { Tower.reset with order := [colStore 64], awake := 0x7F, logged := [(7, 1023)] }
     y.reload.getLsbD 7 = false ∧ y.awake.getLsbD 7 = false ∧ y.stale.getLsbD 7 = false ∧ Sparse.get 0 y.logged 7 < 1024) := by decide +kernel

def layered (y : Tower) : State := { base with towers := [(3, y)], env := { Env.none with unit := 31 } }

/-- Die 7 has still to take a write of kerf 8, and not one of kerf 7. -/
theorem test_kerfs_keep_the_dies_together :
    let y := { Tower.reset with kerf := 12, order := [{ colStore 8 with kerf := 8 }, { colStore 8 with kerf := 9 }], applied := [(8, 2)] }
    (match exec .kerfTransmit (towerIs y 0) with
    | .next s => ((s.tower 3).order[(s.tower 3).taken 7]?).map (·.kerf) == some 9
    | _ => false) = true := by decide +kernel

theorem test_meets_LayersSleepReplayAndReload_pass :
    let r : Run := { Run.reset with st := .running }
    let s : State := { layered { Tower.reset with sleep := 0x80 } with
      md := { Mod.reset with layerUp := BitVec.allOnes 32 }
      parts := [(0, { Part.reset with base := 31744, len := 1024, en := true })]
      auxs := [(0, { PartAux.reset with run := r, slices := [(0, { Slice.reset with due := true })] })] }
    s.env.unit = 31 ∧ s.passing 0 0 = true ∧ ((s.sliceClusters 0)[0]?.any fun cl => cl / 128 == 31) = true := by decide +kernel

theorem test_meets_LayersSleepReplayAndReload :
    (towerIs .reset 0).env.unit = 3 ∧ (layered .reset).env.unit = 31 ∧
    (let y := { Tower.reset with sleep := 0x80 }
     y.kerf % 64 = 0 ∧ y.order = [] ∧ y.sleep.getLsbD 7 = true ∧ (layered y).layerLive 31 = true ∧ (layered y).layerIdle 31 = true) ∧
    { Tower.reset with kerf := 63 }.kerf % 64 ≠ 0 ∧
    (let y := { Tower.reset with awake := 0x7F, kerf := 64 }
     y.kerf % 64 = 0 ∧ y.order = [] ∧ y.awake.getLsbD 7 = false ∧ y.sleep.getLsbD 7 = false ∧ y.stale.getLsbD 7 = false) ∧
    ({ layered { Tower.reset with awake := 0x7F, sleep := 0x80 } with
        parts := [(0, { Part.reset with base := 31744, len := 1024, en := true, tasks := [{ launch := 1, khdr := 0, gang := 0, first := 0, n := 1, prio := 0, since := 0, lvl := 0 }] })] }.itemsFor 31 = true) ∧
    (let y := { Tower.reset with replay := 0x80, catchup := [(7, [colStore 8, colStore 1])], kerf := 1 }
     y.replay = 1#8 <<< 7 ∧ Sparse.get [] y.catchup 7 = [colStore 8, colStore 1] ∧ y.kerf % 64 ≠ 0 ∧ y.order = [] ∧
       kmapValid (y.entry (y.kerf % 64)) = false) ∧
    { Tower.reset with reload := 0x80, stale := 0x80 }.reload.getLsbD 7 = true ∧
    Memory.wf (layered { Tower.reset with reload := 0x80, stale := 0x80 }).mem = true := by decide +kernel

/-- Partition 0 imports what names domain 5 and the first 64 KiB of channel 0. -/
def byandIs (b : Byand) (e : Env) : State :=
  { base with by_ := b, env := e, auxs := [(0, { PartAux.reset with bypart := 0x10005, bywin := [(0, 2 ^ 42 + 1)] })] }
def packet (x : Option Nat) (b : ByBody) : ByPacket := { dom := 5, src := 9, expiry := x, body := b }
def admitting (k : ByPacket) : State := byandIs { Byand.reset with set := true } { Env.none with unit := 63, pkt := k }
def byHeader (q : Nat) : ByHeader :=
  { ingress := 2, dom := 5, dest := 1, addr := 0, op := .add, width := 8, value := 3, request := q, noCombine := false }
def left_ (lost : Bool) : Remote :=
  { req := 9, port := 63, sent := 0, dom := 5, lost := lost,
    hdr := { id := 9, part := 0, op := .read 8, loc := 0, home := .egress 63, dest := 1, expiry := none, uncmb := false, mems := [], extra := 0,
             src := .cluster } }
/-- A read of another module's memory that a launch engine makes. -/
def ownTicket : Ticket :=
  { id := 9, key := .launch 0, part := 0, core := 32768, slot := 0, port := none, home := .egress 63, loc := 0, asked := 0, st := .goes,
    op := .read 64, dest := 1 }
def ownLeft : Remote := { left_ false with hdr := ownTicket.header }
/-- R65, R74, R75: it leaves at its egress port; lost, it counts, and the engine has the failure. -/
theorem test_own_read_over_byand :
    (let s := ({ base with by_ := { Byand.reset with ports := [(63, { Port.reset with up := true })] },
                           net := { Net.reset with tickets := [ownTicket], homeQ := [ownTicket.header] } } : State).homePerform (.egress 63) false
     s.by_.out.map (·.hdr) = [ownTicket.header] ∧ s.net.tickets = [ownTicket]) ∧
    (let s := ({ base with by_ := { Byand.reset with out := [ownLeft] }, md := { Mod.reset with ltc := 2000000 },
                           net := { Net.reset with tickets := [ownTicket] } } : State).byandLost 9
     s.by_.out = [] ∧ (s.port 63).lost = 1 ∧ (s.gotBy (.launch 0)).map (·.got) = [some (.bylost, 0)]) := by decide +kernel
def sentAway : Msg := { arrivingAt 0 (.wake 1) with away := some (63, 1, some 0) }

theorem test_meets_ByandCarriesAndCounts_ingress :
    (withEnv base { Env.none with unit := 63 }).env.unit = 63 ∧
    base.admits (packet none (.msg 0 0x40 [] [])) = none ∧
    (let s := admitting (packet (some 0) (.mem 0 (.read 8)))
     s.admits s.env.pkt = some 0 ∧ s.env.pkt.expiry = some 0 ∧ 0 ≤ s.md.ltc.toNat) ∧
    (∀ b ∈ [ByBody.msg 1023 0x40 [1] [], .fill 1023 15 5 .g 31 1, .mem 0xFF00 (.upd .add 8 1), .mem 0xFF00 (.read 64)],
      let s := admitting (packet none b)
      s.admits s.env.pkt = some 0 ∧ s.env.pkt.expiry = none) ∧
    homeOf 0xFF00 = some (.hbm 31) ∧ opUpd (.read 64) = false ∧
    { Port.reset with up := true }.up = true ∧ (base.port 63).up = false := by
  decide +kernel

/-- R71, R75: a load that no partition admits counts in REFUSE. -/
theorem test_refused_load_counts :
    (((admitting { packet none (.mem 0 (.read 8)) with dom := 6 }).refusePacket 63 (packet none (.mem 0 (.read 8)))).port 63).refuse = 1 := by
  decide +kernel

/-- What came to output 2: in this cycle, cycle 0, or before. -/
def cameBy (at_ : Nat) (l : List ByHeader) (q : List (Nat × ByHeader)) (passing : Bool) : State :=
  { byandIs { Byand.reset with queues := [(2, q)], arrived := [(2, (at_, l))] } { Env.none with unit := 2, hdr := byHeader 4, write := passing } with
    md := { Mod.reset with cyc := 1 } }

theorem test_meets_ByandCarriesAndCounts_switch :
    (let s := cameBy 1 [{ byHeader 5 with ingress := 1 }, { byHeader 6 with ingress := 3 }] [] false
     s.env.write = false ∧ (s.byArrived 2).1 = s.now ∧ (s.byArrived 2).2 = [{ byHeader 5 with ingress := 1 }, { byHeader 6 with ingress := 3 }] ∧
       s.env.hdr.ingress = 2) ∧
    (let s := cameBy 0 [byHeader 5, { byHeader 6 with dom := 6 }] [(0, { byHeader 1 with dom := 7 })] false
     (s.byArrived 2).1 ≠ s.now ∧ (∀ g ∈ (s.byArrived 2).2, ∀ x ∈ Sparse.get [] s.by_.queues 2, mayCombineBy x.2 g = false) ∧
       (s.byArrived 2).2.Pairwise (fun x g => mayCombineBy x g = false)) ∧
    (let s := cameBy 0 [byHeader 5] [(0, byHeader 1)] false
     (s.byArrived 2).1 ≠ s.now ∧ Sparse.get [] s.by_.queues 2 = [(0, byHeader 1)] ∧ (s.byArrived 2).2 = [byHeader 5] ∧
       mayCombineBy (byHeader 1) (byHeader 5) = true ∧ s.by_.waits = []) ∧
    (let s := cameBy 1 [byHeader 5] [(0, byHeader 1)] true
     s.env.write = true ∧ (s.byArrived 2).1 = s.now ∧ Sparse.get [] s.by_.queues 2 = [(0, byHeader 1)]) ∧
    (let s := byandIs { Byand.reset with waits := [(2, 9, byHeader 1, byHeader 4)] } { Env.none with unit := 9, write := true }
     s.by_.waits.find? (·.2.1 == 9) = some (2, 9, byHeader 1, byHeader 4) ∧ (byHeader 1).op = .add) := by
  decide +kernel

theorem test_meets_ByandCarriesAndCounts_loss :
    (let s := byandIs { Byand.reset with out := [left_ true], tmo := 0 } { Env.none with unit := 9 }
     s.by_.out.find? (·.req == 9) = some (left_ true) ∧ s.md.ltc.toNat < (left_ true).sent + 2 ^ s.by_.tmo.toNat * 1000 ∧
       (left_ true).lost = true ∧ s.net.hostOut = [] ∧ s.net.replies = []) ∧
    (left_ true).sent + 2 ^ 0 * 1000 ≤ { Mod.reset with ltc := 1000 }.ltc.toNat ∧
    (left_ true).hdr.src ≠ .direct ∧ ownLeft.hdr.src = .direct ∧ ownTicket.id = ownLeft.req ∧ ownTicket.key ≠ .over ∧
    (let s := { base with net := { Net.reset with msgs := [sentAway] }, env := { Env.none with unit := 3 }, fresh := 9,
                          md := { Mod.reset with ltc := 1000 }, by_ := { Byand.reset with tmo := 0 } }
     s.by_.out.find? (·.req == 3) = none ∧ s.net.msgs.find? (·.id == 3) = some sentAway ∧
       0 + 2 ^ s.by_.tmo.toNat * 1000 ≤ s.md.ltc.toNat ∧ Fresh s) ∧
    base.by_.set = false ∧ { Byand.reset with set := true }.set = true := by
  unfold Fresh
  decide +kernel

theorem test_meets_TimeIsKept :
    { Byand.reset with isMaster := true }.isMaster = true ∧ base.by_.isMaster = false ∧ base.by_.skew = false ∧ base.by_.set = false ∧
    { Byand.reset with set := true, missed := 64 }.missed = 64 ∧ base.by_.beacons = 0 ∧
    (128 : Int).natAbs ≤ 128 ∧ 128 < (-129 : Int).natAbs ∧ (-129 : Int) < 0 ∧ 128 < (129 : Int).natAbs ∧ (0 : Int) ≤ 129 ∧
    (withEnv base { Env.none with unit := 31, offset := 17 }).env.unit = 31 ∧ 16 < (17 : Int).natAbs ∧ (16 : Int).natAbs ≤ 16 ∧
    (let x : TlbEntry := { part := 0, epoch := 0, va := 0, leaf := 0, leafAt := 0, expiry := 0, hot := 0 }
     let s : State := { base with layers := [(31, { Layer.reset with llt := [x] })] }
     (s.layer 31).llt[0]? = some x ∧ x.expiry ≤ s.md.ltc.toNat) ∧
    (base.md.ltc.toNat < 1) := by decide +kernel
/-- R218: the shadow word lies SHOFF past the leaf's entry. -/
theorem test_hotness_adds :
    let x : TlbEntry := { part := 0, epoch := 0, va := 0, leaf := 0, leafAt := 0x8000, expiry := 0, hot := 3 }
    let s : State := { base with layers := [(31, { Layer.reset with llt := [x] })], auxs := [(0, { PartAux.reset with ptshad := 8 })],
                                 mem := [(0x8008, 0xFF)] }
    ((s.flushHot x).raw 0x8008, (s.flushHot x).raw 0x8009) = (2, 1) := by decide +kernel
/-- R73, R418: a first beacon that finds the module behind by more than 128 ns steps its LTC and sets SKEW. -/
theorem test_first_beacon : (base.beacon 129).by_.skew = true ∧ (base.beacon 129).md.ltc = base.md.ltc + 129 := by decide +kernel

def crossing (net : Nat) (stage : Nat) : Packet :=
  { hdr := atHome (.read 8), net := net, stage := stage, pos := 0, queued := false, dst := 1, rest := [] }
def onSwitch (net : Nat) (stage : Nat) : State :=
  { base with net := { Net.reset with packets := [crossing net stage] }, env := { Env.none with unit := net, sub := stage, third := 0 } }
def combined : WaitEntry := { id := 6, out := (0, 0, 0), part := 0, comb := 8, first := 2, second := 3, op := .add, w := 8, v0 := 4 }
def nearby : NearEntry := { id := 1, acc := 4, tid := 5, off := 2 ^ 17 - 8, n := 8, val := 0xFF }
def recorded (token : Nat) : FaultRec :=
  { kind := 0, rx := false, cause := false, rights := false, spill := false, da := 0, core := 0, copy := false, slot := 0, chan := false,
    token := token }

theorem test_meets_NetworkAndStorageEvents :
    (∀ e ∈ [(31, 9), (35, 11)], let s := onSwitch e.1 e.2
      s.env.unit = e.1 ∧ s.env.sub = e.2 ∧ s.env.third = 0 ∧ e.2 + 1 < (if e.1 < 32 then 11 else 13) ∧ s.net.packets = [crossing e.1 e.2] ∧
        (rotlPort (stagesOf e.1) (crossing e.1 e.2).pos) / 2 = 0) ∧
    (let s := { base with net := { Net.reset with waits := [combined], replies := [{ id := 8, status := .ok, val := 1 }] },
                          env := { Env.none with unit := 6 } }
     s.env.write = false ∧ s.net.waits = [combined] ∧ s.env.unit = combined.id ∧ s.net.replies = [{ id := combined.comb, status := .ok, val := 1 }]) ∧
    (let s := { base with cores := [(33023, { Core.reset with near := [nearby] })], env := { Env.none with unit := 33023 } }
     isCore 33023 = true ∧ (s.core 33023).near = [nearby] ∧ s.net.accs = []) ∧
    (let s := { base with net := { Net.reset with homeQ := [nearby.header 0 63] }, env := { Env.none with home := .spad 0, sub := 255 } }
     s.env.home = .spad 0 ∧ s.homeLive (.spad 0) = true ∧ s.nextAt (.spad 0) = some (nearby.header 0 63)) ∧
    (let s := { base with md := { Mod.reset with edRdy := true }, layers := [(31, { Layer.reset with winEnd := 0 })],
                          env := { Env.none with unit := 31 } }
     s.env.unit = 31 ∧ s.md.edRdy = true ∧ (s.layer 31).winEnd ≤ s.now) ∧
    (let s := { base with md := { Mod.reset with edRdy := true }, layers := [(31, { Layer.reset with winEnd := 1 })] }
     s.now < (s.layer 31).winEnd) ∧
    (let s := withEnv (S reserving) { Env.none with unit := 0, sub := 2 }
     s.env.unit = 0 ∧ s.env.sub = 2 ∧ s.thread 0 2 = some reserving ∧ reserving.resv = some (spadLoc 0 8, 0)) ∧
    (let s := { base with auxs := [(63, { PartAux.reset with fq := List.replicate 63 (recorded 1), fqWait := [recorded 2] })],
                          env := { Env.none with unit := 63 } }
     s.env.unit = 63 ∧ (s.aux 63).fqWait = [recorded 2] ∧ (s.aux 63).fq.length < 64) := by decide +kernel

/-- Partition 63 over eight cores, as `x` leaves it. -/
def partIs (x : Part → Part) (e : Env) : State :=
  { base with parts := [(63, x { Part.reset with base := 0, len := 8, en := true, epoch := 1, key := some 5 })], env := { e with unit := 63 } }

theorem test_meets_PartitionsAreEnabledAndReset :
    (let s := withEnv State.reset { Env.none with unit := 63, val := 0x180000000 }
     s.env.val.getLsbD 32 = true ∧ (s.part 63).en = false ∧ (s.part 63).busy = false ∧ 0 < s.env.val.toNat / 2 ^ 16 % 2 ^ 16 ∧
       s.env.val.toNat % 2 ^ 15 + s.env.val.toNat / 2 ^ 16 % 2 ^ 16 ≤ 32768 ∧ s.overlapsPart 0 32768 = false) ∧
    (let s := partIs id { Env.none with val := 0x300080000 }
     (s.part 63).en = true ∧ (s.part 63).busy = false ∧ s.env.val.getLsbD 33 ≠ (s.part 63).det) ∧
    (let s := partIs id { Env.none with val := 0x500080000 }
     s.env.val.toNat % 2 ^ 15 = (s.part 63).base ∧ s.env.val.toNat / 2 ^ 16 % 2 ^ 16 = (s.part 63).len ∧
       s.env.val.getLsbD 32 = (s.part 63).en ∧ s.env.val.getLsbD 33 = (s.part 63).det) ∧
    ((partIs ({ · with busy := true }) Env.none).part 63).busy = true ∧ (base.part 63).en = false ∧
    (let s : State := { partIs id Env.none with auxs := [(63, { PartAux.reset with fq := [recorded 1] })] }
     (s.aux 63).fq = [recorded 1]) ∧
    ((partIs id Env.none).part 63).launches = [] ∧ ((partIs ({ · with launches := [oneUnit] }) Env.none).part 63).launches ≠ [] := by
  decide +kernel

/-- A host request of `n` bytes at offset `o` of BAR0, to a partition whose completion queue holds one record. -/
def hostRequest (o : Word) (n : Nat) (write : Bool) : State := partIs ({ · with cq := [7] }) { Env.none with addr := o, size := n, write := write }
def benchDoes (a : Nat) (n : Nat) (write : Bool) : State :=
  withEnv base { Env.none with unit := 15, addr := BitVec.ofNat 64 a, size := n, write := write }

theorem test_meets_RegistersAndBenchAccesses :
    (∀ q, (hostRequest 0x200 8 true).env.home ≠ .egress q) ∧
    (∀ e ∈ [((0x1000000 : Word), 8), (0xFFFFFF, 2)], let s := hostRequest e.1 e.2 false
     2 ^ 24 ≤ s.env.addr.toNat ∨ 2 ^ 24 < s.env.addr.toNat + s.env.size) ∧
    (let s := hostRequest 0xFFFFF8 8 true
     s.env.addr.toNat < 2 ^ 24 ∧ s.env.addr.toNat + s.env.size ≤ 2 ^ 24) ∧
    (let s := hostRequest 0x200 8 true
     s.env.write = true ∧ s.env.size = 8 ∧ s.env.addr.toNat % 8 = 0 ∧ regAt s.env.addr.toNat = some .apbase) ∧
    (hostRequest 0x73000 8 true).env.addr.toNat = 0x73000 ∧ (hostRequest 0x100 4 true).env.size ≠ 8 ∧
    (let s := hostRequest 0x207 1 false
     s.env.write = false ∧ regAt (s.env.addr.toNat / 8 * 8) = some .apbase ∧ s.env.addr.toNat % 8 + s.env.size ≤ 8) ∧
    (∀ n ∈ [4, 8], let s := hostRequest 0x33F000 n false
     regAt (s.env.addr.toNat / 8 * 8) = some (.cqpop 63) ∧ s.env.size = n ∧ (s.part 63).cq = [] ++ [7] ∧
       ([] : List Word).length = s.cqPlace 63 16) ∧
    regAt ((hostRequest 0x108 8 false).env.addr.toNat / 8 * 8) = none ∧
    (withEnv base { Env.none with home := .egress 63 }).env.home = .egress 63 := by
  refine ⟨fun _ => Home.noConfusion, by decide +kernel⟩

theorem test_meets_RegistersAndBenchAccesses_bench :
    (let s := benchDoes 0 8 false
     s.env.unit = 15 ∧ isHbm (s.env.addr.toNat + 8 - 1) = true) ∧
    (isHostMem (benchDoes (2 ^ 41) 8 false).env.addr.toNat = true ∧ (benchDoes (2 ^ 41) 8 false).md.bme = false) ∧
    (2 ^ 42 ≤ (benchDoes (2 ^ 42) 8 false).env.addr.toNat ∧ 2 ^ 42 / 2 ^ 48 ≠ 128) ∧
    (let s : State := { benchDoes (2 ^ 55 + 0x100) 8 false with md := { Mod.reset with bench := [(15, 3)] } }
     s.env.addr.toNat / 2 ^ 48 = 128 ∧ (s.benchTag 15).getLsbD 6 = false ∧ pagePart (s.env.addr.toNat % 2 ^ 48) ≠ some 3) ∧
    (let s := benchDoes (2 ^ 55 + 0x200) 8 true
     s.env.addr.toNat / 2 ^ 48 = 128 ∧ (s.benchTag 15).getLsbD 6 = true ∧ regAt (s.env.addr.toNat % 2 ^ 48) = some .apbase ∧
       s.env.addr.toNat % 8 = 0 ∧ s.env.write = true) ∧
    (benchDoes (2 ^ 55 + 0x100) 8 false).env.addr.toNat = 2 ^ 55 + 0x100 ∧
    (let pop : Env := { Env.none with unit := 14, addr := 2 ^ 55 + 0x33F000, size := 8 }
     let s : State := { partIs ({ · with cq := [6, 7] }) { pop with unit := 15 } with agenda := [.event .benchAccess pop] }
     s.env.addr.toNat = 2 ^ 55 + 0x300000 + 0x1000 * 63 ∧ s.env.size = 8 ∧ s.env.write = false ∧ (s.benchTag 15).getLsbD 6 = true ∧
       (s.part 63).cq = [6] ++ [7] ∧ [6].length = s.cqPlace 63 15) ∧
    ∀ op ∈ [MemOp.read 8, .write 1 5, .amo .add 4 5],
      let h : Header := { id := 9, part := 0, op := op, loc := 0xFFF8, home := .hbm 0, dest := 0, expiry := none, uncmb := true, mems := [],
                          extra := 0, src := .bench 15 true }
      let s := { base with net := { Net.reset with homeQ := [h] }, env := { Env.none with home := .hbm 0 } }
      s.nextAt (.hbm 0) = some h ∧ h.expiry = none ∧ s.env.bad = false ∧ isHbm (h.loc + 8 - 1) = true := by
  decide +kernel

/-- A page table, a parameter block at 0x80, its kernel header and its segment table. -/
def launching : State :=
  { base with
    parts := [(63, { Part.reset with base := 0, len := 8, en := true, lq := [0x80] })], env := { Env.none with unit := 63 },
    auxs := [(63, { PartAux.reset with ptroot := 0x2001 })],
    rotor := { core := 2 ^ 16, tried := 0 },
    mem := [(0x81, 0x01), (0x88, 0x01), (0xA0, 0x40), (0xA1, 0x01), (0x100, 0x96), (0x101, 0x0D), (0x102, 0x81), (0x148, 0x40), (0x14D, 0x04),
            (0x2000, 0x01), (0x2001, 0x80), (0x8000, 0x1F), (0x8001, 0x06)] }
/-- The same once its block, and then its header and segment table, have had their turns. -/
def blockHad (s : State) : State := allHad (.launch 63) 32768 63 .read (s.launchBlocks 63 0x80) s
def launchHad : State := blockHad (blockHad launching)
def Taken.isActive : Taken → Bool
  | .active _ => true
  | .done .. => false

theorem active_of {x : Taken × State} (h : Taken.isActive x.1 = true) : ∃ l s, x = (.active l, s) := by
  obtain ⟨_ | l, s⟩ := x
  · simp [Taken.isActive] at h
  · exact ⟨l, s, rfl⟩

theorem test_meets_LaunchesRunAndComplete :
    (∃ l s1, ((launchHad.dropTicket (.launch 63)).modPart 63 fun x => { x with lq := [] }).takeLaunch 63 0x80 launchHad.env.bad launchHad.env.bytes
      (launchHad.gotBy (.launch 63)) = (.active l, s1)) ∧
    (let x := launching.part 63
     launching.env.unit = 63 ∧ x.en = true ∧ x.busy = false ∧ x.lq.length < 64 ∧ x.cqHeld = [] ∧ x.launches.length < 16 ∧
       (launching.aux 63).loadSt = false ∧ x.lq = [0x80] ∧ x.lqNew = [] ∧ base.eventsRun = false) ∧
    (∀ s ∈ [launching, blockHad launching, launchHad], s.eventsRun = true ∧ s.gtabComes 63 = false) ∧
    { launching with agenda := [.event .gtabWrite { Env.none with unit := 63, sub := 255, val := 1 }] }.gtabComes 63 = true ∧
    (launching.served (.launch 63) 32768 63 .read (launching.launchBlocks 63 0x80) = false ∧
      (blockHad launching).served (.launch 63) 32768 63 .read ((blockHad launching).launchBlocks 63 0x80) = false ∧
      launchHad.served (.launch 63) 32768 63 .read (launchHad.launchBlocks 63 0x80) = true ∧ (launchHad.part 63).lq = [0x80] ∧
      (launchHad.part 63).lqNew.length ≤ ([] : List Word).length) ∧
    (let x := (partIs ({ · with lq := List.replicate 64 0 }) Env.none).part 63
     x.lq.length = 64 ∧ x.lqNew = []) ∧ (0x7F : Word).toNat % 128 ≠ 0 ∧
    (let x := (partIs ({ · with launches := [{ oneUnit with placed := 0 }], cq := List.replicate 63 1 }) Env.none).part 63
     x.tasks.length + (if x.gang.isSome then 1 else 0) < 256 ∧ x.launches = [{ oneUnit with placed := 0 }] ∧ x.cq.length < 64) ∧
    (let l := { oneUnit with ended := [0] }
     let x := (partIs ({ · with launches := [l], cq := List.replicate 63 1 }) Env.none).part 63
     x.launches = [l] ∧ l.count ≤ l.ended.length ∧ l.cdest = 0 ∧ x.cqHeld = [] ∧ x.cq.length < 64) ∧
    (let x := (partIs ({ · with cqHeld := [7], cq := [9] }) Env.none).part 63
     x.cqHeld = [7] ∧ x.cq = [9]) ∧
    (let s := partIs ({ · with cq := [9] }) Env.none
     (s.part 63).cq = [] ++ [9] ∧ ([] : List Word).length = s.cqPlace 63 16) ∧ ((partIs id Env.none).part 63).cq.length ≤ 0 ∧
    ((partIs ({ · with launches := [oneUnit] }) Env.none).part 63).launches = [oneUnit] ∧ oneUnit.glist.contains 255 = true ∧
    (let v : Word := (2 : Word) ^ 52 + 2 ^ 28 + 1
     gtabV v = true ∧ v.getLsbD 1 = false ∧ gtabStride v ≠ 0 ∧ gtabFirst v ≤ gtabLast v) ∧
    gtabLast ((2 : Word) ^ 52 + 2 ^ 4 + 1) < gtabFirst ((2 : Word) ^ 52 + 2 ^ 4 + 1) :=
  ⟨active_of (by decide +kernel), by decide +kernel⟩

def task : Task := { launch := 7, khdr := 0, gang := 0, first := 0, n := 1, prio := 0, since := 0, lvl := 0 }
def atCycle (n : Word) (s : State) : State := { s with md := { s.md with cyc := n } }
def starting : Start := oneUnit.startOf 0 0
def entry : Entry := { kind := .start starting, prio := 0, since := 0, lvl := 0, unit := 0 }
/-- Core 0 with every slot of general class taken by a context that may be written out, and an entry that cannot start. -/
def back : Entry := { kind := .restore 0 0 0 [15], prio := 0, since := 0, lvl := 0, unit := 0 }
def fullCore : State :=
  { atCycle 1024 base with
    cores := [(0, { Core.reset with slots := (List.range 14).map (fun k => (k + 2, U)), ready := [entry], resident := [(0, 0)] })],
    auxs := [(0, { PartAux.reset with sched := [(0, 1)], ctxbase := [(0, 1)] })], env := { Env.none with unit := 0 } }

/-- A gang of two units whose turn it is. -/
def twoUnits : Launch := { oneUnit with gang := 2, count := 2 }
def offering : State := partIs ({ · with launches := [twoUnits], tasks := [{ task with n := 2 }] }) Env.none

theorem test_meets_WorkIsPlacedAndStarted :
    (let x := offering.part 63
     offering.places 63 = true ∧ x.gang = none ∧ bestTask x.tasks = some { task with n := 2 } ∧ 1 < twoUnits.gang ∧
       x.launches.find? (·.id == task.launch) = some twoUnits) ∧
    (let s := partIs ({ · with launches := [oneUnit], tasks := [task] }) Env.none
     let x := s.part 63
     s.env.unit = 63 ∧ s.places 63 = true ∧ x.gang = none ∧ bestTask x.tasks = some task ∧ oneUnit.gang ≤ 1 ∧
       x.launches.find? (·.id == task.launch) = some oneUnit ∧
       (offerOrder x.lastLayer (s.layersOf 63)).findSome? (fun y => (s.leastLoaded (s.openCores 63 y)).map fun c => (y, c)) = some (0, 0)) ∧
    (let s := partIs ({ · with launches := [oneUnit], gang := some (task, 0, [(0, 2)]) }) Env.none
     (s.part 63).gang = some (task, 0, [(0, 2)]) ∧ [(0, 2)].length = task.n ∧ s.places 63 = true ∧ s.now < 0 + 4096) ∧
    (∃ rs s1, offering.reserveFrom twoUnits.hdr twoUnits.id (offering.allSlots 63) 2 [] = (rs, s1) ∧ rs ≠ []) ∧
    0 + 4096 ≤ (atCycle 4096 base).now ∧
    (let s := { base with cores := [(32767, { Core.reset with ready := [entry] })], env := { Env.none with site := .ready 32767 0 } }
     s.env.site = .ready 32767 0 ∧ (s.core 32767).ready[0]? = some entry) ∧
    (let s := partIs ({ · with tasks := [task, task] }) { Env.none with site := .task 63 1 }
     s.env.site = .task 63 1 ∧ (s.part 63).tasks[1]? = some task) ∧
    (let s := atCycle 15 { base with cores := [(0, { Core.reset with ready := [entry] })], env := { Env.none with unit := 0, sub := 15 } }
     s.env.sub = 15 ∧ (s.core 0).head (isChan 0) = some entry ∧ (s.core 0).readyHo = [] ∧ s.now % 16 = 15 ∧ s.slotFree 0 15 = true ∧
       s.coreLive 0 = true ∧ (s.part starting.part).takes = true ∧ s.canStart 0 15 entry = true) ∧
    (let s : State := { S U with cores := [(0, { Core.reset with ready := [back] })], auxs := [(0, { PartAux.reset with park := true })], env := { Env.none with unit := 0, sub := 15 } }
     s.env.sub = 15 ∧ (s.core 0).head (isChan 0) = some back ∧ (s.aux 0).park = true) ∧
    fullCore.env.unit = 0 ∧ fullCore.now % 1024 = 0 ∧ (fullCore.core 0).handOver = none ∧ fullCore.coreLive 0 = true ∧
    (fullCore.core 0).head false = some entry ∧ fullCore.stuck 0 entry = true ∧ fullCore.starts entry = true ∧ ((fullCore.partOf 0).any fun p => (fullCore.aux p).park) = false ∧
    fullCore.outgoing 0 (effPrio entry.prio entry.lvl) (fullCore.core 0).resident = some (0, 0) :=
  ⟨by decide +kernel, by decide +kernel, by decide +kernel, ⟨_, _, rfl, by decide +kernel⟩, by decide +kernel⟩

/-- A thread of eight general registers in slot 15, leaving, written out or coming back; its context's area lies in a mapped page. -/
def lean_ : Thread := { light with gregs := 8, g := [(7, 9)] }
def spill (phase : Nat) (t : Thread) : Spill :=
  { part := 0, prio := 0, off := 0, slot := 15, core := 0, tid := 5, phase := phase, t := t, ltc := 0, held := none, fills := [], seen := 0, buf := [] }
def saving (t : Thread) (spills : List Spill) : State :=
  { atCycle 15 base with
    cores := [(0, { Core.reset with
      slots := [(15, t)]
      handOver := some { part := 0, prio := 0, park := false, slots := [(15, 5)], gone := [] } })]
    auxs := [(0, { PartAux.reset with ptroot := 0x2001, ctxbase := [(0, 0x20001)] })]
    mem := [(0x2000, 0x01), (0x2001, 0x80), (0x8000, 0x1F), (0x8001, 0x06)]
    net := { Net.reset with spills := spills }, env := { Env.none with unit := 0, sub := 15 } }
def out_ : Thread := { lean_ with avail := .spilling }
def Direct.isOk : Direct → Bool
  | .ok _ => true
  | _ => false

theorem ok_of {x : Direct × State} (h : Direct.isOk x.1 = true) : ∃ bs s, x = (.ok bs, s) := by
  obtain ⟨_ | _ | _, s⟩ := x
  · exact ⟨_, s, rfl⟩
  all_goals simp [Direct.isOk] at h

def Direct.isPage : Direct → Bool
  | .page .. => true
  | _ => false

theorem page_of {x : Direct × Spill × State} (h : Direct.isPage x.1 = true) : ∃ da m, x = (.page da m, x.2.1, x.2.2) := by
  obtain ⟨_ | _ | _, y⟩ := x
  case page => exact ⟨_, _, rfl⟩
  all_goals simp [Direct.isPage] at h

theorem ok_of_read {x : Direct × Spill × State} (h : Direct.isOk x.1 = true) : ∃ bs, x = (.ok bs, x.2.1, x.2.2) := by
  obtain ⟨_ | _ | _, y⟩ := x
  · exact ⟨_, rfl⟩
  all_goals simp [Direct.isOk] at h

/-- What a restore reads of the record. -/
def restoring : State := allHad (.record 0 15) 0 0 .read ((saving out_ [spill 2 out_]).restoreBlocks (spill 2 out_)) (saving out_ [spill 2 out_])
def reads : Direct × Spill × State := (restoring.dropTicket (.record 0 15)).readRecord (spill 2 out_) (restoring.gotBy (.record 0 15))
/-- The record's page has gone. -/
def unmapped : State := { saving out_ [spill 2 out_] with mem := [] }

theorem test_meets_ThreadsLeaveAndReturn :
    (let s := saving lean_ []
     s.env.unit = 0 ∧ s.env.sub = 15 ∧ s.thread 0 15 = some lean_ ∧ s.now % 16 = 15 ∧ s.mayLeave 0 15 lean_ = true ∧
       (s.core 0).handOver.any (·.slots.contains (15, lean_.tid)) = true) ∧
    (let s := let u := saving out_ [spill 0 out_]
       allHad (.record 0 15) 0 0 .write ((u.record out_ 0).map fun b => (u.recordAt 0 0 0 15 + b.1, b.2.length)) u
     s.servedWrite (.record 0 15) 0 0 ((s.record out_ 0).map fun b => (s.recordAt 0 0 0 15 + b.1, b.2)) = true ∧
     ∃ bs s1, (s.dropTicket (.record 0 15)).directWrite 0 0 ((s.record out_ 0).map fun b => (s.recordAt 0 0 0 15 + b.1, b.2))
       (s.gotBy (.record 0 15)) = (.ok bs, s1)) ∧
    (restoring.served (.record 0 15) 0 0 .read (restoring.restoreBlocks (spill 2 out_)) = true) ∧
    ((∃ bs, reads = (.ok bs, reads.2.1, reads.2.2)) ∧
      let clear := [(restoring.recordAt 0 0 0 15 + 24, [BitVec.ofNat 8 (bufNat reads.2.1.buf 24 1) &&& ~~~(1 : Byte)])]
      restoring.servedWrite (.record 0 15) 0 0 clear = true ∧
        ∃ bs s2, reads.2.2.directWrite 0 0 clear (restoring.gotBy (.record 0 15)) = (.ok bs, s2)) ∧
    (unmapped.served (.record 0 15) 0 0 .read (unmapped.restoreBlocks (spill 2 out_)) = true ∧
      let got := unmapped.gotBy (.record 0 15)
      ∃ da m, (unmapped.dropTicket (.record 0 15)).readRecord (spill 2 out_) got = (.page da m,
        ((unmapped.dropTicket (.record 0 15)).readRecord (spill 2 out_) got).2.1, ((unmapped.dropTicket (.record 0 15)).readRecord (spill 2 out_) got).2.2)) ∧
    (partIs id Env.none).env.unit = 63 ∧ ((partIs id Env.none).aux 63).park = false ∧
    (let s : State := { partIs id { Env.none with val := 0x70005 } with auxs := [(63, { PartAux.reset with park := true })] }
     (s.aux 63).park = true ∧ s.parked 63 = true ∧ (BitVec.ofNat 16 (s.env.val.toNat / 2 ^ 16)).toNat < (s.part 63).len ∧
       s.env.val.getLsbD 0 = true) ∧
    (let s := partIs id { Env.none with val := 0x70005, sub := 3 }
     BitVec.ofNat 16 (s.env.val.toNat / 2 ^ 16) ≠ (s.aux 63).shift ∧ s.parked 63 = false ∧ s.ctxBusy 63 3 = false) ∧
    (saving out_ [spill 0 out_]).ctxBusy 0 0 = true ∧
    (let s : State := { atCycle 1024 base with cores := [(0, { Core.reset with slots := [(2, light)], loadq := 4 + 2 ^ 40 })],
                                               env := { Env.none with unit := 0 } }
     s.partOf 0 = some 0 ∧ s.now % 1024 = 0 ∧ (s.aux 0).bal = true ∧ s.places 0 = true ∧ s.coreLive 0 = true ∧
       loadField (s.core 0).loadq (idleField (s.core 0).loadq) ≠ 31 ∧
       loadField (s.core 0).loadq (idleField (s.core 0).loadq) + 4 ≤ loadField (s.core 0).loadq (0 % 8) ∧
       ((s.core 0).slots.filter fun e => s.movable e.1 e.2 && !(s.core 0).leaving e.1 e.2).getLast? = some (2, light)) ∧
    ({ base with env := { Env.none with unit := 4095 } }.env.unit = 4095 ∧ base.partOf (8 * 0 + 7) = some 0) :=
  ⟨by decide +kernel, ⟨by decide +kernel, ok_of (by decide +kernel)⟩, by decide +kernel, ⟨ok_of_read (by decide +kernel), by decide +kernel, ok_of (by decide +kernel)⟩,
   ⟨by decide +kernel, page_of (by decide +kernel)⟩, by decide +kernel⟩

/-! ### The whole machine -/

/-- A thread at the last word of its line. -/
def atTurn (t : Thread) (w : Nat) : State :=
  { base with cores := [(0, { Core.reset with
      slots := [(0, t)]
      ibuf := [{ part := 0, base := 0, off := 0, bytes := BitVec.ofNat 512 (w * 2 ^ 480) }] })] }
def lastWord : Thread := { loadedThread with pc := 60 }

theorem test_meets_StepRunsTheDecodedInstruction :
    (∀ w ∈ [0x20642810, 0xFC000000], let s := atTurn lastWord w
      s.agenda = [] ∧ s.md.shutdown = false ∧ s.nextTry s.rotor.core s.rotor.tried s.cores = some (0, 0) ∧ (s.now + 0) % 16 = 0 ∧
        s.thread 0 0 = some lastWord ∧ lastWord.reports = [] ∧ lastWord.gcnt = 0) ∧
    (∃ da l, segCheck (lastWord.seg 0) lastWord.pc 4 4 .fetch = .ok da ∧ da < 2 ^ 48 ∧
      ((atTurn lastWord 0x20642810).core 0).ibuf.find?
        (fun x => x.part == 0 && x.base == segBase (lastWord.seg 0) && x.off == lastWord.pc.toNat / 64 * 64) = some l ∧
      0x20642810 = (l.bytes >>> (8 * (lastWord.pc.toNat % 64))).setWidth 32) ∧
    (let t := { lastWord with gcnt := 3, gcond := false }
     (atTurn t 0).nextTry 0 0 (atTurn t 0).cores = some (0, 0) ∧ t.gcnt ≠ 0 ∧ t.gcond = false ∧ t.avail = .rotation) ∧
    (let s : State := { base with agenda := [.event .moduleReset Env.none] }
     s.agenda = [.event .moduleReset Env.none] ∧ s.md.shutdown = false ∧ Instr.moduleReset.isEvent = true) :=
  ⟨by decide +kernel, ⟨_, _, rfl, by decide +kernel, rfl, rfl⟩, by decide +kernel, by decide +kernel⟩

theorem test_meets_DecodingInvertsEncoding : (Instr.stn 15 31 7 1 3 0x3FF).wellFormed = true ∧ ∃ w, encode (.stn 15 31 7 1 3 0x3FF) = some w ∧
    decodeWord w = .ok (.stn 15 31 7 1 3 0x3FF) := ⟨rfl, _, rfl, rfl⟩

theorem test_meets_StepsKeepMemoryCanonical : State.reset.Inv ∧ ∃ s', step State.reset = .next s' := ⟨show Memory.wf _ = true by decide +kernel, _, rfl⟩

theorem test_meets_GeneralModeStaysGeneral : Instr.nop.isEvent = false ∧ (S U).mine = some U ∧ U.mode = false ∧
    ∃ s' t', exec .nop (S U) = .next s' ∧ s'.mine = some t' ∧ t'.tid = U.tid :=
  ⟨rfl, by decide +kernel, rfl, _, _, rfl, rfl, rfl⟩

end Sys2Proof.Tests
end

section
/-! SUPPORT. An instruction whose whole effect is one general register: what `WritesG` asks of it, proved once from the laws of the
attempt. -/

open Sys2Proof Sys2Proof.Machine

namespace Sys2Proof.Machine

/-! ### Full bits and retirement (R180, R290) -/

@[simp] theorem getLsbD_bclr {w : Nat} (v : BitVec w) (i n : Nat) : (bclr v i).getLsbD n = if n = i then false else v.getLsbD n := by
  change (v &&& ~~~BitVec.twoPow w i).getLsbD n = _
  by_cases hn : n < w
  · by_cases hi : n = i <;> simp [hn, hi]
  · simp [BitVec.getLsbD_of_ge _ n (Nat.le_of_not_lt hn)]

/-- A register is full once it is written; `g0` always is (R180, R181). -/
theorem Thread.setG_gEmpty (t : Thread) (d : Nat) (v : Word) (n : Nat) :
    (t.setG d v).gEmpty.getLsbD n = if n = d ∧ d ≠ 0 then false else t.gEmpty.getLsbD n := by
  unfold Thread.setG
  split
  next hd => simp [hd]
  next hd => simp [hd]

/-- Retirement leaves the general registers and their full bits alone. -/
@[simp] theorem Thread.advance_g (t : Thread) (slot now : Nat) : (t.issued slot now).advance.g = t.g := by
  rw [Thread.issued_like]; rfl
@[simp] theorem Thread.advance_gEmpty (t : Thread) (slot now : Nat) : (t.issued slot now).advance.gEmpty = t.gEmpty := by
  rw [Thread.issued_like]; rfl
@[simp] theorem Thread.advance_gr (t : Thread) (slot now n : Nat) : (t.issued slot now).advance.gr n = t.gr n := by
  simp [Thread.gr]

end Sys2Proof.Machine

namespace Sys2Proof.Claims

/-- A thread that writes g[d] and retires has got it. -/
theorem gotG_setG (t : Thread) (d slot now : Nat) (v : Word) {ok : Word → Prop} (hok : ok v) :
    GotG t ((t.setG d v).issued slot now).advance d ok where
  value hd := by simpa [Thread.setG_gr, hd] using hok
  other n hn := by
    have : ¬(n = d ∧ n ≠ 0) := by omega
    simp [Thread.setG_gr, this]
  full n := by simp [Thread.setG_gEmpty]

/-- Writing g[d] and retiring changes nothing else of the thread. -/
theorem advance_setG_like (t : Thread) (d slot now : Nat) (v : Word) :
    let t' := ((t.setG d v).issued slot now).advance
    t' = { t.like t' with g := t'.g, gEmpty := t'.gEmpty } := by
  dsimp only
  rw [Thread.issued_like, Thread.setG_like]
  rfl

/-- An attempt that ends by writing `v` to g[d] and retiring writes a result, and does nothing else. -/
theorem writesG_of_setG {i : Instr} {s : State} {t : Thread} {d : Nat} {v : Word} {ok : Word → Prop} (hm : s.mine = some t)
    (he : exec i s = .next (finish s t (.retire (s.here (·.setG d v))))) (hok : ok v) : WritesG i s t d ok := by
  obtain ⟨hmine, halone⟩ := retire_here hm (·.setG d v)
  have honward : Onward s t ((t.setG d v).issued s.cur.slot s.now).advance (t.pc + 4) := by
    apply Thread.advance_onward <;> rw [Thread.setG_like]
  exact ⟨_, _, he, hmine, gotG_setG t d _ _ v hok, advance_setG_like t d _ _ v, honward, halone⟩

/-- The form of one source completes with its function of it. -/
theorem writesG_of_alu1 {i : Instr} {s : State} {t : Thread} {d a : BitVec 5} {f : Word → Word} {ok : Word → Prop}
    (he : exec i s = alu1 s d a f) (h : Ready s t { gR := [a.toNat], gW := [d.toNat] }) (hok : ok (f (t.gr a.toNat))) :
    WritesG i s t d.toNat ok :=
  writesG_of_setG h.mine (he.trans (issue_ready h _)) hok

/-- The form of two sources completes with its function of them. -/
theorem writesG_of_alu2 {i : Instr} {s : State} {t : Thread} {d a b : BitVec 5} {f : Word → Word → Word} {ok : Word → Prop}
    (he : exec i s = alu2 s d a b f) (h : Ready s t { gR := [a.toNat, b.toNat], gW := [d.toNat] })
    (hok : ok (f (t.gr a.toNat) (t.gr b.toNat))) : WritesG i s t d.toNat ok :=
  writesG_of_setG h.mine (he.trans (issue_ready h _)) hok

end Sys2Proof.Claims
end

section
/-! SUPPORT. PHASH and RNDK as compositions of steps that can each be undone (R253, R254): a right shift XORed in, a multiplication by an
odd constant, and the addition of a round key. -/

open Sys2Proof Sys2Proof.Machine

namespace Sys2Proof.Machine

/-! ### Maps that can be undone -/

/-- A map with an inverse on both sides. -/
def CanBeUndone {α : Type} (f : α → α) : Prop := ∃ g : α → α, (∀ x, g (f x) = x) ∧ ∀ y, f (g y) = y

theorem CanBeUndone.injective {α : Type} {f : α → α} (hf : CanBeUndone f) {x y : α} (h : f x = f y) : x = y := by
  obtain ⟨g, hgf, -⟩ := hf
  rw [← hgf x, h, hgf]

theorem CanBeUndone.surjective {α : Type} {f : α → α} (hf : CanBeUndone f) (y : α) : ∃ x, f x = y := by
  obtain ⟨g, -, hfg⟩ := hf
  exact ⟨g y, hfg y⟩

/-- Two such maps in a row are undone in the opposite order. -/
theorem CanBeUndone.comp {α : Type} {f₁ f₂ : α → α} (h₂ : CanBeUndone f₂) (h₁ : CanBeUndone f₁) : CanBeUndone fun x => f₂ (f₁ x) := by
  obtain ⟨g₁, hgf₁, hfg₁⟩ := h₁
  obtain ⟨g₂, hgf₂, hfg₂⟩ := h₂
  have hgf (x : α) : g₁ (g₂ (f₂ (f₁ x))) = x := by rw [hgf₂, hgf₁]
  have hfg (y : α) : f₂ (f₁ (g₁ (g₂ y))) = y := by rw [hfg₁, hfg₂]
  exact ⟨fun y => g₁ (g₂ y), hgf, hfg⟩

/-! ### The steps -/

/-- h XOR (h >> r). -/
def xorShift {w : Nat} (r : Nat) (x : BitVec w) : BitVec w := x ^^^ (x >>> r)

/-- What undoes `xorShift r` where three shifts by `r` leave no bit. -/
def xorUnshift {w : Nat} (r : Nat) (y : BitVec w) : BitVec w := y ^^^ (y >>> r) ^^^ (y >>> (r + r))

theorem xorUnshift_xorShift {w r : Nat} (hr : w ≤ r + (r + r)) (x : BitVec w) : xorUnshift r (xorShift r x) = x := by
  have hout : x >>> (r + (r + r)) = 0#w := BitVec.ushiftRight_eq_zero hr
  calc xorUnshift r (xorShift r x)
      = x ^^^ x >>> r ^^^ (x >>> r ^^^ x >>> (r + r)) ^^^ (x >>> (r + r) ^^^ x >>> (r + (r + r))) := by
        simp only [xorUnshift, xorShift, BitVec.ushiftRight_xor_distrib, ← BitVec.shiftRight_add]
    _ = x := by rw [hout]; simp only [BitVec.xor_assoc, BitVec.xor_self, BitVec.xor_zero]

theorem xorShift_xorUnshift {w r : Nat} (hr : w ≤ r + (r + r)) (y : BitVec w) : xorShift r (xorUnshift r y) = y := by
  have hout : y >>> (r + (r + r)) = 0#w := BitVec.ushiftRight_eq_zero hr
  calc xorShift r (xorUnshift r y)
      = y ^^^ y >>> r ^^^ y >>> (r + r) ^^^ (y >>> r ^^^ y >>> (r + r) ^^^ y >>> (r + (r + r))) := by
        simp only [xorUnshift, xorShift, BitVec.ushiftRight_xor_distrib, ← BitVec.shiftRight_add, Nat.add_assoc]
    _ = y := by rw [hout, BitVec.xor_zero, BitVec.xor_assoc y, BitVec.xor_assoc y, BitVec.xor_self, BitVec.xor_zero]

theorem xorShift_canBeUndone {w r : Nat} (hr : w ≤ r + (r + r)) : CanBeUndone (xorShift r : BitVec w → BitVec w) :=
  ⟨xorUnshift r, xorUnshift_xorShift hr, xorShift_xorUnshift hr⟩

/-- Multiplication by a constant is undone by its inverse modulo 2^w. -/
theorem mul_canBeUndone {w : Nat} {c i : BitVec w} (h : c * i = 1#w) : CanBeUndone fun x : BitVec w => x * c := by
  have hleft (x : BitVec w) : x * c * i = x := by rw [BitVec.mul_assoc, h, BitVec.mul_one]
  have hright (y : BitVec w) : y * i * c = y := by rw [BitVec.mul_assoc, BitVec.mul_comm i c, h, BitVec.mul_one]
  exact ⟨fun y => y * i, hleft, hright⟩

theorem mul_first_canBeUndone : CanBeUndone fun x : Word => x * 0xD6E8FEB86659FD93 :=
  mul_canBeUndone (i := 0xCFEE444D8B59A89B) (by decide)

theorem mul_second_canBeUndone : CanBeUndone fun x : Word => x * 0xA5CB3E9124F70D6B :=
  mul_canBeUndone (i := 0x81A5AF839A40B743) (by decide)

/-- Addition of a round key is undone by its subtraction. -/
theorem add_canBeUndone {w : Nat} (k : BitVec w) : CanBeUndone fun x : BitVec w => x + k :=
  ⟨fun y => y - k, fun x => BitVec.add_sub_cancel x k, fun y => BitVec.sub_add_cancel y k⟩

/-- What PHASH and a round of RNDK share: two shifts about the first multiplication. -/
def shiftMulShift (r1 r2 : Nat) (x : Word) : Word := xorShift r2 (xorShift r1 x * 0xD6E8FEB86659FD93)

theorem shiftMulShift_canBeUndone {r1 r2 : Nat} (h1 : 64 ≤ r1 + (r1 + r1)) (h2 : 64 ≤ r2 + (r2 + r2)) :
    CanBeUndone (shiftMulShift r1 r2) :=
  (xorShift_canBeUndone h2).comp (mul_first_canBeUndone.comp (xorShift_canBeUndone h1))

/-! ### PHASH (R253) -/

theorem phash_eq (x : Word) : phash x = xorShift 32 (shiftMulShift 31 29 x * 0xA5CB3E9124F70D6B) := rfl

theorem phash_canBeUndone : CanBeUndone phash :=
  (xorShift_canBeUndone (by decide)).comp (mul_second_canBeUndone.comp (shiftMulShift_canBeUndone (by decide) (by decide)))

/-! ### RNDK (R254) -/

/-- What a round of RNDK with the round key `k` does to the counter. -/
def rndkMix (k x : Word) : Word := shiftMulShift 32 29 (x + k)

/-- The round key of the next round. -/
def rndkKey (k : Word) : Word := k.rotateLeft 17 + 0x7B2C4E91D35A60F7

theorem rndkRound_eq (x k : Word) : rndkRound (x, k) = (rndkMix k x, rndkKey k) := rfl

theorem rndk_eq (k c : Word) :
    rndk k c = rndkMix (rndkKey (rndkKey (rndkKey k))) (rndkMix (rndkKey (rndkKey k)) (rndkMix (rndkKey k) (rndkMix k c))) := by
  simp only [rndk, rndkRound_eq]

theorem rndkMix_canBeUndone (k : Word) : CanBeUndone (rndkMix k) :=
  (shiftMulShift_canBeUndone (by decide) (by decide)).comp (add_canBeUndone k)

/-- Under one key the four rounds are four bijections in a row. -/
theorem rndk_injective {k x y : Word} (h : rndk k x = rndk k y) : x = y := by
  rw [rndk_eq, rndk_eq] at h
  have hround {k x y : Word} : rndkMix k x = rndkMix k y → x = y := (rndkMix_canBeUndone k).injective
  exact hround (hround (hround (hround h)))

end Sys2Proof.Machine

namespace Sys2Proof.Claims

/-- Settles O4: every step of PHASH and of a round of RNDK can be undone, and both instructions have the form of one result in g[D]. -/
theorem hashAndRandomAreInjective : Obligations.HashAndRandomAreInjective := by
  refine ⟨phash_eq, rndk_eq, fun _ _ => phash_canBeUndone.injective, phash_canBeUndone.surjective, rfl,
    fun k _ _ => (rndkMix_canBeUndone k).injective, fun k => (rndkMix_canBeUndone k).surjective, fun _ _ _ => rndk_injective, ?_, ?_⟩
  · intro s t d a h
    exact writesG_of_alu1 (exec_phash d a s) h rfl
  · intro s t d a b h
    exact writesG_of_alu2 (exec_rndk d a b s) h rfl

end Sys2Proof.Claims
end

section
/-! SUPPORT. Division (R283): the model's quotients and remainders are the library's on words, but for a divisor of zero. -/

open Sys2Proof Sys2Proof.Machine

namespace Sys2Proof.Machine

/-! ### The library's operations -/

@[simp] theorem divS_zero (a : Word) : divS a 0 = (BitVec.allOnes 64, a) := rfl

theorem divS_of_ne (a : Word) {b : Word} (hb : b ≠ 0) : divS a b = (a.sdiv b, a.srem b) := by
  have hquot : BitVec.ofInt 64 (a.toInt.tdiv b.toInt) = a.sdiv b := BitVec.toInt_inj.mp (by rw [BitVec.toInt_ofInt, BitVec.toInt_sdiv])
  have hrem : BitVec.ofInt 64 (a.toInt.tmod b.toInt) = a.srem b := by rw [← BitVec.toInt_srem, BitVec.ofInt_toInt]
  rw [divS, if_neg hb, hquot, hrem]

@[simp] theorem divU_zero (a : Word) : divU a 0 = (BitVec.allOnes 64, a) := rfl

theorem divU_of_ne (a : Word) {b : Word} (hb : b ≠ 0) : divU a b = (a / b, a % b) := if_neg hb

/-! ### The one quotient that wraps -/

/-- The dividend and the divisor whose quotient, 2^63, is no signed word. -/
abbrev QuotientWraps (a b : Word) : Prop := a.toInt = -2 ^ 63 ∧ b.toInt = -1

theorem quotientWraps_iff (a b : Word) : QuotientWraps a b ↔ a = BitVec.intMin 64 ∧ b = -1#64 := by
  have hmin : (BitVec.intMin 64).toInt = -2 ^ 63 := by decide
  have hone : (-1#64).toInt = -1 := by decide
  rw [QuotientWraps, ← hmin, ← hone, BitVec.toInt_inj, BitVec.toInt_inj]

theorem toInt_sdiv_of_wraps {a b : Word} (h : QuotientWraps a b) : (a.sdiv b).toInt = -2 ^ 63 := by
  obtain ⟨rfl, rfl⟩ := (quotientWraps_iff a b).mp h
  rw [BitVec.intMin_sdiv_neg_one]
  decide

theorem toInt_sdiv_of_not_wraps {a b : Word} (h : ¬QuotientWraps a b) : (a.sdiv b).toInt = a.toInt.tdiv b.toInt := by
  have hpair : ¬(a = BitVec.intMin 64 ∧ b = -1#64) := fun hab => h ((quotientWraps_iff a b).mpr hab)
  exact BitVec.toInt_sdiv_of_ne_or_ne a b (Decidable.not_and_iff_not_or_not.mp hpair)

theorem srem_of_wraps {a b : Word} (h : QuotientWraps a b) : a.srem b = 0 := by
  obtain ⟨rfl, rfl⟩ := (quotientWraps_iff a b).mp h
  decide

theorem toInt_srem_eq_sub (a b : Word) : (a.srem b).toInt = a.toInt - a.toInt.tdiv b.toInt * b.toInt := by
  rw [BitVec.toInt_srem, Int.tmod_def, Int.mul_comm]

/-! ### Quotient and remainder for every pair of operands -/

theorem divS_quotient (a b : Word) :
    if b = 0 then (divS a b).1 = BitVec.allOnes 64
    else if QuotientWraps a b then (divS a b).1.toInt = -2 ^ 63
    else (divS a b).1.toInt = a.toInt.tdiv b.toInt := by
  split
  next hb => rw [hb, divS_zero]
  next hb =>
    rw [divS_of_ne a hb]
    split
    next h => exact toInt_sdiv_of_wraps h
    next h => exact toInt_sdiv_of_not_wraps h

theorem divS_remainder (a b : Word) :
    if b = 0 then (divS a b).2 = a
    else if QuotientWraps a b then (divS a b).2 = 0
    else (divS a b).2.toInt = a.toInt - a.toInt.tdiv b.toInt * b.toInt := by
  split
  next hb => rw [hb, divS_zero]
  next hb =>
    rw [divS_of_ne a hb]
    split
    next h => exact srem_of_wraps h
    next => exact toInt_srem_eq_sub a b

theorem divU_quotient (a b : Word) :
    if b = 0 then (divU a b).1 = BitVec.allOnes 64 else (divU a b).1.toNat = a.toNat / b.toNat := by
  split
  next hb => rw [hb, divU_zero]
  next hb => rw [divU_of_ne a hb, BitVec.toNat_udiv]

theorem divU_remainder (a b : Word) :
    if b = 0 then (divU a b).2 = a else (divU a b).2.toNat = a.toNat - a.toNat / b.toNat * b.toNat := by
  split
  next hb => rw [hb, divU_zero]
  next hb => rw [divU_of_ne a hb, BitVec.toNat_umod, Nat.mod_eq_sub_div_mul]

end Sys2Proof.Machine

namespace Sys2Proof.Claims

/-- R283 for each of the four forms, one result in g[D]. -/
theorem rowResult_divRow : RowResult divRow := by
  intro i s t r hr h
  unfold divRow at hr
  split at hr <;> cases hr
  next d a b => exact writesG_of_alu2 (exec_div d a b s) h (divS_quotient _ _)
  next d a b => exact writesG_of_alu2 (exec_rem d a b s) h (divS_remainder _ _)
  next d a b => exact writesG_of_alu2 (exec_divu d a b s) h (divU_quotient _ _)
  next d a b => exact writesG_of_alu2 (exec_remu d a b s) h (divU_remainder _ _)

/-- Settles O2: each of the four forms writes what its row says of the operands, and both words decode by evaluation. -/
theorem divisionResults : Obligations.DivisionResults := ⟨rowResult_divRow, rfl, rfl⟩

end Sys2Proof.Claims
end

section
/-! SUPPORT. LIH (R287): the lane that it writes and the three that it keeps, bit by bit, and its reserved field. -/

open Sys2Proof Sys2Proof.Machine

namespace Sys2Proof

/-! ### The word of LIH -/

theorem decodeFields_lih {w : IWord} (hop : fld w 26 6 = 0x0F) :
    decodeFields w = need (fld w 18 3 == 0) .reservedField (ok (.lih (fld w 21 5) (fld w 16 2) (fld w 0 16))) := by
  unfold decodeFields
  rw [hop]
  rfl

theorem decodeWord_lih_reserved {w : IWord} (hop : fld w 26 6 = 0x0F) (hrsv : fld w 18 3 ≠ 0) : decodeWord w = .error .reservedField := by
  have hbad : (fld w 18 3 == 0) = false := beq_false_of_ne hrsv
  rw [decodeWord, decodeFields_lih hop, hbad]
  rfl

end Sys2Proof

namespace Sys2Proof.Machine

/-! ### One lane -/

theorem getLsbD_laneMask (j : Nat) : (0xFFFF : Word).getLsbD j = decide (j < 16) := by
  have hmask : (0xFFFF : Word) = (BitVec.allOnes 16).setWidth 64 := by decide
  rw [hmask, BitVec.getLsbD_setWidth, BitVec.getLsbD_allOnes, Bool.and_eq_right_iff_imp]
  simp only [decide_eq_true_eq]
  omega

/-- LIH writes the bits of its immediate into lane k and keeps every other bit. -/
theorem getLsbD_laneInsert (d : Word) (k : BitVec 2) (i : BitVec 16) {j : Nat} (hj : j < 64) :
    (laneInsert d k i).getLsbD j =
      if 16 * k.toNat ≤ j ∧ j < 16 * k.toNat + 16 then i.getLsbD (j - 16 * k.toNat) else d.getLsbD j := by
  simp only [laneInsert, immZ, BitVec.getLsbD_or, BitVec.getLsbD_and, BitVec.getLsbD_not, BitVec.getLsbD_shiftLeft, getLsbD_laneMask,
    BitVec.getLsbD_setWidth, hj, decide_true, Bool.true_and]
  by_cases hlo : j < 16 * k.toNat
  · simp [hlo, Nat.not_le.mpr hlo]
  · by_cases hhi : j < 16 * k.toNat + 16
    · have hlane : j - 16 * k.toNat < 16 := by omega
      have hin : j - 16 * k.toNat < 64 := by omega
      simp [hlo, hhi, hin, hlane, Nat.le_of_not_lt hlo]
    · have hlane : ¬j - 16 * k.toNat < 16 := by omega
      simp [hlo, hhi, hlane, BitVec.getLsbD_of_ge i _ (Nat.le_of_not_lt hlane)]

end Sys2Proof.Machine

namespace Sys2Proof.Claims

/-- The word `v` is `d` with the 16 bits of `i` in its lane `k`. -/
def LaneSet (k : Nat) (i : BitVec 16) (d v : Word) : Prop :=
  ∀ j < 64, v.getLsbD j = if 16 * k ≤ j ∧ j < 16 * k + 16 then i.getLsbD (j - 16 * k) else d.getLsbD j

/-- Lane k written from `w` over a word that agrees with `w` below it agrees with `w` up to the next lane. -/
theorem LaneSet.agrees {k : Nat} {w d v : Word} (h : LaneSet k (w.extractLsb' (16 * k) 16) d v) (hk : k < 4)
    (hd : ∀ j < 16 * k, d.getLsbD j = w.getLsbD j) : ∀ j < 16 * (k + 1), v.getLsbD j = w.getLsbD j := by
  intro j hj
  rw [h j (by omega)]
  split
  next hlane =>
    have hin : j - 16 * k < 16 := by omega
    rw [BitVec.getLsbD_extractLsb', decide_eq_true hin, Bool.true_and, Nat.add_sub_cancel' hlane.1]
  next hlane => exact hd j (by omega)

/-- Lanes 0 to 3 in a row make any word, whatever the register held. -/
theorem eq_of_laneSet_four {w a b c d e : Word} (h0 : LaneSet 0 (w.extractLsb' 0 16) a b) (h1 : LaneSet 1 (w.extractLsb' 16 16) b c)
    (h2 : LaneSet 2 (w.extractLsb' 32 16) c d) (h3 : LaneSet 3 (w.extractLsb' 48 16) d e) : e = w := by
  have hb : ∀ j < 16, b.getLsbD j = w.getLsbD j := h0.agrees (by decide) fun j hj => absurd hj j.not_lt_zero
  have hc : ∀ j < 32, c.getLsbD j = w.getLsbD j := h1.agrees (by decide) hb
  have hd : ∀ j < 48, d.getLsbD j = w.getLsbD j := h2.agrees (by decide) hc
  exact BitVec.eq_of_getLsbD_eq (h3.agrees (by decide) hd)

theorem writesG_lih {s : State} {t : Thread} (d : BitVec 5) (k : BitVec 2) (i : BitVec 16)
    (h : Ready s t { gR := [d.toNat], gW := [d.toNat] }) :
    WritesG (.lih d k i) s t d.toNat (LaneSet k.toNat i (t.gr d.toNat)) :=
  writesG_of_alu1 (exec_lih d k i s) h fun _ hj => getLsbD_laneInsert (t.gr d.toNat) k i hj

/-- Settles O3: LIH writes its lane, each lane extends what agrees with the value, and a reserved bit refuses the word. -/
theorem lihWritesOneLane : Obligations.LihWritesOneLane := by
  refine ⟨fun s t d k i h => writesG_lih d k i h, fun w a b c d e h0 h1 h2 h3 => eq_of_laneSet_four h0 h1 h2 h3, ?_,
    rfl, rfl, rfl, rfl, rfl, rfl, rfl, rfl⟩
  intro w hop hrsv i hi
  have hrefused : decodeWord w = .error .reservedField := decodeWord_lih_reserved hop hrsv
  exact nomatch hrefused.symm.trans hi

end Sys2Proof.Claims
end
